-- ==== Sys2Proof/Word.lean ====
section
/-! DEFINITION. The word types of the Byrralu V320 and the fields an instruction names (R3, R169, R170). -/

namespace Sys2Proof

/-- A general register, an address or a CSR: 64 bits. -/
abbrev Word := BitVec 64

/-- An instruction word, a fabric payload or a 32-bit field of a structure in memory. -/
abbrev W32 := BitVec 32

/-- The smallest addressable unit of memory (R3). -/
abbrev Byte := BitVec 8

/-- A register field: g0 to g63 (R169). -/
abbrev Reg := BitVec 6

/-- A predicate register: p0 to p7 (R169). -/
abbrev PReg := BitVec 3

/-- The predicate of a word: `PR` names p0 to p7 and `PN` negates it (R169, R173). -/
structure Pr where
  pr : PReg
  pn : Bool
  deriving DecidableEq, Repr

/-- The scope of an ordering word (R175, R201). -/
inductive Scope where
  | core
  | die
  | pkg
  | sys
  deriving DecidableEq, Repr

end Sys2Proof
end

