-- ==== Sys2Proof/Config.lean ====
section
/-! DEFINITION. What one implementation fixes and the values the spec leaves open. A constant with no body is a free
value: nothing can evaluate it, and a statement about it holds for every value. -/

namespace Sys2Proof.Config

/-- A fresh free 64-bit value: the step applies it to the model's own counter `fresh` and advances that counter.
DESIGN CHOICE: log 3. -/
opaque freeWord : Nat → Word

/-! ### The syntax that a Headwater engine meets in a coded stream (R11 to R13, R33 to R35)

These types hold what the codecs' standards put in a stream, in the codecs' own terms; the model turns it into block
tensors, picture records and side records. -/

/-- The profiles that R11 names, and any other. -/
inductive Profile where
  | hevcMain | hevcMain10 | av1Main | vvcMain10 | avcConstrainedBaseline | avcMain | avcHigh | other
  deriving DecidableEq, Repr, Inhabited

/-- The forms of a bitstream that R11 names, and any other. -/
inductive StreamForm where
  | annexB | sizedObus | other
  deriving DecidableEq, Repr, Inhabited

/-- A sequence header: its level as ten times the number, so that 6.2 is 62; `chroma` is 1 for 4:2:0, as the standards
number it; `refs` is the reference pictures it asks for, and `exotic` says that it uses FMO, ASO or large-scale tiles. -/
structure Sequence where
  profile : Profile
  level : Nat
  form : StreamForm
  chroma : Nat
  bitLuma : Nat
  bitChroma : Nat
  wid : Nat
  hgt : Nat
  refs : Nat
  exotic : Bool
  deriving DecidableEq, Repr, Inhabited

/-- A rectangle of a plane, in samples. -/
structure Rect where
  x : Nat
  y : Nat
  w : Nat
  h : Nat
  deriving DecidableEq, Repr, Inhabited

/-- A coded level, or a residual sample: its column and row in its unit, its value as coded with hidden signs resolved, and
what the codec's scaling process makes of it before any clip (R26, R27, R34). -/
structure Coef where
  col : Nat
  row : Nat
  level : Int
  scaled : Int
  deriving DecidableEq, Repr, Inhabited

/-- A transform unit: its top-left sample in the plane, its log2 size, its coded levels, none when its coded-block flag is
clear, whether it is transform-skipped, whether it uses explicit RDPCM or a type other than the codec's default for its
size and mode (HEVC), and its transform type, 0 for DCT_DCT (AV1). -/
structure TransformUnit where
  x : Nat
  y : Nat
  lw : Nat
  lh : Nat
  coded : Option (List Coef)
  skipped : Bool
  otherType : Bool
  txType : Nat
  deriving DecidableEq, Repr, Inhabited

/-- A vector in the codec's own units, before any refinement, and the codec's own reference number. -/
structure Vec where
  x : Int
  y : Int
  ref : Nat
  deriving DecidableEq, Repr, Inhabited

/-- The vectors of a block by list, at least one; of GPM and of compound prediction, those of the two parts. -/
inductive Motion where
  | list0 (v : Vec)
  | list1 (v : Vec)
  | both (v0 v1 : Vec)
  deriving DecidableEq, Repr, Inhabited

/-- An intra mode: a plain one by its number, a MIP mode, an Intra 16x16 mode, an AV1 `y_mode` with its `angle_delta`, an
AV1 filter intra mode. -/
inductive IntraMode where
  | plain (m : Nat)
  | mip (m : Nat)
  | whole16 (m : Nat)
  | directional (yMode : Nat) (delta : Int)
  | filter (f : Nat)
  deriving DecidableEq, Repr, Inhabited

/-- How a coding unit is predicted: intra, by parts; inter, by parts, with the codec's skip flag; inter with one motion per
subblock in raster order (affine and SbTMVP of VVC, warped motion of AV1); intra block copy; palette, with its table and
indices as the side record carries them. -/
inductive Coding where
  | intra (parts : List (Rect × IntraMode))
  | inter (skip : Bool) (parts : List (Rect × Motion))
  | subblocks (skip : Bool) (motions : List Motion)
  | blockCopy (v : Vec)
  | palette (payload : List Byte)
  deriving DecidableEq, Repr, Inhabited

/-- The tools of R34 that a coding unit may use. -/
inductive Tool where
  | weighted | ciip | gpm | bcw | compoundMask | obmc | interIntra | scaledReference | dmvr | bdof | prof
  deriving DecidableEq, Repr, Inhabited

/-- A chroma block in chroma samples: its intra mode, its units by component, and the DC levels of AVC. -/
structure ChromaBlock where
  rect : Rect
  mode : IntraMode
  cb : List TransformUnit
  cr : List TransformUnit
  dcCb : List Coef
  dcCr : List Coef
  deriving DecidableEq, Repr, Inhabited

/-- A coding unit, macroblock or block: its place in luma samples; `qp` is QpY, QPY or `qindex`; `lossless` is the codec's
flag for transform and quantisation bypass; `mts` and `lfnst` are VVC's indices; `dc` the levels of AVC's Intra 16x16 luma
DC block, in 4 by 4 block order. -/
structure CodingUnit where
  rect : Rect
  coding : Coding
  tools : List Tool
  qp : Int
  lossless : Bool
  mts : Nat
  lfnst : Nat
  units : List TransformUnit
  dc : List Coef
  chroma : List ChromaBlock
  deriving DecidableEq, Repr, Inhabited

/-- A coding-tree unit or superblock: its place in raster order, and its coding units in coding order. -/
structure Ctu where
  place : Nat
  units : List CodingUnit
  deriving DecidableEq, Repr, Inhabited

/-- What a picture is coded with: intra slices only, P slices, B slices. -/
inductive PictureType where
  | intra | p | b
  deriving DecidableEq, Repr, Inhabited

/-- Syntax beside a picture that becomes a side record (R30): an SEI message with its payload type, an AV1 metadata OBU,
AV1 film-grain parameters, AV1 superres parameters. -/
inductive Extra where
  | sei (payloadType : Nat) (bytes : List Byte)
  | metadata (bytes : List Byte)
  | filmGrain (bytes : List Byte)
  | superres (bytes : List Byte)
  deriving DecidableEq, Repr, Inhabited

/-- A picture: the sequence it belongs to; whether a syntax error breaks it off, `ctus` then holding the complete ones;
whether it is coded by field or with MBAFF, and whether decoding can begin at it (IRAP, IDR or key frame); the log2 of its
CTU size less 4; its own width and height; `qpOffset` is QpBdOffset and `coefBits` the bits of the codec's coefficient
range; `refs0` and `refs1` give, by reference index, the `PICNUM` that the index names, if it names a picture; `stop` is
the count of stream bytes at its last byte. Of what the spec leaves open: `freeDone` is the `DONE` of a skipped picture,
`freeSide` the `SIDEOFF` of one without side records, and `freePool` the `POFF` of records without storage, by place. -/
structure Picture where
  seq : Sequence
  synErr : Bool
  fieldCoded : Bool
  randomAccess : Bool
  type : PictureType
  ctuLog : Fin 4
  wid : Nat
  hgt : Nat
  poc : Int
  qpOffset : Nat
  coefBits : Nat
  refs0 : List (Option Nat)
  refs1 : List (Option Nat)
  ctus : List Ctu
  extras : List Extra
  stop : Nat
  freeDone : Bool
  freeSide : Nat
  freePool : List Nat
  deriving DecidableEq, Repr, Inhabited

/-- A sequence header or a picture, each with its layer: above 0 for `nuh_layer_id` or `spatial_id` above 0 and for what
AVC NAL types 14, 15 and 20 carry. -/
inductive Item where
  | sequence (layer : Nat) (q : Sequence)
  | picture (layer : Nat) (p : Picture)
  deriving DecidableEq, Repr, Inhabited

/-- What the bytes of a stream hold: its headers and complete pictures in decode order, and whether the bytes end part-way
through a picture. -/
structure Parse where
  items : List Item
  mid : Bool
  deriving DecidableEq, Repr, Inhabited

/-- Entropy decoding, syntax parsing and the derivation of vectors, which the spec takes from the standards of the codecs:
what the bytes of a stream of codec `codec` hold, `final` when no byte will follow. PRESUMED: log 78. -/
opaque parse (codec : Nat) (stream : List Byte) (final : Bool) : Parse

/-! ### Keys and signatures (R288 to R293): the keys are the module's own -/

/-- The Ronkesel root public key in the boot ROM. PRESUMED: log 85. -/
opaque rootKey : List Byte

/-- The module's private identity key, 57 bytes, deployed or returned: what the unclonable function gives (R290).
PRESUMED: log 85. -/
opaque identitySeed (returned : Bool) : List Byte

end Sys2Proof.Config
end

