-- ==== Sys2Proof/Machine/Bits.lean ====
section
/-! DEFINITION. Bit fields, sign extension and byte order, in the spec's own words: `bits(x, hi, lo)`, `s(x)`,
`u(x)`, `sext`, little-endian bytes (R3, R179). -/

namespace Sys2Proof.Machine

/-- `bits(x, hi, lo)` of a number (R179). -/
def bits (x hi lo : Nat) : Nat := (x >>> lo) % 2 ^ (hi + 1 - lo)

/-- Bit `i` of a number. -/
def bit (x i : Nat) : Bool := x.testBit i

/-- `s(x)`: the number read as a signed value of `w` bits (R179). -/
def sgn (w x : Nat) : Int :=
  let y := x % 2 ^ w
  if y < 2 ^ (w - 1) then (y : Int) else (y : Int) - (2 ^ w : Nat)

/-- The low `w` bits of an integer, as a number. -/
def wrap (w : Nat) (x : Int) : Nat := (x % ((2 ^ w : Nat) : Int)).toNat

/-- `lo64` of an integer (R179). -/
def lo64 (x : Int) : Word := BitVec.ofInt 64 x

/-- The low `w` bits of `x`, sign-extended to 64 (R179). -/
def sext (w x : Nat) : Word := BitVec.ofInt 64 (sgn w x)

/-- The little-endian number of a byte string (R3). -/
def leNat : List Byte → Nat
  | [] => 0
  | b :: rest => b.toNat + 256 * leNat rest

/-- The `n` little-endian bytes of a number (R3). -/
def leBytes : Nat → Nat → List Byte
  | 0, _ => []
  | n + 1, x => BitVec.ofNat 8 x :: leBytes n (x / 256)

/-- A block of 64 bytes in memory, byte 0 in bits 7..0. -/
abbrev Block := BitVec 512

/-- Field `hi..lo` of the 32-bit word at byte offset `off` of a 64-byte block (the columns of R16). -/
def fld (b : Block) (off hi lo : Nat) : Nat := bits b.toNat (8 * off + hi) (8 * off + lo)

/-- The 8-byte field at byte offset `off` of a 64-byte block. -/
def fld8 (b : Block) (off : Nat) : Nat := bits b.toNat (8 * off + 63) (8 * off)

/-- Round up to a multiple of `m`. -/
def roundUp (x m : Nat) : Nat := (x + m - 1) / m * m

/-- `ceil(x / m)`. -/
def ceilDiv (x m : Nat) : Nat := (x + m - 1) / m

/-- The least `i` below `n`, counting up from `i₀`, that meets `f`. -/
def findUp (f : Nat → Bool) : Nat → Nat → Option Nat
  | 0, _ => none
  | n + 1, i => if f i then some i else findUp f n (i + 1)

/-- Replace element `i` of a list. -/
def listSet {α : Type} : List α → Nat → α → List α
  | [], _, _ => []
  | _ :: xs, 0, v => v :: xs
  | x :: xs, i + 1, v => x :: listSet xs i v

/-- Every second bit of `i` from bit `lo` on, `m` of them. -/
def everySecond (i lo : Nat) : Nat → Nat
  | 0 => 0
  | m + 1 => everySecond i lo m + (if bit i (lo + 2 * m) then 2 ^ m else 0)

/-- Column and row of unit `i` of a grid of 2^bc by 2^br units (R25). -/
def unitPlace (bc br i : Nat) : Nat × Nat :=
  let m := min bc br
  let rest := i / 2 ^ (2 * m) * 2 ^ m
  (everySecond i 0 m + (if br < bc then rest else 0), everySecond i 1 m + (if br < bc then 0 else rest))

end Sys2Proof.Machine
end

