-- ==== Sys2Proof/Machine/Tab.lean ====
section
/-! DEFINITION. A sparse table: entries by key, keys strictly rising, an unlisted key at the table's default. -/

namespace Sys2Proof.Machine

/-- Entries by key, the keys strictly rising. -/
abbrev Tab (α : Type) := List (Nat × α)

/-- The entry at `k`, or `d` when none is listed. -/
def tabGet {α : Type} (d : α) (k : Nat) : Tab α → α
  | [] => d
  | (j, v) :: rest => if j = k then v else tabGet d k rest

/-- Is an entry listed at `k`? -/
def tabHas {α : Type} (k : Nat) : Tab α → Bool
  | [] => false
  | (j, _) :: rest => j == k || tabHas k rest

/-- The table with `v` at `k`. -/
def tabSet {α : Type} (k : Nat) (v : α) : Tab α → Tab α
  | [] => [(k, v)]
  | (j, u) :: rest =>
    if j < k then (j, u) :: tabSet k v rest
    else if j = k then (k, v) :: rest
    else (k, v) :: (j, u) :: rest

/-- The table with no entry at `k`. -/
def tabDel {α : Type} (k : Nat) : Tab α → Tab α
  | [] => []
  | (j, u) :: rest => if j = k then tabDel k rest else (j, u) :: tabDel k rest

/-- The keys rise strictly. -/
def tabWf {α : Type} : Tab α → Bool
  | [] => true
  | [_] => true
  | (j, _) :: (k, v) :: rest => decide (j < k) && tabWf ((k, v) :: rest)

/-- The least key from `lo` on whose entry meets `f`. -/
def tabFind {α : Type} (f : Nat → α → Bool) (lo : Nat) : Tab α → Option Nat
  | [] => none
  | (j, v) :: rest => if decide (lo ≤ j) && f j v then some j else tabFind f lo rest

/-- Every entry changed by `f`. -/
def tabMap {α : Type} (f : Nat → α → α) : Tab α → Tab α
  | [] => []
  | (j, v) :: rest => (j, f j v) :: tabMap f rest

end Sys2Proof.Machine
end

