-- ==== Sys2Proof/Syntax.lean ====
section
/-! DEFINITION. The steps of the device: one constructor per row of the opcode table.
The first 221 are instruction words (R169 to R175), each with its predicate `p` first. The rest are the steps that
no word names (fabric firings, engine and host steps): their arguments name the agent that takes the step, by the
flat key of its table in the state (thread 4 c + tid, region 4 c + handle, element 3072 c + 64 row + column, ...). -/

namespace Sys2Proof

/-- One step of the device. DEDUCED: log 11. -/
inductive Instr where
  /-- R217: Does nothing. -/
  | nop (p : Pr)
  /-- R217: Ends the block, commits it and puts the thread in the Halted state. -/
  | halt (p : Pr)
  /-- R217: Ends the block without commit and enters the handler with cause software trap and the code in tval. -/
  | trap (p : Pr) (code : BitVec 6)
  /-- R217: In supervisor mode, commits the block, restores the mode and EVM, reissues stalled node accesses and continues at tepc. -/
  | eret (p : Pr)
  /-- R217: Commits the block and then enters the handler with cause environment call, tepc set to the next block. -/
  | ecall (p : Pr) (code : BitVec 6)
  /-- R217: Takes a breakpoint trap unless a debugger holds the thread. -/
  | bkpt (p : Pr) (code : BitVec 6)
  /-- R217: Makes the control processor pass the thread over at its next turn. -/
  | yield (p : Pr)
  /-- R217: Clears the thread's event flag if set, otherwise waits until it is set and then clears it. -/
  | wfe (p : Pr)
  /-- R217: At commit sets the event flag of all four threads of the core. -/
  | sev (p : Pr)
  /-- R181: Writes the 64-bit sum of gA and gB. -/
  | add (p : Pr) (d a b : Reg)
  /-- R181: Writes the 64-bit difference gA minus gB. -/
  | sub (p : Pr) (d a b : Reg)
  /-- R181: Writes gA AND gB. -/
  | and (p : Pr) (d a b : Reg)
  /-- R181: Writes gA OR gB. -/
  | or (p : Pr) (d a b : Reg)
  /-- R181: Writes gA XOR gB. -/
  | xor (p : Pr) (d a b : Reg)
  /-- R181: Writes gA AND NOT gB. -/
  | andn (p : Pr) (d a b : Reg)
  /-- R181: Writes gA OR NOT gB. -/
  | orn (p : Pr) (d a b : Reg)
  /-- R181: Shifts gA left by the whole value of gB, giving 0 for counts of 64 or more. -/
  | shl (p : Pr) (d a b : Reg)
  /-- R181: Shifts gA right logically by the whole value of gB. -/
  | shr (p : Pr) (d a b : Reg)
  /-- R181: Shifts gA right arithmetically by min(gB, 63). -/
  | sra (p : Pr) (d a b : Reg)
  /-- R181: Rotates gA left by gB mod 64. -/
  | rol (p : Pr) (d a b : Reg)
  /-- R181: Rotates gA right by gB mod 64. -/
  | ror (p : Pr) (d a b : Reg)
  /-- R181: Writes the signed lesser of gA and gB. -/
  | min (p : Pr) (d a b : Reg)
  /-- R181: Writes the signed greater of gA and gB. -/
  | max (p : Pr) (d a b : Reg)
  /-- R181: Writes the unsigned lesser of gA and gB. -/
  | minn (p : Pr) (d a b : Reg)
  /-- R181: Writes the unsigned greater of gA and gB. -/
  | maxn (p : Pr) (d a b : Reg)
  /-- R182: Writes the low 64 bits of gA times gB. -/
  | mul (p : Pr) (d a b : Reg)
  /-- R182: Writes the high 64 bits of the signed 128-bit product. -/
  | mulh (p : Pr) (d a b : Reg)
  /-- R182: Writes the high 64 bits of the unsigned 128-bit product. -/
  | mulhn (p : Pr) (d a b : Reg)
  /-- R182: Writes the signed quotient truncated toward zero, with fixed results for zero divisors and overflow. -/
  | div (p : Pr) (d a b : Reg)
  /-- R182: Writes the unsigned quotient, or all ones for a zero divisor. -/
  | divn (p : Pr) (d a b : Reg)
  /-- R182: Writes the signed remainder with the sign of the dividend. -/
  | rem (p : Pr) (d a b : Reg)
  /-- R182: Writes the unsigned remainder, or gA for a zero divisor. -/
  | remn (p : Pr) (d a b : Reg)
  /-- R182: Counts the leading zero bits of gA. -/
  | clz (p : Pr) (d a : Reg)
  /-- R182: Counts the trailing zero bits of gA. -/
  | ctz (p : Pr) (d a : Reg)
  /-- R182: Counts the one bits of gA. -/
  | popc (p : Pr) (d a : Reg)
  /-- R182: Reverses the bits of gA. -/
  | brev (p : Pr) (d a : Reg)
  /-- R182: Reverses the bytes of gA. -/
  | bswap (p : Pr) (d a : Reg)
  /-- R183: Adds the low 32 bits and writes the result sign-extended. -/
  | addW (p : Pr) (d a b : Reg)
  /-- R183: Subtracts the low 32 bits and writes the result sign-extended. -/
  | subW (p : Pr) (d a b : Reg)
  /-- R183: Multiplies the low 32 bits and writes the result sign-extended. -/
  | mulW (p : Pr) (d a b : Reg)
  /-- R183: Shifts the low 32 bits left and sign-extends the result. -/
  | shlW (p : Pr) (d a b : Reg)
  /-- R183: Shifts the low 32 bits right logically and sign-extends the result. -/
  | shrW (p : Pr) (d a b : Reg)
  /-- R183: Shifts the low 32 bits right arithmetically and sign-extends the result. -/
  | sraW (p : Pr) (d a b : Reg)
  /-- R183: Adds the low 32 bits with signed saturation. -/
  | addsat (p : Pr) (d a b : Reg)
  /-- R183: Subtracts the low 32 bits with signed saturation. -/
  | subsat (p : Pr) (d a b : Reg)
  /-- R183: Sign-extends bits 7..0 of gA. -/
  | sextb (p : Pr) (d a : Reg)
  /-- R183: Sign-extends bits 15..0 of gA. -/
  | sexth (p : Pr) (d a : Reg)
  /-- R183: Sign-extends bits 31..0 of gA. -/
  | sextw (p : Pr) (d a : Reg)
  /-- R183: Zero-extends bits 31..0 of gA. -/
  | zextw (p : Pr) (d a : Reg)
  /-- R185: Sets pD when gA equals gB. -/
  | ceq (p : Pr) (d : PReg) (a b : Reg)
  /-- R185: Sets pD when gA differs from gB. -/
  | cne (p : Pr) (d : PReg) (a b : Reg)
  /-- R185: Sets pD when gA is signed less than gB. -/
  | clt (p : Pr) (d : PReg) (a b : Reg)
  /-- R185: Sets pD when gA is signed less than or equal to gB. -/
  | cle (p : Pr) (d : PReg) (a b : Reg)
  /-- R185: Sets pD when gA is unsigned less than gB. -/
  | cltn (p : Pr) (d : PReg) (a b : Reg)
  /-- R185: Sets pD when gA is unsigned less than or equal to gB. -/
  | clen (p : Pr) (d : PReg) (a b : Reg)
  /-- R185: Sets pD when bit gB of gA is 1. -/
  | cbit (p : Pr) (d : PReg) (a b : Reg)
  /-- R186: Writes pA AND pB to pD. -/
  | pand (p : Pr) (d a b : PReg)
  /-- R186: Writes pA OR pB to pD. -/
  | por (p : Pr) (d a b : PReg)
  /-- R186: Writes pA XOR pB to pD. -/
  | pxor (p : Pr) (d a b : PReg)
  /-- R186: Writes pA AND NOT pB to pD. -/
  | pandn (p : Pr) (d a b : PReg)
  /-- R186: Writes NOT pA to pD. -/
  | pnot (p : Pr) (d a : PReg)
  /-- R186: Writes 1 or 0 to gD from predicate pA. -/
  | p2g (p : Pr) (d : Reg) (a : PReg)
  /-- R186: Sets pD when gA is nonzero. -/
  | g2p (p : Pr) (d : PReg) (a : Reg)
  /-- R187: Copies gA to gD. -/
  | mov (p : Pr) (d a : Reg)
  /-- R187: Writes gA when its predicate holds and gB otherwise. -/
  | sel (p : Pr) (d a b : Reg)
  /-- R187: Writes gA plus gB without a memory access. -/
  | lea1 (p : Pr) (d a b : Reg)
  /-- R187: Writes gA plus 2 times gB. -/
  | lea2 (p : Pr) (d a b : Reg)
  /-- R187: Writes gA plus 4 times gB. -/
  | lea4 (p : Pr) (d a b : Reg)
  /-- R187: Writes gA plus 8 times gB. -/
  | lea8 (p : Pr) (d a b : Reg)
  /-- R187: Writes gA plus 16 times gB. -/
  | lea16 (p : Pr) (d a b : Reg)
  /-- R187: Rounds gA down to a multiple of 2^gB. -/
  | alignd (p : Pr) (d a b : Reg)
  /-- R187: Rounds gA up to a multiple of 2^gB. -/
  | alignn (p : Pr) (d a b : Reg)
  /-- R184: Adds a sign-extended 10-bit immediate to gA. -/
  | addi (p : Pr) (d a : Reg) (imm : BitVec 10)
  /-- R184: ANDs gA with a sign-extended immediate. -/
  | andi (p : Pr) (d a : Reg) (imm : BitVec 10)
  /-- R184: ORs gA with a sign-extended immediate. -/
  | ori (p : Pr) (d a : Reg) (imm : BitVec 10)
  /-- R184: XORs gA with a sign-extended immediate. -/
  | xori (p : Pr) (d a : Reg) (imm : BitVec 10)
  /-- R184: Shifts gA left by an immediate amount. -/
  | shli (p : Pr) (d a : Reg) (imm : BitVec 10)
  /-- R184: Shifts gA right logically by an immediate amount. -/
  | shri (p : Pr) (d a : Reg) (imm : BitVec 10)
  /-- R184: Shifts gA right arithmetically by an immediate amount. -/
  | srai (p : Pr) (d a : Reg) (imm : BitVec 10)
  /-- R185: Sets pD when gA equals the sign-extended immediate. -/
  | ceqi (p : Pr) (d : PReg) (a : Reg) (imm : BitVec 10)
  /-- R185: Sets pD when gA is signed less than the immediate. -/
  | clti (p : Pr) (d : PReg) (a : Reg) (imm : BitVec 10)
  /-- R185: Sets pD when gA is unsigned less than the sign-extended immediate. -/
  | cltni (p : Pr) (d : PReg) (a : Reg) (imm : BitVec 10)
  /-- R198: Loads one byte sign-extended. -/
  | ldB (p : Pr) (d a : Reg) (imm : BitVec 10)
  /-- R198: Loads one byte zero-extended. -/
  | ldBn (p : Pr) (d a : Reg) (imm : BitVec 10)
  /-- R198: Loads two bytes sign-extended. -/
  | ldH (p : Pr) (d a : Reg) (imm : BitVec 10)
  /-- R198: Loads two bytes zero-extended. -/
  | ldHn (p : Pr) (d a : Reg) (imm : BitVec 10)
  /-- R198: Loads four bytes sign-extended. -/
  | ldW (p : Pr) (d a : Reg) (imm : BitVec 10)
  /-- R198: Loads four bytes zero-extended. -/
  | ldWn (p : Pr) (d a : Reg) (imm : BitVec 10)
  /-- R198: Loads eight bytes. -/
  | ldD (p : Pr) (d a : Reg) (imm : BitVec 10)
  /-- R198: Stores the low byte of gD at commit. -/
  | stB (p : Pr) (d a : Reg) (imm : BitVec 10)
  /-- R198: Stores the low two bytes of gD at commit. -/
  | stH (p : Pr) (d a : Reg) (imm : BitVec 10)
  /-- R198: Stores the low four bytes of gD at commit. -/
  | stW (p : Pr) (d a : Reg) (imm : BitVec 10)
  /-- R198: Stores the eight bytes of gD at commit. -/
  | stD (p : Pr) (d a : Reg) (imm : BitVec 10)
  /-- R198: Loads eight bytes at gA plus 8 times gB. -/
  | ldxD (p : Pr) (d a b : Reg)
  /-- R198: Stores eight bytes at gA plus 8 times gB. -/
  | stxD (p : Pr) (d a b : Reg)
  /-- R198: Loads four bytes sign-extended at gA plus 4 times gB. -/
  | ldxW (p : Pr) (d a b : Reg)
  /-- R198: Stores four bytes at gA plus 4 times gB. -/
  | stxW (p : Pr) (d a b : Reg)
  /-- R199: Loads eight bytes without allocating an absent line. -/
  | ldNa (p : Pr) (d a : Reg)
  /-- R199: Stores eight bytes without allocating an absent line. -/
  | stNa (p : Pr) (d a : Reg)
  /-- R199: Starts a fill of the line holding gA and never traps. -/
  | pref (p : Pr) (a : Reg)
  /-- R199: Writes the line holding gA back to its home when dirty and keeps it. -/
  | clean (p : Pr) (a : Reg)
  /-- R199: Cleans the line holding gA and invalidates it in the die's caches. -/
  | flush (p : Pr) (a : Reg)
  /-- R202: Loads eight bytes as an acquire at core scope. -/
  | ldAcqCore (p : Pr) (d a : Reg)
  /-- R202: Loads eight bytes as an acquire at die scope. -/
  | ldAcqDie (p : Pr) (d a : Reg)
  /-- R202: Loads eight bytes as an acquire at package scope. -/
  | ldAcqPkg (p : Pr) (d a : Reg)
  /-- R202: Loads eight bytes as an acquire at system scope. -/
  | ldAcqSys (p : Pr) (d a : Reg)
  /-- R202: Stores eight bytes as a release at core scope. -/
  | stRelCore (p : Pr) (d a : Reg)
  /-- R202: Stores eight bytes as a release at die scope. -/
  | stRelDie (p : Pr) (d a : Reg)
  /-- R202: Stores eight bytes as a release at package scope. -/
  | stRelPkg (p : Pr) (d a : Reg)
  /-- R202: Stores eight bytes as a release at system scope. -/
  | stRelSys (p : Pr) (d a : Reg)
  /-- R202: Orders the thread's accesses around it at core scope. -/
  | fenceCore (p : Pr)
  /-- R202: Orders the thread's accesses around it at die scope. -/
  | fenceDie (p : Pr)
  /-- R202: Orders the thread's accesses around it at package scope. -/
  | fencePkg (p : Pr)
  /-- R202: Orders the thread's accesses around it at system scope. -/
  | fenceSys (p : Pr)
  /-- R204: Atomically adds gB to the 8-byte word at gA and returns the old value. -/
  | amoadd (p : Pr) (d a b : Reg)
  /-- R204: Atomically ANDs gB into the word and returns the old value. -/
  | amoand (p : Pr) (d a b : Reg)
  /-- R204: Atomically ORs gB into the word and returns the old value. -/
  | amoor (p : Pr) (d a b : Reg)
  /-- R204: Atomically XORs gB into the word and returns the old value. -/
  | amoxor (p : Pr) (d a b : Reg)
  /-- R204: Atomically keeps the signed lesser and returns the old value. -/
  | amomin (p : Pr) (d a b : Reg)
  /-- R204: Atomically keeps the signed greater and returns the old value. -/
  | amomax (p : Pr) (d a b : Reg)
  /-- R204: Atomically keeps the unsigned lesser and returns the old value. -/
  | amominn (p : Pr) (d a b : Reg)
  /-- R204: Atomically keeps the unsigned greater and returns the old value. -/
  | amomaxn (p : Pr) (d a b : Reg)
  /-- R204: Atomically swaps gB into the word and returns the old value. -/
  | amoswap (p : Pr) (d a b : Reg)
  /-- R204: Atomically writes gB when the word equals gD and returns the old value. -/
  | amocas (p : Pr) (d a b : Reg)
  /-- R204: Atomically adds to a 4-byte word and returns the old value sign-extended. -/
  | amoaddW (p : Pr) (d a b : Reg)
  /-- R204: Atomically swaps a 4-byte word. -/
  | amoswapW (p : Pr) (d a b : Reg)
  /-- R204: Atomically compares and swaps a 4-byte word. -/
  | amocasW (p : Pr) (d a b : Reg)
  /-- R206: Holds the commit until the writes a stream issued are performed at die scope. -/
  | sfence (p : Pr) (d : Reg)
  /-- R207: Makes later commands to the masked queues wait for earlier ones and their writes. -/
  | qfence (p : Pr) (d : Reg)
  /-- R209: Counts an arrival on a barrier word as an indivisible release and returns the phase. -/
  | barrive (p : Pr) (d a : Reg)
  /-- R209: Waits until the barrier phase differs from gD and then acts as an acquire. -/
  | bwait (p : Pr) (d a : Reg)
  /-- R210: Waits until a stamp reaches gD or shows END and then acts as a system acquire. -/
  | wstamp (p : Pr) (d a : Reg)
  /-- R211: Loads a range unit from a descriptor and reports the outcome. -/
  | rinit (p : Pr) (d a b : Reg)
  /-- R211: Takes one chunk from a range unit and returns its start and count. -/
  | rget (p : Pr) (d a b : Reg)
  /-- R212: Holds the commit until the outstanding prefetches, stores, copies and tiles fall to the given counts. -/
  | waitc (p : Pr) (ld st : BitVec 6) (cp tl : BitVec 5)
  /-- R190: Adds two fw32 values under frm and sets fflags. -/
  | fadd (p : Pr) (d a b : Reg)
  /-- R190: Subtracts two fw32 values under frm. -/
  | fsub (p : Pr) (d a b : Reg)
  /-- R190: Multiplies two fw32 values under frm. -/
  | fmul (p : Pr) (d a b : Reg)
  /-- R190: Writes the lesser fw32 value. -/
  | fmin (p : Pr) (d a b : Reg)
  /-- R190: Writes the greater fw32 value. -/
  | fmax (p : Pr) (d a b : Reg)
  /-- R190: Clears the sign of an fw32 value. -/
  | fabs (p : Pr) (d a : Reg)
  /-- R190: Inverts the sign of an fw32 value. -/
  | fneg (p : Pr) (d a : Reg)
  /-- R190: Sets pD when two fw32 values are equal. -/
  | fceq (p : Pr) (d : PReg) (a b : Reg)
  /-- R190: Sets pD when a is less than b, raising NV on NaN. -/
  | fclt (p : Pr) (d : PReg) (a b : Reg)
  /-- R190: Sets pD when a is less than or equal to b, raising NV on NaN. -/
  | fcle (p : Pr) (d : PReg) (a b : Reg)
  /-- R191: Converts fw32 to a signed 64-bit integer under frm. -/
  | fcvti (p : Pr) (d a : Reg)
  /-- R191: Converts a signed 64-bit integer to fw32 under frm. -/
  | fcvtf (p : Pr) (d a : Reg)
  /-- R190: Writes the unbiased exponent of an fw32 value. -/
  | fxexp (p : Pr) (d a : Reg)
  /-- R190: Multiplies an fw32 value by 2 to the power of gB. -/
  | fscale (p : Pr) (d a b : Reg)
  /-- R190: Writes gA times gB plus gD with one rounding. -/
  | ffma (p : Pr) (d a b : Reg)
  /-- R192: Writes the class mask of an fw32 value. -/
  | fclass (p : Pr) (d a : Reg)
  /-- R194: Converts fw32 to bf16 under frm. -/
  | fwbf (p : Pr) (d a : Reg)
  /-- R194: Converts bf16 exactly to fw32. -/
  | bffw (p : Pr) (d a : Reg)
  /-- R194: Converts fw32 to fp16 under frm. -/
  | fwh (p : Pr) (d a : Reg)
  /-- R194: Converts fp16 exactly to fw32. -/
  | hfw (p : Pr) (d a : Reg)
  /-- R194: Converts fw32 to fp32 under frm. -/
  | fws (p : Pr) (d a : Reg)
  /-- R194: Converts fp32 to fw32 under frm. -/
  | sfw (p : Pr) (d a : Reg)
  /-- R194: Converts fw32 to the binary8 format in frm B8F. -/
  | fwb8 (p : Pr) (d a : Reg)
  /-- R194: Converts the binary8 format in frm B8F exactly to fw32. -/
  | b8fw (p : Pr) (d a : Reg)
  /-- R214: Reads a CSR into gD. -/
  | csrr (p : Pr) (d : Reg) (csr : BitVec 10)
  /-- R214: Writes gA to a CSR and returns the old value. -/
  | csrw (p : Pr) (d a : Reg) (csr : BitVec 10)
  /-- R214: Sets the bits of gA in a CSR and returns the old value. -/
  | csrs (p : Pr) (d a : Reg) (csr : BitVec 10)
  /-- R214: Clears the bits of gA in a CSR and returns the old value. -/
  | csrc (p : Pr) (d a : Reg) (csr : BitVec 10)
  /-- R226: Allocates a region over a sector mask and returns its handle or an error code. -/
  | rgalloc (p : Pr) (d a : Reg)
  /-- R225: Stops a region, discards its load and bindings and frees its handle. -/
  | rgfree (p : Pr) (d : Reg)
  /-- R78: Queues a load of a configuration stream into the region's shadow plane. -/
  | cfgld (p : Pr) (d a : Reg)
  /-- R225: Writes one configuration command through the shadow path and marks the shadow changed. -/
  | cfgwr (p : Pr) (d a : Reg)
  /-- R81: Arms the release of a switch to the sealed shadow. -/
  | cfgsw (p : Pr) (d : Reg)
  /-- R85: Stops a load in progress and discards its shadow and any armed switch. -/
  | cfgdrop (p : Pr) (d : Reg)
  /-- R227: Stores every element's flip status and the region's configuration status. -/
  | cfgst (p : Pr) (d a : Reg)
  /-- R228: Starts a region and arms its completion store. -/
  | rgstart (p : Pr) (d a b : Reg)
  /-- R228: Ends firing in a region and discards every token it holds. -/
  | rgstop (p : Pr) (d : Reg)
  /-- R229: Freezes a region and writes its context to a save area. -/
  | rgsave (p : Pr) (d a : Reg)
  /-- R229: Restores a saved context into a region of the same shape. -/
  | rgload (p : Pr) (d a : Reg)
  /-- R225: Requests a snapshot cut in the region. -/
  | marker (p : Pr) (d : Reg)
  /-- R230: Offers a launch record to the die's dispatcher and returns whether it was accepted. -/
  | tenq (p : Pr) (d a : Reg)
  /-- R225: Writes the 32-bit immediate configuration command as cfgwr does. -/
  | cfgwrI (p : Pr) (d : Reg) (imm : BitVec 32)
  /-- R231: Binds a captured stream pattern block or a thread port to a stream. -/
  | sbind (p : Pr) (d a : Reg)
  /-- R231: Removes a stream's binding. -/
  | sunbind (p : Pr) (d : Reg)
  /-- R233: Reads a stream word and optionally clears its overrun, short and numeric flags. -/
  | sstat (p : Pr) (d a : Reg)
  /-- R232: Pushes a token into a thread port's input queue. -/
  | spush (p : Pr) (d a : Reg)
  /-- R231: Reads and takes the head token of a thread port's output queue. -/
  | spop (p : Pr) (d a : Reg)
  /-- R231: Pushes an end-of-stream into a thread port. -/
  | seos (p : Pr) (d : Reg)
  /-- R231: Reissues a stream's stalled accesses or stops its region. -/
  | sctl (p : Pr) (d a : Reg)
  /-- R234: Sets a chain's state at its home Confluence unit as if a given access had been performed. -/
  | chainset (p : Pr) (d a : Reg)
  /-- R234: Reads a chain's last sequence number, successor, buffered count and gap state. -/
  | chainst (p : Pr) (d a : Reg)
  /-- R235: Claims an operand slot and returns it or all ones. -/
  | oclaim (p : Pr) (d a : Reg)
  /-- R235: Releases an operand slot once its earlier commands have completed. -/
  | orel (p : Pr) (d : Reg)
  /-- R236: Sets a slot's descriptor at commit. -/
  | odesc (p : Pr) (d a : Reg)
  /-- R235: Queues the zeroing of an accumulator tile and sets its anchor. -/
  | mzero (p : Pr) (d a : Reg)
  /-- R237: Queues the accumulation of the product of two slots into a tile. -/
  | mtile (p : Pr) (d a b : Reg)
  /-- R237: Queues a tile product with B in orientation 1. -/
  | mtilet (p : Pr) (d a b : Reg)
  /-- R238: Queues a recurrence over a sequence of slots. -/
  | mrec (p : Pr) (d a b : Reg)
  /-- R239: Queues the readout of a tile to memory or to a slot. -/
  | mread (p : Pr) (d a b : Reg)
  /-- R242: Queues a copy on a channel. -/
  | cpy (p : Pr) (d a : Reg)
  /-- R243: Queues a copy into a slot with a follow-on tile. -/
  | cpym (p : Pr) (d a b : Reg)
  /-- R241: Reads a channel's write pointer and stamp value. -/
  | cpwp (p : Pr) (d a : Reg)
  /-- R244: Cancels the thread's copies on a channel and stamps them as cancelled. -/
  | cpcancel (p : Pr) (d : Reg)
  /-- R246: Configures the Sluice from a selection block. -/
  | selcfg (p : Pr) (d : Reg)
  /-- R245: Enters one score and index pair into the Sluice. -/
  | selput (p : Pr) (d a : Reg)
  /-- R247: Requests a drain of the Sluice, optionally final and releasing. -/
  | seldrain (p : Pr) (d : Reg)
  /-- R245: Writes the histogram image and optionally clears the histogram. -/
  | selhist (p : Pr) (d a : Reg)
  /-- R248: Arms a histogram bin with a copy. -/
  | selarm (p : Pr) (d a : Reg)
  /-- R245: Enters n scores from memory as pairs and optionally drains. -/
  | topk (p : Pr) (d a : Reg)
  /-- R15: Opens a Headwater session on the least-loaded engine of the die. -/
  | hwopen (p : Pr) (d a : Reg)
  /-- R18: Queues a bitstream chunk on a session. -/
  | hwfeed (p : Pr) (d a b : Reg)
  /-- R250: Queues one or two output descriptors on a session. -/
  | hwpic (p : Pr) (d a b : Reg)
  /-- R249: Closes a session in drain or abort mode. -/
  | hwclose (p : Pr) (d a : Reg)
  /-- R249: Reads a session's state, error, queue counts and pictures done. -/
  | hwstat (p : Pr) (d a : Reg)
  /-- R188: Loads a sign-extended 32-bit immediate. -/
  | li (p : Pr) (d : Reg) (imm : BitVec 32)
  /-- R188: Sets bits 63..32 of gD from a 32-bit immediate. -/
  | lih (p : Pr) (d : Reg) (imm : BitVec 32)
  /-- R188: Adds a sign-extended 32-bit immediate to gA. -/
  | addiL (p : Pr) (d a : Reg) (imm : BitVec 32)
  /-- R198: Loads eight bytes at an unscaled 32-bit offset. -/
  | ldL (p : Pr) (d a : Reg) (imm : BitVec 32)
  /-- R198: Stores eight bytes at an unscaled 32-bit offset. -/
  | stL (p : Pr) (d a : Reg) (imm : BitVec 32)
  /-- R216: Ends the block and continues at the target line. -/
  | br (p : Pr) (off : BitVec 22)
  /-- R216: Writes the fall-through address to g1 and continues at the target. -/
  | call (p : Pr) (off : BitVec 22)
  /-- R216: Continues at the address in gD. -/
  | jmp (p : Pr) (d : Reg)
  /-- R216: Writes the link to g1 and continues at the old gD. -/
  | callx (p : Pr) (d : Reg)
  /-- R216: Continues at the address in g1. -/
  | ret (p : Pr)
  /-- R216: Continues at gD plus 128 times gA. -/
  | tbr (p : Pr) (d a : Reg)
  /-- R216: Decrements gD and branches when the result is nonzero. -/
  | bdec (p : Pr) (d : Reg) (off : BitVec 16)
  /-- R131: A pending event not held by EVM is taken between blocks, abandoning any waiting block, and enters the handler. -/
  | eventEntry (t : Nat)
  /-- R213: A waiting thread or held commit resumes once its condition holds and the block commits. -/
  | waitSatisfied (t : Nat)
  /-- R90: A handler firing adds two 32-bit operands. -/
  | iadd (e h : Nat)
  /-- R90: A handler firing subtracts two 32-bit operands. -/
  | isub (e h : Nat)
  /-- R90: A handler firing writes the low 32 bits of the signed product. -/
  | imul (e h : Nat)
  /-- R90: A handler firing writes the high 32 bits of the product, signed or unsigned. -/
  | imulh (e h : Nat)
  /-- R90: A handler firing ANDs two operands. -/
  | iand (e h : Nat)
  /-- R90: A handler firing ORs two operands. -/
  | ior (e h : Nat)
  /-- R90: A handler firing XORs two operands. -/
  | ixor (e h : Nat)
  /-- R90: A handler firing shifts left. -/
  | ishl (e h : Nat)
  /-- R90: A handler firing shifts right logically. -/
  | ishr (e h : Nat)
  /-- R90: A handler firing shifts right arithmetically. -/
  | isra (e h : Nat)
  /-- R90: A handler firing emits the signed lesser operand. -/
  | imin (e h : Nat)
  /-- R90: A handler firing emits the signed greater operand. -/
  | imax (e h : Nat)
  /-- R90: A handler firing emits the unsigned lesser operand. -/
  | iminn (e h : Nat)
  /-- R90: A handler firing emits the unsigned greater operand. -/
  | imaxn (e h : Nat)
  /-- R90: A handler firing emits the absolute value. -/
  | iabs (e h : Nat)
  /-- R90: A handler firing adds with signed saturation. -/
  | iaddsat (e h : Nat)
  /-- R90: A handler firing clamps a between b and c. -/
  | iclamp (e h : Nat)
  /-- R91: A compare firing emits or routes the equality bit. -/
  | iceq (e h : Nat)
  /-- R91: A compare firing emits or routes the signed less-than bit. -/
  | iclt (e h : Nat)
  /-- R91: A compare firing emits or routes the unsigned less-than bit. -/
  | icltn (e h : Nat)
  /-- R93: A handler firing adds two fw32 values and sets the region flag word. -/
  | fabricFadd (e h : Nat)
  /-- R93: A handler firing subtracts two fw32 values. -/
  | fabricFsub (e h : Nat)
  /-- R93: A handler firing multiplies two fw32 values. -/
  | fabricFmul (e h : Nat)
  /-- R93: A handler firing computes a times b plus c with one rounding. -/
  | fabricFfma (e h : Nat)
  /-- R94: A handler firing emits the lesser fw32 value. -/
  | fabricFmin (e h : Nat)
  /-- R94: A handler firing emits the greater fw32 value. -/
  | fabricFmax (e h : Nat)
  /-- R94: A handler firing clears the sign bit. -/
  | fabricFabs (e h : Nat)
  /-- R94: A handler firing inverts the sign bit. -/
  | fabricFneg (e h : Nat)
  /-- R94: A compare firing emits or routes the fw32 equality bit. -/
  | fabricFceq (e h : Nat)
  /-- R94: A compare firing emits or routes the fw32 less-than bit. -/
  | fabricFclt (e h : Nat)
  /-- R95: A handler firing emits the correctly rounded reciprocal. -/
  | frcp (e h : Nat)
  /-- R95: A handler firing emits the correctly rounded reciprocal square root. -/
  | frsq (e h : Nat)
  /-- R95: A handler firing emits 2 to the power a. -/
  | fexp2 (e h : Nat)
  /-- R95: A handler firing emits log2 a. -/
  | flog2 (e h : Nat)
  /-- R96: A handler firing scales an fw32 value by a power of two. -/
  | fabricFscale (e h : Nat)
  /-- R96: A handler firing emits the unbiased exponent. -/
  | fabricFxexp (e h : Nat)
  /-- R97: A handler firing converts fw32 to i32 or n32. -/
  | fabricFcvti (e h : Nat)
  /-- R97: A handler firing converts i32 or n32 to fw32. -/
  | fabricFcvtf (e h : Nat)
  /-- R98: A handler firing emits its operand and forwards headers. -/
  | fabricMov (e h : Nat)
  /-- R98: A handler firing emits a or b according to c. -/
  | fabricSel (e h : Nat)
  /-- R99: A handler firing sends a data token on the lane set chosen by a control bit or an index. -/
  | steer (e h : Nat)
  /-- R100: A handler firing takes a token from the arm its control bit selects. -/
  | merge (e h : Nat)
  /-- R102: A loop-head firing takes a back-edge token, an exit bit, an entry token or a closing control word. -/
  | carry (e h : Nat)
  /-- R98: A compare firing emits 1 when its operand is zero. -/
  | inv (e h : Nat)
  /-- R101: A handler firing emits a or b according to a control bit. -/
  | gate (e h : Nat)
  /-- R101: A handler firing emits a only on a control bit of 1. -/
  | filt (e h : Nat)
  /-- R103: A handler firing emits one copy of the head token, taking it with the last copy. -/
  | dup (e h : Nat)
  /-- R98: A handler firing discards its data token. -/
  | drop (e h : Nat)
  /-- R104: A handler firing emits the count and steps it, closing runs with a control word. -/
  | cntr (e h : Nat)
  /-- R105: A handler firing consumes a token and counts end-of-stream, reporting once at k0. -/
  | sink (e h : Nat)
  /-- R107: A group firing adds a token into its bank lane or emits one result at the closing word. -/
  | accg (e h : Nat)
  /-- R107: A group firing keeps the maximum per lane or emits one result at the closing word. -/
  | maxg (e h : Nat)
  /-- R107: A group firing tracks the index of the greatest value or emits it. -/
  | argmx (e h : Nat)
  /-- R107: A group firing counts data tokens or emits the count. -/
  | cntg (e h : Nat)
  /-- R108: A handler firing emits a header token. -/
  | hdrw (e h : Nat)
  /-- R108: A handler firing multiplies a value by its latched block scale. -/
  | scal (e h : Nat)
  /-- R108: A handler firing passes a data token and emits EOG after each group. -/
  | grpc (e h : Nat)
  /-- R115: An edge firing issues the next strided load of its pattern. -/
  | ldst (e h : Nat)
  /-- R116: An edge firing stores a token to the next pattern element. -/
  | stst (e h : Nat)
  /-- R117: An edge firing gathers the elements at an index. -/
  | ldg (e h : Nat)
  /-- R117: An edge firing scatters a value to an index. -/
  | stg (e h : Nat)
  /-- R118: An edge firing issues an indivisible read-modify-write and logs it. -/
  | amo (e h : Nat)
  /-- R120: An edge firing issues a chain-class load. -/
  | chld (e h : Nat)
  /-- R120: An edge firing issues a chain-class store. -/
  | chst (e h : Nat)
  /-- R120: An edge firing issues a chain-class add and logs it. -/
  | chadd (e h : Nat)
  /-- R121: An edge firing emits the next words of the block tensor walk. -/
  | btwalk (e h : Nat)
  /-- R122: An edge firing emits the next nonzero coefficient token. -/
  | cfrd (e h : Nat)
  /-- R123: An edge firing feeds a score and index pair into the Sluice. -/
  | selin (e h : Nat)
  /-- R126: A video firing warps a cell from reference grids and stores it with its residual. -/
  | warp (e h : Nat)
  /-- R127: A video firing writes a cell's lineage word and queues or flags it. -/
  | drift (e h : Nat)
  /-- R125: A video firing emits the next record, group or cell token of the walk. -/
  | mvcell (e h : Nat)
  /-- R128: A video firing appends a cell to the refresh queue. -/
  | rfq (e h : Nat)
  /-- R114: A performed edge access delivers its result to the output buffer in firing order. -/
  | edgeAccessComplete (e i : Nat)
  /-- R59: A header token reaching the head of a partition is taken into the handler's latch. -/
  | headerLatch (e q h : Nat)
  /-- R63: The output buffer's head token is copied onto its lanes once they accept it and the entry is freed. -/
  | tokenSend (e src : Nat)
  /-- R266: The region stops, discards its tokens and resumes from the last complete cut, or freezes on a repeated fault. -/
  | rollback (r : Nat)
  /-- R267: The watchdog count reaches its time and the lowest element holding a token faults. -/
  | watchdog (r : Nat)
  /-- R265: An element records its snapshot when the marker heads every active queue and forwards one marker. -/
  | snapshotRecord (e : Nat)
  /-- R265: Once every element has recorded and earlier chain accesses are performed, the cut becomes the last complete cut. -/
  | cutComplete (r : Nat)
  /-- R78: A queued configuration load begins once no wavefront or post-wavefront cut is pending. -/
  | loadBegin (r : Nat)
  /-- R78: The configuration controller reads and applies one command to the shadow plane. -/
  | loadCommand (r : Nat)
  /-- R78: Sixty-four cycles after the last command, the checked shadow is sealed. -/
  | seal (r : Nat)
  /-- R83: An element whose active queues all hold the switch token swaps planes and appends its own switch token. -/
  | flip (e : Nat)
  /-- R70: An element idle for 1,024 cycles gates its clock. -/
  | elementClockGate (e : Nat)
  /-- R70: A gated element that receives a token resumes within 2 cycles. -/
  | elementWake (e : Nat)
  /-- R71: A waking sector accepts the tokens and commands held for it. -/
  | sectorWake (c x : Nat)
  /-- R145: Once every counted sink has reported and region writes are performed, the completion value is release-stored. -/
  | regionCompletion (r : Nat)
  /-- R142: The dispatcher reads a launch record and its structures and inserts or fails the task. -/
  | taskInsertion (d : Nat)
  /-- R142: The dispatcher re-reads the completion words of waiting slots at least every 4,096 cycles. -/
  | dependencePoll (d : Nat)
  /-- R143: A ready task is placed, its configuration loaded and streams bound. -/
  | taskBinding (d : Nat)
  /-- R141: At each 10 µs period the budgets open, held work is admitted and priorities age. -/
  | periodStart
  /-- R270: At the stop cycle the victim's sources stop issuing and its thread stops at the next block boundary. -/
  | stopRequest (d tag : Nat)
  /-- R270: A save not yet frozen at the force point is forced. -/
  | forcePoint (d tag : Nat)
  /-- R270: A quiescent victim region freezes for saving. -/
  | regionFreeze (r : Nat)
  /-- R278: After waiting for outstanding work, the save area is written and STAT released as 1. -/
  | contextSave (r : Nat)
  /-- R279: A saved task is checked, written back into a region, cut and resumed. -/
  | taskRestore (d tag : Nat)
  /-- R31: An engine finishes a picture and writes its block tensor, picture record, session fields and stamp. -/
  | pictureComplete (n : Nat)
  /-- R17: An aborted session closes at the next syntax-element boundary. -/
  | abortClose (n : Nat)
  /-- R18: BCON advances past a chunk once every byte has been read. -/
  | chunkConsumed (n : Nat)
  /-- R242: A channel begins its next queued copy. -/
  | copyBegin (k n : Nat)
  /-- R242: Once every payload byte is performed, the stamp is released, the event flag set and the follow-on issued. -/
  | copyCompletionPoint (k : Nat)
  /-- R240: The array starts its next queued command once the previous one has completed. -/
  | matrixCommandStart (c : Nat)
  /-- R316: A matrix command completes after its cycles and, for mread, its writes. -/
  | matrixCommandComplete (c : Nat)
  /-- R314: A released slot becomes clearing once its commands have completed. -/
  | slotRelease (k : Nat)
  /-- R314: After 64 cycles a clearing slot is zero and free. -/
  | slotCleared (k : Nat)
  /-- R322: The Sluice accepts one pair or command per cycle, commands before selin pairs. -/
  | sluiceAccept (c : Nat)
  /-- R247: Once earlier pairs settle, the drain writes the row, updates the histogram, posts records and releases its stamp. -/
  | sluiceDrain (c : Nat)
  /-- R351: A Confluence unit accepts one chain access into its buffer. -/
  | chainAccept (e i : Nat)
  /-- R351: The unit performs a performable entry of a chain and advances LAST and NEXT. -/
  | chainPerform (k : Nat)
  /-- R354: A chain's gap timer expires and the issuer of its oldest entry faults. -/
  | chainGap (k : Nat)
  /-- R355: A full buffer with nothing performable raises chain overflow against the fullest chain. -/
  | chainOverflow (u : Nat)
  /-- R260: A node's faulting access stalls in place, a fault record is written and an event is raised. -/
  | memoryNodeFault (agt k : Nat)
  /-- R196: An error response to a committed store writes a record at the store path and raises event 0x27. -/
  | storeErrorResponse (t i : Nat)
  /-- R342: A line untouched for 65,536 cycles loses its hot bit. -/
  | hotBitClear (line : Nat)
  /-- R345: A pseudo-channel starts a round of 64 slots under its current table. -/
  | slotTableRound (d pc : Nat)
  /-- R281: A host CXL.mem access is served at the home slice after back-invalidation. -/
  | hostMemAccess (wr : Bool) (off n v : Nat)
  /-- R338: A host snoop removes a remote-data cache copy of a host line. -/
  | hostSnoop (d line : Nat)
  /-- R257: A store to TINVC starts a package-wide TLB invalidation. -/
  | tinvc (d : Nat) (v : Word)
  /-- R257: An invalidation ends, BUSY clears and stalled node accesses are reissued. -/
  | invalidationComplete (d : Nat)
  /-- R284: A write of a launch queue's tail register records new records. -/
  | tail (q : Nat) (v : Word)
  /-- R284: Setting or clearing QEN switches a launch queue in or out. -/
  | qen (q : Nat) (on : Bool)
  /-- R285: The I/O die reads the next ring record, offers it to the die's dispatcher and advances PROG. -/
  | launchRecordOffer (q : Nat)
  /-- R286: A write raises or ORs into an external interrupt event on a thread. -/
  | interruptRegister (t : Nat) (v : Word)
  /-- R6: A write to any other register field takes effect by its access code. -/
  | registerWrite (pa n : Nat) (v : Word)
  /-- R371: The fabric manager assigns the module's port-based routing ID. -/
  | pbrIdAssign (i0 i1 i2 i3 : Nat)
  /-- R290: Jibor returns a signed attestation report. -/
  | attest (nonce : List Byte)
  /-- R292: Opens program or full debug level. -/
  | dbgopen (lvl asid : Word) (tok : List Byte)
  /-- R292: Releases every hold and closes debug. -/
  | dbgclose
  /-- R297: Fences a core or die for service or fully. -/
  | fence (u : Word)
  /-- R297: Unfences a unit and applies installed entries and images. -/
  | unfence (u : Word)
  /-- R288: Checks and installs a signed firmware image. -/
  | image (pa : Word)
  /-- R289: Checks and installs a signed configuration record. -/
  | record (pa : Word)
  /-- R294: Holds a covered thread at its next block boundary. -/
  | dhold (t : Word)
  /-- R294: Lets a held thread commit one block. -/
  | dstep (t : Word)
  /-- R294: Releases a held thread. -/
  | drun (t : Word)
  /-- R294: Writes a thread area or a frozen region image to host memory. -/
  | dread (a0 a1 : Word)
  /-- R287: Jibor verifies images, trains memory and ports and releases the cores. -/
  | powerOn
  /-- R295: A core meeting the off conditions is power-gated. -/
  | coreOff (c : Nat)
  /-- R295: An idle or off core returns to active when work reaches it. -/
  | coreWake (c : Nat)
  /-- R295: A die meeting the conditions writes back its caches and self-refreshes HBM. -/
  | dieRetention (d : Nat)
  /-- R295: A die in retention serves a held access. -/
  | dieWake (d : Nat)
  /-- R296: A core woken for debug returns to idle after 1,024 idle cycles. -/
  | debugWakeExpiry (c : Nat)
  /-- R167: A thread reaches a block whose header, padding, exit count or long-form placement is illegal, or whose line fetch faults, and takes the trap with no word taking effect. -/
  | illegalBlock (t : Nat)
  /-- R177: A block holding a word with a reserved major, unassigned FN, nonzero unfilled field or unassigned CSRN takes the illegal-instruction trap and does not commit. -/
  | illegalInstruction (t : Nat)
  /-- R297: Under a service fence, a running task without CSAVE that has not completed by the end of its declared drain time fails with code 7. -/
  | drainTimeExpiry (d tag : Nat)
  /-- R71: A sector none of whose elements is configured and that belongs to no region is powered off. -/
  | sectorPowerOff (c x : Nat)
  /-- R295: A junction temperature reading crossing above 105  deg C, or all junctions falling below 95  deg C, sets or clears the halving of the module-node budgets applied from the next period. -/
  | junctionTemperature (hot : Bool)
  deriving DecidableEq, Repr

end Sys2Proof
end

