-- ==== Sys2Proof/Machine/State.lean ====
section
/-! DEFINITION. Everything the spec gives the machine, as plain data, and the machine right after reset. -/

namespace Sys2Proof.Machine

/-- An event waiting for a block boundary (R131, R258): its code and its tval. -/
structure Event where
  code : Nat
  val : Word
  deriving DecidableEq, Repr

/-- The translation context of an access: `asid`, `ptbase TOP` and the mode (R196, R254). -/
structure Space where
  asid : Nat
  ptb : Nat
  user : Bool
  deriving DecidableEq, Repr

/-- The states of a thread (R133). -/
inductive Phase where
  | running
  | waiting
  | halted
  | saved
  deriving DecidableEq, Repr

/-- What a waiting thread or a held commit waits for (R133, R206, R209, R210, R212, R217). -/
inductive Wait where
  | flag
  | barrier (va : Nat) (ph : Bool)
  | stamp (va v : Nat)
  | stream (n : Nat)
  | counts (ld st cp tl : Nat)
  | room
  /-- An earlier store that a fence or an indivisible word comes after (R202, R205). -/
  | path
  /-- A budget that the block's accesses are charged to has been reached (R141). -/
  | budget
  deriving DecidableEq, Repr

/-- How an access touches the caches (R339, R341, R342). -/
structure Touch where
  write : Bool
  atomic : Bool
  na : Bool
  evf : Bool
  cmp : Bool
  deriving DecidableEq, Repr

/-- Where a store at a store path stands: on its way to host memory or a peer, whose answer is still to come (R196); waiting behind an
earlier one (R200, R202); stalled by an error, or issued again and about to take a new walk (R260, R263). -/
inductive PathPhase where
  | sent
  | waiting
  | stalled
  | again
  deriving DecidableEq, Repr

/-- A store of a thread, or its part in one of two pages, that has entered its store path and is not performed (R200): its bytes, the size of
the whole store and where in it the part stands, its space, how it touches the caches (R199), its place among the thread's commands (R223),
whether it waits for every store ahead of it, and whether a fence of its block follows it, for which later accesses wait (R202); and whether
its walk has met an uncorrectable error once (R264). -/
structure PathStore where
  va : Nat
  pa : Nat
  len : Nat
  val : Nat
  size : Nat
  off : Nat
  sp : Space
  touch : Touch
  seq : Nat
  rel : Bool
  fenced : Bool
  phase : PathPhase
  met : Bool
  deriving DecidableEq, Repr

/-- A fault record (R261). -/
structure FaultRec where
  kind : Nat
  lvl : Nat
  acc : Nat
  szl : Nat
  agt : Nat
  sup : Bool
  ecode : Nat
  asid : Nat
  fva : Nat
  rgn : Nat
  strm : Nat
  core : Nat
  unit : Nat
  ord : Nat
  nstl : Nat
  fpa : Nat
  deriving DecidableEq, Repr

/-- An event that its thread cannot take yet, saved or with 16 events pending (R262, R275): its record, still to be written, or none; its
code and, without a record, its tval; and whether the thread's event flag is set with it (R217). -/
structure Owed where
  rcv : Nat
  record : Option FaultRec
  code : Nat
  val : Word
  flag : Bool
  deriving DecidableEq, Repr

/-- One hardware thread (R133, R170, R215, R217). -/
structure Thread where
  /-- The block counter: the address of the next block. -/
  pc : Word
  /-- g1 to g63 by number; g0 reads zero and has no entry. -/
  g : Tab Word
  /-- p0 to p7 in bits 0 to 7; p0 reads true whatever bit 0 holds. -/
  p : BitVec 8
  phase : Phase
  wait : Option Wait
  /-- The event flag (R217). -/
  flag : Bool
  /-- Passed over at its next turn (`yield`, R217). -/
  yielded : Bool
  /-- Pending events, oldest first (R259). -/
  events : List Event
  tstat : Word
  tcause : Word
  tepc : Word
  tidx : Word
  tval : Word
  thand : Word
  tscratch : Word
  frm : Word
  fflags : Word
  blkret : Word
  mrdcfg : Word
  ctxid : Word
  asid : Word
  ptbase : Word
  fltrec : Word
  fltcnt : Word
  bgtSel : Word
  /-- Stores that have entered the store path and are not performed, oldest first (R196, R200, R260). -/
  path : List PathStore
  /-- The task the thread runs, by its key in the dependence tables (R144). -/
  task : Option Nat
  /-- `qfence` commands: their place among the commands, and their mask (R207). -/
  qfences : List (Nat × Nat)
  /-- Held by a debugger (R294), and whether one more block is granted to it. -/
  dheld : Bool
  dstep : Bool
  /-- Released by `DRUN`, so that its `bkpt` words trap (R294). -/
  drun : Bool
  /-- While its block waits: the accesses of the core's elements, by element, handler and count, that were not yet
  performed when the block began to wait (R206). -/
  since : Option (List (Nat × Nat × Nat))
  /-- While its block waits: how many `wfe` words of the block have ended their waits (R213, R217). -/
  wakes : Nat
  deriving DecidableEq, Repr

/-- A thread right after device reset: Halted, every CSR at its reset value (R133, R215). DESIGN CHOICE: log 2. -/
def Thread.reset : Thread :=
  { pc := 0, g := [], p := 0, phase := .halted, wait := none, flag := false, yielded := false, events := []
    tstat := 0, tcause := 0, tepc := 0, tidx := 0, tval := 0, thand := 0, tscratch := 0, frm := 0x400, fflags := 0
    blkret := 0, mrdcfg := 0, ctxid := 0, asid := 0, ptbase := 0, fltrec := 0, fltcnt := 0, bgtSel := 0
    path := [], task := none, qfences := [], dheld := false, dstep := false, drun := false, since := none, wakes := 0 }

/-- The size of the page a TLB entry holds (R251, R253, R255). -/
inductive PageSize where
  | kib128
  | mib16
  | gib2
  deriving DecidableEq, Repr

/-- One valid leaf translation in a TLB (R255): virtual and physical base, permissions. -/
structure TlbEntry where
  asid : Nat
  size : PageSize
  va : Nat
  pa : Nat
  cmp : Bool
  u : Bool
  w : Bool
  r : Bool
  deriving DecidableEq, Repr

/-- One line of an L2 set (R334, R339, R341, R342): its line address, and when an access last reached it. -/
structure L2Line where
  line : Nat
  dirty : Bool
  /-- Filled, and not written back since (R341). -/
  filled : Bool
  evict : Bool
  mark : Bool
  hot : Bool
  last : Nat
  deriving DecidableEq, Repr

/-- The caches, which change no value that any agent reads (R331 to R342). -/
structure Cache where
  /-- Core TLBs by core number, newest entry first, at most 64 (R255). -/
  tlb : Tab (List TlbEntry)
  /-- Die TLBs by die, newest entry first, at most 8,192 (R255). -/
  dieTlb : Tab (List TlbEntry)
  /-- L2 sets by `(16 die + slice) * 2048 + set`, most recently used line first, at most 12 (R334). -/
  l2 : Tab (List L2Line)
  /-- The remote-data cache of each die: its lines, the one last reached first, and whether a line is marked evict-first; at most
  131,072 lines of 128 bytes, 16 MiB (R1, R336). -/
  rdc : Tab (List (Nat × Bool))
  /-- The sharer vector of a device line (R336). -/
  sharers : Tab (BitVec 8)
  /-- The metadata code of a 128-byte block of HBM (R340). -/
  code : Tab Nat
  deriving DecidableEq, Repr

/-- What belongs to one core and to none of its engines (R215, R289, R295, R297). -/
structure Core where
  /-- Enabled by the configuration record in force (R289). -/
  enabled : Bool
  /-- mstat (R215), the same for the four threads. -/
  mstat : Word
  /-- When a command last set a bit of mstat that was or became 1, for which thread, and whether an event was raised for it (R312). -/
  satSets : Tab (Nat × Nat × Bool)
  /-- Service-fenced (R297). -/
  fenced : Bool
  /-- Power-gated (R295). -/
  off : Bool
  /-- Woken for debug, with the cycle of its last activity (R296). -/
  dbgWake : Option Nat
  deriving DecidableEq, Repr

/-- A core right after reset. DESIGN CHOICE: log 84. -/
def Core.reset : Core := { enabled := true, mstat := 0, satSets := [], fenced := false, off := false, dbgWake := none }

/-- A launch record that a dispatcher has accepted and not yet inserted, with its source space; the host launch queue that waits for its
insertion, if it comes from one; and the thread and place of the `tenq` that posted it, whose earlier stores it sees (R138, R142, R223,
R285). -/
structure Inbound where
  launch : Block
  sp : Space
  queue : Option Nat
  after : Option (Nat × Nat)
  deriving DecidableEq, Repr

/-- What belongs to one die and to none of its engines (R257, R295, R297, R353). -/
structure Die where
  /-- Powered off by a full fence (R297). -/
  off : Bool
  retention : Bool
  fenced : Bool
  /-- `TINVA IVA` (R257). -/
  tinva : Nat
  /-- The invalidation in progress that this die's `TINVC` started: `KIND`, `IASID` and `IVA`, and held later ones. -/
  tinvc : List (Nat × Nat × Nat)
  /-- `FWDOG WDL` (R257). -/
  wdl : Nat
  /-- Confluence `GAPL` (R353). -/
  gapl : Nat
  /-- Word w of pseudo-channel c's slot table at 4 c + w, and the writes that wait for its next round (R345). -/
  slots : Tab Word
  slotNext : Tab Word
  /-- The dispatcher: the next insertion number and the records it has accepted, oldest first (R142). -/
  nextNum : Nat
  inbox : List Inbound
  /-- A full fence that powers the die off once its service-fence steps are done (R297). -/
  fullFence : Bool
  deriving DecidableEq, Repr

/-- A die right after reset (R257). -/
def Die.reset : Die :=
  { off := false, retention := false, fenced := false, tinva := 0, tinvc := [], wdl := 20
    gapl := 20, slots := [], slotNext := [], nextNum := 0, inbox := [], fullFence := false }

/-- A word of a slot table at reset: entry j holds class j mod 16 (R345). -/
def slotWordReset : Word := 0xFEDCBA9876543210

/-- A launch queue's registers (R284). -/
structure Queue where
  base : Nat
  asid : Nat
  die : Nat
  irq : Bool
  en : Bool
  log : Nat
  tail : Nat
  prog : Nat
  ovf : Bool
  ptb : Nat
  /-- The progress committed when the queue was switched out (R280). -/
  outProg : Nat
  /-- Stopped by an overrun until the next write of `TAIL` (R285). -/
  stuck : Bool
  /-- The record at `PROG`, once it has been read and is on offer (R285). -/
  offered : Option Block
  deriving DecidableEq, Repr

/-- A launch queue right after reset (R284). DESIGN CHOICE: log 2. -/
def Queue.reset : Queue :=
  { base := 0, asid := 0, die := 0, irq := false, en := false, log := 0, tail := 0, prog := 0, ovf := false, ptb := 0
    outProg := 0, stuck := false, offered := none }

/-- An entry of a Confluence unit's buffer (R351): access `nth` of handler `h` of element `elem`. The
wildcard of a link number is none. A ghost performs nothing (R357). -/
structure ChainEntry where
  chain : Nat
  q : Nat
  pred : Option Nat
  succ : Option Nat
  region : Nat
  elem : Nat
  h : Nat
  nth : Nat
  epoch : Nat
  ghost : Bool
  deriving DecidableEq, Repr

/-- The state of a chain (R348, R350, R354, R356). DEDUCED: log 70. -/
structure Chain where
  last : Nat
  nxt : Option Nat
  owner : Option Nat
  restoreLast : Nat
  restoreNxt : Option Nat
  /-- Has an access of the owner's current snapshot interval been performed on it? Then the restore point stands above;
  else it is the present state. The same for the interval that a cut in progress opens. -/
  inInterval : Bool
  nextLast : Nat
  nextNxt : Option Nat
  inNext : Bool
  /-- The gap timer: the stalled cycles it has counted (R354). -/
  gap : Nat
  deriving DecidableEq, Repr

/-- A chain at die reset (R348). -/
def Chain.reset : Chain :=
  { last := 0, nxt := none, owner := none, restoreLast := 0, restoreNxt := none, inInterval := false, nextLast := 0
    nextNxt := none, inNext := false, gap := 0 }

/-- The module's port-based routing ID (R371). -/
structure Pbr where
  valid : Bool
  id : Nat
  deriving DecidableEq, Repr

/-- A node of the region control block tree on a die, or the module node (R139, R140, R141): the budgets and the
counts of `MTC`, `FHF`, `MSL`, `CXB` in that order, and how many tasks of the table hold it on their paths. -/
structure Node where
  lim : List Nat
  cnt : List Nat
  refs : Nat
  deriving DecidableEq, Repr

/-- No limit on any budget (R139). -/
def Node.free : Node := { lim := [0xFFFFFFFF, 0xFFFFFFFF, 0xFFFFFFFF, 0xFFFFFFFF], cnt := [0, 0, 0, 0], refs := 0 }

/-- A dependence slot (R136). -/
inductive Dep where
  | tag (n : Nat)
  | word (va : Nat)
  deriving DecidableEq, Repr

/-- The states of an entry of the dependence table (R142), and of a task that is saved (R279). -/
inductive TaskPhase where
  | waiting
  | ready
  | loading
  | running
  | stopping
  | saved
  deriving DecidableEq, Repr

/-- An entry of a die's dependence table, with what the dispatcher read at insertion and keeps (R135 to R143, R148,
R269 to R272). -/
structure Task where
  phase : TaskPhase
  /-- Insertion number (R142). -/
  num : Nat
  deps : List Dep
  /-- The source space and the task space (R138). -/
  src : Space
  space : Space
  caddr : Nat
  cval : Nat
  trec : Nat
  cfg : Nat
  /-- The 32 header bytes of the stream at `cfg` (R73, R138). -/
  hdr : BitVec 256
  entry : Nat
  shw : Nat
  shh : Nat
  args : List Word
  /-- The captured pattern block of each bound stream (R138, R144). -/
  binds : List (Nat × Block)
  /-- Priority at insertion, and the period in which the task became ready (R143). -/
  prio : Nat
  readyAt : Nat
  /-- The period since which a ready task has found no place (R143, R269). -/
  unplaced : Option Nat
  fdom : Nat
  drain : Nat
  csave : Nat
  thand : Nat
  fring : Nat
  /-- Records written to `FRING` (R260). -/
  frecs : Nat
  /-- The nodes of the RCB path, this task's own first (R139). -/
  path : List Nat
  region : Option Nat
  thread : Option Nat
  /-- The period at which the slice ends (R269), and the overrun charged (R271). -/
  sliceEnd : Nat
  overrun : Nat
  /-- As a victim: the tag it makes room for (0 under a fence), `S`, `E` and the force point (R269, R270, R297). -/
  victim : Option (Nat × Nat × Nat × Nat)
  stopped : Bool
  forced : Bool
  /-- The core a saved task must return to, or the die (R272, R358). -/
  sameCore : Option Nat
  /-- The cycle by which a task under a service fence must have completed (R297). -/
  fenceBy : Option Nat
  /-- A fault fatal to the task has been declared: the code with which it fails (R148). -/
  dying : Option Nat
  deriving DecidableEq, Repr

/-- A range unit of a die (R149, R150); one never loaded hands out nothing (R211). -/
structure RangeUnit where
  loaded : Bool
  nxt : Word
  remain : Nat
  minc : Nat
  work : Nat
  fact : Nat
  deriving DecidableEq, Repr

/-- A range unit right after reset. -/
def RangeUnit.reset : RangeUnit := { loaded := false, nxt := 0, remain := 0, minc := 0, work := 0, fact := 0 }

/-- A token on a link (R56): kind 0 data, 1 header, 2 control word, 3 reserved. -/
structure Token where
  kind : Nat
  chan : Nat
  pay : W32
  /-- In a crossbar: the cycle from which it may go on (R61). -/
  due : Nat := 0
  deriving DecidableEq, Repr

/-- A result on its way out of an element (R63): the token, the first-hop lanes it leaves on (bits as `OUTL`), and the
cycle from which the operation's latency lets it leave. -/
structure Out where
  tok : Token
  lanes : Nat
  ready : Nat
  deriving DecidableEq, Repr

/-- A control bit, with its sender's epoch, and on its way through an element the cycle from which it may go on (R67, R265). -/
structure CtlBit where
  b : Bool
  epoch : Nat
  due : Nat := 0
  deriving DecidableEq, Repr

/-- What a snapshot records of an element (R265). -/
structure Snap where
  k : Tab W32
  latch : Tab W32
  bank : Tab W32
  ctx : Nat
  stopped : Nat
  reported : Nat
  flipCycle : Nat
  flipId : Nat
  /-- Which of its two planes was active, and the crossbar settings that stood apart from it. -/
  side : Bool
  oldXb : Tab Nat
  /-- The position each handler's stream resumes at, and the count of `CNT` that stands there. -/
  spos : Tab Nat
  cnts : Tab Nat
  /-- The working state of its operations, and a switch token held under `EOSW`. -/
  aux : Tab Nat
  /-- How many accesses each handler had issued (R119). -/
  issued : Tab Nat
  heldSwt : Bool
  sentSwt : Bool
  cq : List CtlBit
  deriving DecidableEq, Repr

/-- The states of an access in an edge element's slots (R114, R260). -/
inductive AccessPhase where
  | issued
  /-- Offered to or buffered in a Confluence unit (R351). -/
  | atUnit
  | stalled
  | done
  deriving DecidableEq, Repr

/-- What an entry of an edge element's order does (R111 to R120): `none` is a result that needs no access and waits
behind those that do. -/
inductive AccessOp where
  | none
  | load
  | store
  | amo (mode cmp : Nat)
  | chainLoad
  | chainStore
  | chainAdd
  /-- An indivisible OR into a word; an append to a refresh queue, and the store of its entry once it has taken its slot, with the entry's
  address, which a replay reads anew (R47, R49). -/
  | orWord
  | append
  | entry (slot : Nat) (va : Option Nat)
  deriving DecidableEq, Repr

/-- An access in an edge element's slots, in firing order (R114): its handler, its ordinal in the stream, its
address and size, the value stored or added, and what it returned. -/
structure Access where
  h : Nat
  ord : Nat
  /-- How many accesses its handler had issued before it (R119). -/
  nth : Nat
  op : AccessOp
  va : Nat
  len : Nat
  fmt : Nat
  val : Nat
  /-- The link word of a chain access, below the chain's number. -/
  link : Nat
  /-- The cache hints, `NA` in bit 1 and `EVF` in bit 0, and the physical address, with `CMP` of its page, once a unit has accepted it. -/
  hint : Nat
  pa : Nat
  cmp : Bool
  /-- Tokens delivered once the access is done, and the one whose payload is the value it returns. -/
  outs : List Out
  slot : Option Nat
  phase : AccessPhase
  epoch : Nat
  /-- The logged value a replayed access returns instead of being performed (R119). -/
  logged : Option Nat
  /-- The access has met an uncorrectable error once (R264). -/
  met : Bool
  deriving DecidableEq, Repr

/-- One element of the fabric (R59 to R70, R75, R83, R106, R114, R119). -/
structure Elem where
  /-- Fields 0 to 63 of the active plane and of the shadow plane; an unlisted field is 0 (R75, R76). -/
  act : Tab Nat
  shd : Tab Nat
  /-- `CID` of each plane, 0 when unconfigured. -/
  actCid : Nat
  shdCid : Nat
  flipCycle : Nat
  flipId : Nat
  /-- Which of the two planes is active, and whether the element has ever been configured in one (R84, R85). -/
  side : Bool
  known : Bool
  /-- k0 to k3 of handler h at 4 h + i. -/
  k : Tab W32
  /-- Header latch of handler h for port p at 4 h + p. -/
  latch : Tab W32
  ctx : Nat
  /-- Lanes of the group bank that hold a value (R106). -/
  bank : Tab W32
  /-- The partition of port p and handler h at 4 p + h, head first. -/
  parts : Tab (List Token)
  /-- Tokens on the lanes that end in its ports, by partition: they stand there from the next cycle on (R61). -/
  arriving : Tab (List Token)
  /-- What has given up a word in this cycle, and accepts another from the next on (R63): partition i in bit i, the crossbar hold of
  direction d, after a stall, in bit 16 + d, the control input queue in bit 20. -/
  freed : Nat
  /-- Crossbar holds: lane b from north 0, east 1, south 2, west 3. -/
  xb : Tab Token
  /-- The output buffer with the results still in the pipeline, head first. -/
  out : List Out
  /-- The control input queue, the bits that stand in it from the next cycle on, and control bits on their way out or through (R67). -/
  cq : List CtlBit
  ctlIn : List CtlBit
  cout : List (CtlBit × Nat)
  /-- Has flipped in the wavefront in progress. -/
  flipped : Bool
  /-- Crossbar settings that stand apart from the active plane, by direction (R83): after the flip the old plane's, until
  a switch token has passed; before the flip the new plane's, once one has. -/
  oldXb : Tab Nat
  /-- A switch token held under `EOSW`, and one that has gone out before the element's flip (R81). -/
  heldSwt : Bool
  sentSwt : Bool
  /-- The cycles from which the element may next fire or flip, may next send its output, and may next send a control bit (R61, R65, R67). -/
  wake : Nat
  sendAt : Nat
  ctlAt : Nat
  /-- Handlers whose `cntr` has stopped (R104), and whose `sink` has reported (R105), one bit each. -/
  stopped : Nat
  reported : Nat
  /-- Clock-gated (R70), and the last cycle with something in it. -/
  gated : Bool
  busyAt : Nat
  /-- Has emitted or recorded the marker of the cut in progress; the building bank and the last complete cut (R265). -/
  snap : Option Snap
  cut : Option Snap
  /-- What an `ldst` with a feedback port stood at when its marker of the cut in progress went out (R115, R265). -/
  early : Option Snap
  epoch : Nat
  /-- The ordinal of the next element of handler h's stream (R277), and working state of its operation. -/
  spos : Tab Nat
  aux : Tab Nat
  acc : List Access
  /-- How many accesses each handler has issued. A flip leaves the count, and a rollback takes it back to what the cut recorded: less that,
  it is the ordinal of the next access within its snapshot interval (R119). -/
  issued : Tab Nat
  /-- The replay log: handler, count of its accesses before this one, and value, oldest first, with the epoch of their interval (R119). -/
  log : List (Nat × Nat × Nat × Nat)
  /-- Logged values that a replay still has to return: handler, count and value (R119, R266). -/
  replay : List (Nat × Nat × Nat)
  deriving DecidableEq, Repr

/-- An element right after reset: unconfigured and empty. -/
def Elem.reset : Elem :=
  { act := [], shd := [], actCid := 0, shdCid := 0, flipCycle := 0, flipId := 0, side := false, known := false, k := [], latch := [], ctx := 0, bank := []
    parts := [], arriving := [], freed := 0, xb := [], out := [], cq := [], ctlIn := [], cout := [], flipped := false, oldXb := [], heldSwt := false, sentSwt := false, wake := 0, sendAt := 0, ctlAt := 0, stopped := 0
    reported := 0, gated := false, busyAt := 0, snap := none, cut := none, early := none, epoch := 0, spos := [], aux := [], acc := []
    issued := [], log := [], replay := [] }

/-- A configuration command in a region's queue (R225, R372). A load may be the dispatcher's own (R260). -/
inductive CfgCmd where
  | load (va : Nat) (disp : Bool)
  | write (cmd : Nat)
  | switch
  | status (va : Nat)
  | save (va : Nat)
  | restore (va : Nat)
  deriving DecidableEq, Repr

/-- A stream or chain command in a core's queue (R222, R372): a stream bound, as a thread port or to a pattern block, or unbound; its
stalled accesses reissued; its region stopped; a chain set from a link word, with the accesses of the chain that had been issued by its
commit. -/
inductive StreamCmd where
  | bind (k : Nat) (bound port : Bool) (blk : Block)
  | reissue (k : Nat)
  | stop (k : Nat)
  | chain (k link : Nat) (prior : List (Nat × Nat × Nat))
  deriving DecidableEq, Repr

/-- A load of a configuration stream that has begun and whose shadow is not yet released (R78, R80, R85). -/
structure Load where
  va : Nat
  sp : Space
  /-- The thread that receives its faults; none for a load of the dispatcher (R260). -/
  thread : Option Nat
  hdr : BitVec 256
  /-- The commands read so far, newest first, for `CHK` (R73). -/
  cmds : List W32
  stalled : Bool
  met : Bool
  /-- The cycle of the last command, once every command has been applied. -/
  lastAt : Option Nat
  deriving DecidableEq, Repr

/-- The states of a region's shadow (R78 to R85, R227). -/
inductive Shadow where
  | none
  | loading
  /-- Written by cfgwr and not yet sealed. -/
  | written
  | sealed
  | wave
  deriving DecidableEq, Repr

/-- A region (R55, R225 to R230, R265 to R267). -/
structure Region where
  owner : Option Nat
  /-- Its sectors, bit s for sector s. -/
  mask : Nat
  /-- The task it belongs to, and whether it is a reusable region that the dispatcher holds (R143, R145). -/
  task : Option Nat
  reusable : Bool
  running : Bool
  /-- rgstart has committed and the handlers wait for the wavefront to be complete (R228). -/
  starting : Bool
  frozen : Bool
  /-- Sources stop issuing for a pre-emption (R270). -/
  draining : Bool
  space : Space
  /-- Completion address, value and the space they are stored in, while armed (R145, R228). -/
  armed : Option (Nat × Nat)
  /-- The completion store stands stalled under a fault record (R145). -/
  complStalled : Bool
  cq : List (CfgCmd × Space)
  load : Option Load
  shadow : Shadow
  scid : Nat
  shdChanged : Bool
  actChanged : Bool
  /-- A cfgsw waits for the seal, or an element holds a switch token under `EOSW` for it (R81). -/
  armedSwitch : Bool
  /-- Cause and index of the last refusal, and whether the load refused was the last one (R79, R227). -/
  cause : Nat
  cidx : Nat
  refused : Bool
  /-- Numeric flag word (R92). -/
  nfl : BitVec 5
  /-- Epoch of the last cut begun; the cut in progress; must a cut be complete before a load may begin (R78, R265)? -/
  epoch : Nat
  cutting : Bool
  cutDue : Bool
  /-- The cut in progress was begun before the last wavefront was complete, whose request it took in (R78, R265). -/
  cutOld : Bool
  /-- An element fault not yet rolled back: element and cause; and whether one was since the last complete cut (R266). -/
  fault : Option (Nat × Nat)
  faulted : Bool
  wdFaulted : Bool
  /-- The last cycle in which a token moved (R270), and the cycles that the watchdog has counted since (R267). -/
  movedAt : Nat
  still : Nat
  /-- The forced save of the region, once frozen (R270). -/
  forced : Bool
  /-- A save that `rgsave` began: its address and space (R229). -/
  saveAt : Option (Nat × Space)
  /-- The write of a `cfgst` at the head of the queue stands stalled under a fault record (R260). -/
  cqStalled : Bool
  /-- That write, and the completion store, have met an uncorrectable error once (R264). -/
  met : Bool
  complMet : Bool
  deriving DecidableEq, Repr

/-- A region handle that is free. -/
def Region.reset : Region :=
  { owner := none, mask := 0, task := none, reusable := false, running := false, starting := false, frozen := false
    draining := false, space := { asid := 0, ptb := 0, user := true }, armed := none, complStalled := false, cq := []
    load := none, shadow := .none, scid := 0, shdChanged := false, actChanged := false, armedSwitch := false, cause := 0
    cidx := 0xFFFFFFFF, refused := false, nfl := 0, epoch := 0, cutting := false, cutDue := false, cutOld := false, fault := none, faulted := false
    wdFaulted := false, movedAt := 0, still := 0, forced := false, saveAt := none, cqStalled := false, met := false, complMet := false }

/-- A stream of a region (R109, R231 to R233). -/
structure Stream where
  bound : Bool
  port : Bool
  blk : Block
  /-- A binding or an unbinding that waits for the stream to begin anew (R231). -/
  next : Option (Bool × Bool × Block)
  ovr : Bool
  shrt : Bool
  cnt : Nat
  /-- The stream is part-way: its handler has begun it (R231). -/
  begun : Bool
  inq : List Token
  outq : List Token
  deriving DecidableEq, Repr

/-- A stream right after reset: unbound. -/
def Stream.reset : Stream :=
  { bound := false, port := false, blk := 0, next := none, ovr := false, shrt := false, cnt := 0, begun := false, inq := []
    outq := [] }

/-! ### The engines of a core (R219 to R248, R314 to R326) -/

/-- A tile operation with the slot descriptors it captured (R237), the recurrence (R238) or a readout (R239). -/
inductive MatOp where
  | zero (acc : Nat) (anchor : Int)
  | tile (acc a b da db : Nat)
  | recur (acc a s0 n : Nat)
  /-- To memory at `dst` with a row pitch, or to slot `dst`; `rm` and `satf` as mrdcfg stood. -/
  | read (acc dst : Nat) (slot : Bool) (fmt pitch : Nat) (scale : Int) (rm : Nat) (satf : Bool)
  deriving DecidableEq, Repr

/-- A command in the matrix queue, with its thread, the thread's space, and its place among the thread's commands. -/
structure MatCmd where
  thread : Nat
  sp : Space
  seq : Nat
  op : MatOp
  deriving DecidableEq, Repr

/-- An accumulator tile (R310): its anchor, and the cells that are not 0, cell (i, j) at 32 i + j. -/
structure Tile where
  anchor : Int
  cells : Tab Int
  deriving DecidableEq, Repr

/-- A tile right after reset. -/
def Tile.reset : Tile := { anchor := 0, cells := [] }

/-- The matrix array of a core (R235 to R240, R316): the command that has started, the cycle in which its time ends,
whether its writes stand stalled under a fault record, and the tile of an `mread` as it stood at its start (R317). -/
structure Matrix where
  queue : List MatCmd
  cur : Option MatCmd
  tile : Option Tile
  doneAt : Nat
  stalled : Bool
  met : Bool
  deriving DecidableEq, Repr

/-- A matrix array right after reset. -/
def Matrix.reset : Matrix := { queue := [], cur := none, tile := none, doneAt := 0, stalled := false, met := false }

/-- The states of an operand slot (R314). -/
inductive SlotPhase where
  | free
  | claimed (t : Nat)
  /-- The thread's task is over and holds the slot no longer; commands that name it are not complete (R235, R315). -/
  | leaving (t : Nat)
  | clearing
  deriving DecidableEq, Repr

/-- An operand slot (R236, R314): bytes that are not zero, of the data and of the sideband; a release that waits for
the commands before it, by its place among the thread's commands; and the cycle in which it became clearing. -/
structure Slot where
  phase : SlotPhase
  desc : Nat
  data : Tab Byte
  side : Tab Byte
  release : Option Nat
  clearFrom : Nat
  deriving DecidableEq, Repr

/-- A slot right after reset. -/
def Slot.reset : Slot := { phase := .free, desc := 0, data := [], side := [], release := none, clearFrom := 0 }

/-- A copy in a channel's queue or in progress (R241 to R244). -/
structure CopyCmd where
  thread : Nat
  sp : Space
  seq : Nat
  blk : Block
  follow : Option MatOp
  cancelled : Bool
  deriving DecidableEq, Repr

/-- A copy channel (R242, R319): the copy in progress and the payload bytes it has performed. -/
structure Channel where
  queue : List CopyCmd
  cur : Option CopyCmd
  pos : Nat
  stalled : Bool
  met : Bool
  deriving DecidableEq, Repr

/-- A channel right after reset. -/
def Channel.reset : Channel := { queue := [], cur := none, pos := 0, stalled := false, met := false }

/-- A command of the Sluice (R245). -/
inductive SelOp where
  | cfg (blk : Block)
  | put (score idx : Nat)
  | drain (final release : Bool)
  | hist (va : Nat) (clear : Bool)
  | arm (bin chan : Nat) (blk : Block)
  | topk (va n : Nat) (drain final release : Bool)
  deriving DecidableEq, Repr

/-- A queued command of the Sluice. -/
structure SelCmd where
  thread : Nat
  sp : Space
  seq : Nat
  op : SelOp
  deriving DecidableEq, Repr

/-- The Sluice of a core (R245 to R248, R322 to R326). -/
structure Sluice where
  /-- The thread whose selcfg stands, and whether the unit has accepted a configuration. -/
  owner : Option Nat
  on : Bool
  blk : Block
  sp : Space
  /-- Scores and indices, in rank order. -/
  pairs : List (Nat × Nat)
  queue : List SelCmd
  /-- A `topk` whose pairs are entering, with the number entered. -/
  run : Option (SelCmd × Nat)
  /-- A drain that has been accepted and not yet performed: *final* and *release*, and the command it came from. -/
  drain : Option (Bool × Bool × Nat)
  /-- How many launch records of that drain the dispatcher has accepted. -/
  posted : Nat
  counts : Tab Nat
  ovf : Nat
  sum : Nat
  sumOvf : Bool
  /-- Armed bins: the channel and the copy. -/
  arms : Tab (Nat × CopyCmd)
  /-- The drain count d. -/
  drains : Nat
  stalled : Bool
  met : Bool
  deriving DecidableEq, Repr

/-- A Sluice right after reset. -/
def Sluice.reset : Sluice :=
  { owner := none, on := false, blk := 0, sp := { asid := 0, ptb := 0, user := true }, pairs := [], queue := [], run := none
    drain := none, posted := 0, counts := [], ovf := 0, sum := 0, sumOvf := false, arms := [], drains := 0
    stalled := false, met := false }

/-- A queued chunk: its address and length, and the thread and place of the command that queued it (R18, R207). -/
structure Feed where
  va : Nat
  len : Nat
  thread : Nat
  seq : Nat
  deriving DecidableEq, Repr

/-- A Headwater session that is not Closed (R15 to R20): its `STATE`, 1 Open, 2 Running, 3 Output wait, 4 Draining or
5 Failed; its last error; the space and the thread that opened it; its session block and that block's address; queued
chunks and output descriptors, each with its thread and place; the bytes it has read, in order; how many bytes `BCON` has passed
and the pictures completed; where the next side record goes in the ring; whether pictures are skipped up to the next that
decoding can begin at, and the numbers of those that were (R35). -/
structure Session where
  state : Nat
  err : Nat
  sp : Space
  thread : Nat
  va : Nat
  blk : Block
  chunks : List Feed
  descs : List (BitVec 256 × Nat × Nat)
  stream : List Byte
  bcon : Nat
  pdone : Nat
  sideOff : Nat
  skipping : Bool
  badRefs : List Nat
  /-- The thread and place of the last command that changed it, whose effect waits for that thread's qfences (R207). -/
  after : Nat × Nat
  /-- hwclose has been given, in abort mode, in drain mode with the drain still to begin, or in Failed; closed or failed with the
  final stamp still to write (R17, R31). -/
  aborting : Bool
  draining : Bool
  freeing : Bool
  ending : Bool
  /-- The engine's fields of the session block have still to be written. -/
  owed : Bool
  stalled : Bool
  met : Bool
  deriving DecidableEq, Repr

/-- A Headwater engine: the context that it served last, and the session whose picture it is in (R15). -/
structure Engine where
  last : Nat
  busy : Option Nat
  deriving DecidableEq, Repr

/-- What a save area has no place for, kept beside it by the model: the region's elements and streams as they were
saved, its pending load, its configuration commands still to be served and its thread; whether its start still waits for a switch; the
name under which what stays resident on the core stands; whether the completion saved is one that `rgstart` armed; and whether the active
plane is marked changed (R225, R272, R273). DEDUCED: log 50. -/
structure Side where
  load : Option Load
  elems : List Elem
  streams : List Stream
  cq : List (CfgCmd × Space)
  scq : List StreamCmd
  thread : Option Thread
  starting : Bool
  resident : Option Nat
  own : Bool
  changed : Bool
  deriving DecidableEq, Repr

/-- A `DREAD` of a region that has started (R294): the region, the host address, and once the region is frozen for it, whether it stood
frozen and whether it was draining before. -/
structure Reading where
  region : Nat
  addr : Nat
  before : Option (Bool × Bool)
  deriving DecidableEq, Repr

/-- Jibor (R288 to R297): module flash and what Jibor holds. -/
structure Jibor where
  /-- Images in flash, header and body, at 2 type + slot; the highest `VERSION` accepted of each type, and the highest
  minimum seen. -/
  flash : Tab (List Byte)
  highest : Tab Nat
  minver : Tab Nat
  /-- The `DIGEST` of the running image of each type. -/
  digests : Tab (List Byte)
  /-- The body of the configuration record in force, and of one installed and waiting (R297). -/
  record : List Byte
  waiting : Option (List Byte)
  /-- `LIFE` in force, and whether the identity in use is the returned one. -/
  life : Nat
  returned : Bool
  /-- Debug level, its ASID at program level, the highest level since power-on, and the nonce of the last report. -/
  level : Nat
  asid : Nat
  dmax : Nat
  nonce : Option (List Byte)
  /-- Cores released, and the host port trained for CXL.mem and CXL.cache; the host has committed its HDM decoders (R287, R288). -/
  released : Bool
  hdm : Bool
  /-- A junction has read above 105 °C, and not every one below 95 °C since (R295). -/
  hot : Bool
  /-- The mailbox (R291): `MARG`, `BUSY` and the result of `MSTS`, and `MPAY` up to its last byte written; and the `DREAD` of a region that
  has started. -/
  arg0 : Word
  arg1 : Word
  busy : Bool
  result : Nat
  payload : List Byte
  reading : Option Reading
  deriving DecidableEq, Repr

/-- Jibor right after bring-up with a record that enables every core and lists no faulty lane and no limit.
DESIGN CHOICE: log 84. DEDUCED: log 91. -/
def Jibor.reset : Jibor :=
  { flash := [], highest := [], minver := [], digests := [], record := [], waiting := none, life := 1, returned := false, level := 0, asid := 0
    dmax := 0, nonce := none, released := true, hdm := false, hot := false, arg0 := 0, arg1 := 0, busy := false, result := 0
    payload := [], reading := none }

/-- Everything outside the execution of the block in hand. -/
structure World where
  /-- Memory by physical address: addresses strictly rising, no byte that reads as an unlisted one (zero). -/
  mem : List Host.Cell
  /-- The poisoned aligned 32-byte granules, by address / 32 (R264). -/
  poison : Tab Unit
  /-- The 128-byte blocks of HBM whose metadata reads as a reserved code or meets an uncorrectable error, by address / 128: all four of
  their granules are poisoned (R341). -/
  badMeta : Tab Unit
  /-- Cycles since reset (R215). -/
  cycle : Nat
  /-- The model's own: how many free values have been drawn. -/
  fresh : Nat
  cache : Cache
  threads : Tab Thread
  cores : Tab Core
  dies : Tab Die
  pbr : Pbr
  queues : Tab Queue
  /-- Confluence buffers by `16 die + slice`, in order of acceptance (R351). -/
  units : Tab (List ChainEntry)
  /-- Chains by `4096 die + id`. -/
  chains : Tab Chain
  /-- Dependence tables: the task with tag `t` of die `d` at `2^32 d + t`. -/
  tasks : Tab Task
  /-- Budget nodes: the node at address `a` on die `d` at `2^64 d + a`; the module node apart (R141). -/
  nodes : Tab Node
  moduleNode : Node
  /-- Range units by `256 die + u` (R149). -/
  ranges : Tab RangeUnit
  /-- Elements by `3072 c + 64 row + column`. -/
  elems : Tab Elem
  /-- Regions by `4 c + handle`. -/
  regions : Tab Region
  /-- Streams by `64 c + s`. -/
  streams : Tab Stream
  /-- Matrix arrays and Sluices by core, accumulator tiles and copy channels by `4 c + n`, slots by `16 c + s`. -/
  matrices : Tab Matrix
  sluices : Tab Sluice
  tiles : Tab Tile
  channels : Tab Channel
  slotsOp : Tab Slot
  /-- The next place in the order of commands. -/
  cmdSeq : Nat
  /-- Sectors that are powered or waking: the cycle from which the sector accepts, by `12 c + s`; unlisted are off (R71). -/
  sectors : Tab Nat
  /-- Headwater sessions by `SESSID` (R16). -/
  sessions : Tab Session
  /-- Headwater engines by 8 die + engine (R15). -/
  engines : Tab Engine
  /-- Stream and chain commands that wait, by core (R222, R372). -/
  scq : Tab (List StreamCmd)
  /-- What the model keeps beside each save area, by the area's physical address. -/
  sides : Tab Side
  /-- Periods begun (R141). -/
  periods : Nat
  /-- MSI-X signals sent, by vector (R284). -/
  msix : Tab Nat
  /-- Records and events that wait for their threads, oldest first (R262, R275). -/
  owed : List Owed
  jibor : Jibor
  /-- Dead lanes of the configuration record in force: `((core * 48 + row) * 64 + col) * 8 + 2 dir + lane b` (R61, R289). -/
  dead : Tab Unit
  deriving DecidableEq, Repr

/-- A block that has begun and not yet committed (R130, R131). DEDUCED: log 7. -/
structure Txn where
  /-- The machine as it stood when the block began: a trap returns to it. -/
  saved : World
  /-- The block address. -/
  base : Word
  /-- `LNM1` + 1. -/
  lines : Nat
  /-- `NWRD`. -/
  nwrd : Nat
  /-- Words 1 to `NWRD`, as the fetch read them. -/
  words : List W32
  /-- The index of the word that runs next, from 1. -/
  idx : Nat
  /-- The registers and predicates that depend on an indivisible word of the block (R205). -/
  depG : BitVec 64
  depP : BitVec 8
  /-- The registers that a commit result of the block writes (R220). -/
  cres : BitVec 64
  /-- Memory with the block's stores and without its indivisible words, once it has one (R205). -/
  plain : Option (List Host.Cell)
  /-- A `sev` of the block, which acts at commit (R217). -/
  sev : Bool
  /-- A fence of the block has run (R202). -/
  fenced : Bool
  /-- The first thing of the block that holds its commit, and has not ended (R132, R212, R222). -/
  held : Option Wait
  /-- How many `wfe` words of the block have ended their waits (R217). -/
  wakes : Nat
  deriving DecidableEq, Repr

/-- What happens next: a step of another agent, a step of the thread whose turn it is, a cycle in which no thread takes a step, or a host
write of `n` bytes to the mailbox at a BAR2 offset (R291). DESIGN CHOICE: log 5. -/
inductive Turn where
  | agent (i : Instr)
  | thread
  | pass
  | mailbox (off n v : Nat)
  deriving DecidableEq, Repr

/-- The device. -/
structure State where
  w : World
  /-- The block in hand of thread `turn`, if one is open. -/
  txn : Option Txn
  /-- The thread whose turn it is: 4 c + tid. -/
  turn : Nat
  /-- What happens next, one entry for each choice. The choice among agents is the world's: nothing in the model fills this list. -/
  agenda : List Turn
  deriving DecidableEq, Repr

/-- Why the machine stops. -/
inductive Fault where
  /-- Raised by `step` for an agenda that names an agent the package does not have (a step that is not well formed).
  Safe: no such step exists on the hardware. -/
  | illFormedStep
  deriving DecidableEq, Repr

/-- Why a step has no meaning in the model. -/
inductive Refusal where
  /-- Raised by `exec` for an instruction that has no meaning yet, by its mnemonic in the opcode table. Safe: the
  model stops. -/
  | notModelled (mnemonic : String)
  deriving DecidableEq, Repr

/-- The device right after reset: every thread Halted (R133), every register at its reset value, nothing in memory.
DEDUCED: log 4. -/
def State.reset : State :=
  { w := { mem := [], poison := [], badMeta := [], cycle := 0, fresh := 0
           cache := { tlb := [], dieTlb := [], l2 := [], rdc := [], sharers := [], code := [] }
           threads := [], cores := [], dies := [], pbr := { valid := false, id := 0 }, queues := [], units := []
           chains := [], tasks := [], nodes := [], moduleNode := Node.free, ranges := [], elems := [], regions := [], streams := []
           matrices := [], sluices := [], tiles := [], channels := [], slotsOp := [], cmdSeq := 0, sectors := []
           sessions := [], engines := [], scq := [], sides := [], periods := 0, msix := [], owed := [], jibor := Jibor.reset, dead := [] }
    txn := none, turn := 0, agenda := [] }

end Sys2Proof.Machine
end

