-- ==== Sys2Proof/Machine/Mem.lean ====
section
/-! DEFINITION. Memory by physical address, the physical windows, the caches that hold no value of their own, and
translation (R3, R251 to R256, R282, R331 to R342). -/

namespace Sys2Proof.Machine

/-! ### Bytes -/

/-- What an address that memory does not list reads as (the spec gives memory no reset contents). DESIGN CHOICE: log 1. -/
def unlistedByte : Byte := 0

/-- The byte at a physical address. DESIGN CHOICE: log 1. -/
def byteAt (m : List Host.Cell) (a : Nat) : Byte := tabGet unlistedByte a m

/-- Memory with `b` at `a`, in canonical form. DEDUCED: log 95. -/
def setByte (m : List Host.Cell) (a : Nat) (b : Byte) : List Host.Cell :=
  if b = unlistedByte then tabDel a m else tabSet a b m

/-- The canonical form: addresses strictly rising, and no entry equal to what an unlisted address reads as. DEDUCED: log 95. -/
def Memory.wf (m : List Host.Cell) : Bool := tabWf m && m.all fun c => decide (c.2 ≠ unlistedByte)

/-- The `n` bytes from `a`, lowest address first. -/
def bytesAt (m : List Host.Cell) (a : Nat) : Nat → List Byte
  | 0 => []
  | n + 1 => byteAt m a :: bytesAt m (a + 1) n

/-- Memory with the bytes stored from `a` on. -/
def setBytes (m : List Host.Cell) (a : Nat) : List Byte → List Host.Cell
  | [] => m
  | b :: rest => setBytes (setByte m a b) (a + 1) rest

/-- The little-endian number of the `n` bytes at `a` (R3). -/
def numAt (m : List Host.Cell) (a n : Nat) : Nat := leNat (bytesAt m a n)

/-- Memory with the `n` low bytes of `v` stored at `a` (R3). -/
def setNum (m : List Host.Cell) (a n v : Nat) : List Host.Cell := setBytes m a (leBytes n v)

/-! ### Windows -/

/-- The windows of the physical space (R282). -/
inductive Window where
  | hbm (d : Nat)
  | coreMem (c : Nat)
  | aperture
  | host
  | peer (id o : Nat)
  | nothing
  deriving DecidableEq, Repr

/-- The base of the core memories (R282). -/
def coreMemBase : Nat := 0x10000000000

/-- The base of the MMIO and CSR aperture (R283). -/
def apertureBase : Nat := 0x20000000000

/-- Is an offset of an HBM window populated? 48 GiB of every 64 GiB (R282). -/
def hbmPopulated (o : Nat) : Bool := decide (o < 2 ^ 39 ∧ o % 2 ^ 36 < 48 * 2 ^ 30)

/-- The window of a physical address (R282). DEDUCED: log 33. -/
def windowOf (pa : Nat) : Window :=
  if pa < 2 ^ 39 then (if hbmPopulated pa then .hbm (pa / 2 ^ 36) else .nothing)
  else if coreMemBase ≤ pa ∧ pa < coreMemBase + 320 * 2 ^ 22 then .coreMem ((pa - coreMemBase) / 2 ^ 22)
  else if apertureBase ≤ pa ∧ pa < apertureBase + 2 ^ 29 then .aperture
  else if 2 ^ 48 ≤ pa ∧ pa < 2 ^ 51 then .host
  else if 2 ^ 51 ≤ pa ∧ pa < 2 ^ 52 then .peer ((pa - 2 ^ 51) / 2 ^ 39) ((pa - 2 ^ 51) % 2 ^ 39)
  else .nothing

/-- The address that serves `pa`: a peer address of the module's own ID is served locally (R282, R371). -/
def homeOf (w : World) (pa : Nat) : Nat :=
  match windowOf pa with
  | .peer id o => if w.pbr.valid && w.pbr.id == id then o else pa
  | _ => pa

/-- The core of a thread, and the die of a core (R215, R286). -/
def coreOf (t : Nat) : Nat := t / 4
def dieOf (c : Nat) : Nat := c / 40

def World.core (w : World) (c : Nat) : Core := tabGet Core.reset c w.cores
def World.setCore (w : World) (c : Nat) (x : Core) : World := { w with cores := tabSet c x w.cores }
def World.die (w : World) (d : Nat) : Die := tabGet Die.reset d w.dies
def World.setDie (w : World) (d : Nat) (x : Die) : World := { w with dies := tabSet d x w.dies }
def World.thread (w : World) (t : Nat) : Thread := tabGet Thread.reset t w.threads
def World.setThread (w : World) (t : Nat) (x : Thread) : World := { w with threads := tabSet t x w.threads }

/-- The agents that reach physical memory, as far as R255, R282 and R321 tell them apart: a word of a thread of core `c`,
its copy engine, another engine of the core, the configuration controller or the dispatcher working on a region of the core, or an agent of
the die. -/
inductive Reach where
  | word (c : Nat)
  | copy (c : Nat)
  | engine (c : Nat)
  | ctrl (c : Nat)
  | dieAgent (d : Nat)
  deriving DecidableEq, Repr

/-- The core an agent belongs to. -/
def Reach.core : Reach → Option Nat
  | .word c | .copy c | .engine c | .ctrl c => some c
  | .dieAgent _ => none

/-- The core whose TLB an agent uses: the configuration controller and the dispatcher use the die's directly (R255). -/
def Reach.tlbCore : Reach → Option Nat
  | .word c | .copy c | .engine c => some c
  | .ctrl _ | .dieAgent _ => none

/-- The die an agent belongs to. -/
def Reach.die : Reach → Nat
  | .word c | .copy c | .engine c | .ctrl c => dieOf c
  | .dieAgent d => d

/-- Does an access reach populated memory (R282, R289, R297, R321)? Only the copy engine and the words of a thread reach the peer window,
the module's own part of it among it. The aperture is not memory; an unserved address answers with an error response. -/
def served (w : World) (who : Reach) (pa : Nat) : Bool :=
  (match windowOf pa, who with
   | .peer .., .engine _ | .peer .., .ctrl _ | .peer .., .dieAgent _ => false
   | _, _ => true) &&
  match windowOf (homeOf w pa) with
  | .hbm d => !(w.die d).off
  | .coreMem c =>
    (w.core c).enabled && !(w.die (dieOf c)).off &&
      (match who with
       | .copy _ => true
       | _ => who.core == some c)
  | .aperture => false
  | .host => true
  | .peer _ o => w.pbr.valid && hbmPopulated o
  | .nothing => false

/-- Does a byte lie in a poisoned granule, or in a block whose metadata poisons it (R264, R341)? -/
def poisoned (w : World) (pa : Nat) : Bool := tabHas (homeOf w pa / 32) w.poison || tabHas (homeOf w pa / 128) w.badMeta

/-! ### L2, remote-data cache, compression -/

/-- The home slice of a line of HBM (R334). -/
def sliceOf (a : Nat) : Nat :=
  let h := (List.range 6).foldl (fun h i => h ^^^ bits a (4 * (i + 1) + 10) (4 * (i + 1) + 7)) (bits a 10 7)
  h ^^^ bits a 35 35

/-- The key of the L2 set of a line (R334). -/
def setKey (a : Nat) : Nat := (16 * (a / 2 ^ 36) + sliceOf a) * 2048 + bits a 21 11

/-- Elements of `wd` bytes of a 128-byte line, in order. -/
def lineElems (m : List Host.Cell) (a wd : Nat) : List Nat :=
  (List.range (128 / wd)).map fun i => numAt m (a + wd * i) wd

/-- Does a line fit a base of `wd` bytes with deltas of `v` bytes (R340)? -/
def fitsDelta (m : List Host.Cell) (a wd v : Nat) : Bool :=
  let es := lineElems m a wd
  let base := es.headD 0
  es.all fun x => decide (-(2 ^ (8 * v - 1) : Int) ≤ sgn (8 * wd) (x + 2 ^ (8 * wd) - base) ∧
    sgn (8 * wd) (x + 2 ^ (8 * wd) - base) < 2 ^ (8 * v - 1))

/-- The code under which a write-back stores a marked line: the fewest bytes, and the lowest code on a tie (R341). -/
def encodeLine (m : List Host.Cell) (a : Nat) : Nat :=
  let es := lineElems m a 8
  if es.all (· == 0) then 1
  else if es.all (· == es.headD 0) then 2
  else if fitsDelta m a 8 1 then 3
  else if fitsDelta m a 16 2 then 9
  else if fitsDelta m a 4 1 then 6
  else if fitsDelta m a 8 2 then 4
  else if fitsDelta m a 16 4 then 10
  else 0

/-- Slots that a block of a code takes on HBM: one where the code stores it in 64 bytes or fewer (R340, R341). -/
def slotsOf (code : Nat) : Nat := if [1, 2, 3, 4, 6, 9, 10].contains code then 1 else 2

/-- A plain load and a plain store. -/
def Touch.load : Touch := { write := false, atomic := false, na := false, evf := false, cmp := false }
def Touch.store : Touch := { write := true, atomic := false, na := false, evf := false, cmp := false }

/-- Write a line back that is dirty, newly filled and marked, or hot and not stored with code 0: its block takes the code of R341, a hot
line's code 0 (R342), and the slots it takes. DEDUCED: log 25. -/
def writeBack (m : List Host.Cell) (x : L2Line) (k : Cache) : Cache × Nat :=
  if x.dirty || (x.filled && x.mark) || (x.hot && tabGet 0 x.line k.code != 0) then
    let code := if x.mark && !x.hot then encodeLine m (128 * x.line) else 0
    ({ k with code := tabSet x.line code k.code }, slotsOf code)
  else (k, 0)

/-- The way an L2 set gives up: one marked evict-first, else the least recently used (R334). DESIGN CHOICE: log 25. -/
def victim (ls : List L2Line) : Option L2Line :=
  match ls.reverse.find? (·.evict) with
  | some x => some x
  | none => ls.getLast?

/-- Lines of a die's remote-data cache: 16 MiB (R1). -/
def rdcRoom : Nat := 2 ^ 24 / 128

/-- A remote-data cache with room for a line: full, it gives up a line marked evict-first, or else the one reached longest ago.
DESIGN CHOICE: log 25. -/
def rdcMakeRoom (ls : List (Nat × Bool)) : List (Nat × Bool) :=
  if ls.length < rdcRoom then ls
  else match ls.reverse.find? (·.2) with
    | some x => ls.filter (· != x)
    | none => ls.dropLast

/-- A load served by the remote-data cache of die `d`, or that fills it (R336, R339). -/
def rdcLoad (d line : Nat) (t : Touch) (k : Cache) : Cache :=
  let ls := tabGet [] d k.rdc
  let ls' := match ls.find? (·.1 == line) with
    | some (_, e) =>
      if t.na && !t.evf then ls else (line, e || t.evf) :: ls.filter (·.1 != line)
    | none => if t.na then ls else (line, t.evf) :: rdcMakeRoom ls
  { k with rdc := tabSet d ls' k.rdc }

/-- Does the remote-data cache of die `d` hold a line? -/
def rdcHolds (d line : Nat) (k : Cache) : Bool := (tabGet [] d k.rdc).any (·.1 == line)

/-- Die `d`'s copy of a line is gone from its remote-data cache (R199, R338). -/
def rdcDrop (d line : Nat) (k : Cache) : Cache :=
  { k with rdc := tabSet d ((tabGet [] d k.rdc).filter (·.1 != line)) k.rdc }

/-- Every copy of a line is gone from the remote-data caches, and the line has no sharers (R337). -/
def rdcInvalidate (line : Nat) (k : Cache) : Cache :=
  { k with sharers := tabDel line k.sharers, rdc := tabMap (fun _ ls => ls.filter (·.1 != line)) k.rdc }

/-- One access at the home slice of an HBM line: the L2 set after it, and the slots it takes on HBM (R334 to R342). -/
def touchHome (m : List Host.Cell) (now a : Nat) (t : Touch) (k : Cache) : Cache × Nat :=
  let line := a / 128
  let key := setKey a
  let ls := tabGet [] key k.l2
  match ls.find? (·.line == line) with
  | some x =>
    let x' := { x with dirty := x.dirty || t.write, evict := x.evict || t.evf || (t.na && t.write),
                       mark := x.mark || (t.cmp && t.write), hot := x.hot || (t.atomic && (x.mark || t.cmp)), last := now }
    let others := ls.filter (·.line != line)
    let keepPlace := t.na && !t.write && !t.evf
    let ls' := if keepPlace then ls.map (fun y => if y.line == line then x' else y) else x' :: others
    ({ k with l2 := tabSet key ls' k.l2 }, 0)
  | none =>
    let code := tabGet 0 line k.code
    if t.na then
      if t.write then ({ k with code := tabSet line 0 k.code }, 2) else (k, slotsOf code)
    else
      let (k, ls, cost) :=
        if ls.length < 12 then (k, ls, 0)
        else match victim ls with
          | some v => let (k, n) := writeBack m v k; (k, ls.filter (·.line != v.line), n)
          | none => (k, ls, 0)
      let mark := code != 0 || t.cmp
      let x := { line := line, dirty := t.write, filled := true, evict := t.evf, mark := mark, hot := t.atomic && mark, last := now }
      ({ k with l2 := tabSet key (x :: ls) k.l2 }, cost + slotsOf code)

/-- One access of an agent of die `d` to the line of an HBM address. A load of a remote line that the die's remote-data cache holds goes
no further; one that it does not hold is fetched from the home slice, which notes the die as a sharer; the hints act at the remote-data cache. A write takes every copy away, and an
indivisible access is performed at the home slice (R335 to R337). -/
def touchHbm (m : List Host.Cell) (now d a : Nat) (t : Touch) (k : Cache) : Cache × Nat :=
  let line := a / 128
  if t.write then touchHome m now a t (rdcInvalidate line k)
  else if d == a / 2 ^ 36 || t.atomic then touchHome m now a t k
  else if rdcHolds d line k then (rdcLoad d line t k, 0)
  else
    let k := if t.na then k else
      { rdcLoad d line t k with sharers := tabSet line (tabGet 0 line k.sharers ||| BitVec.ofNat 8 (2 ^ d)) k.sharers }
    touchHome m now a { t with na := false, evf := false } k

/-- One access of an agent of die `d` to a physical address: the caches after it and the HBM slots it takes.
DESIGN CHOICE: log 25. -/
def touchCache (m : List Host.Cell) (now d a : Nat) (t : Touch) (k : Cache) : Cache × Nat :=
  match windowOf a with
  | .hbm _ => touchHbm m now d a t k
  | .host => (if t.write then rdcDrop d (a / 128) k else if t.atomic then k else rdcLoad d (a / 128) t k, 0)
  | _ => (k, 0)

/-- `clean` of a line: written back when dirty, and kept (R199). -/
def cleanLine (m : List Host.Cell) (a : Nat) (k : Cache) : Cache :=
  let line := a / 128
  let key := setKey a
  match (tabGet [] key k.l2).find? (·.line == line) with
  | some x =>
    let (k, _) := if x.dirty then writeBack m x k else (k, 0)
    { k with l2 := tabSet key ((tabGet [] key k.l2).map fun y =>
        if y.line == line && y.dirty then { y with dirty := false, filled := false } else y) k.l2 }
  | none => k

/-- `flush` of a line by an agent of die `d`: cleaned, then gone from the die's caches (R199). -/
def flushLine (m : List Host.Cell) (d a : Nat) (k : Cache) : Cache :=
  let line := a / 128
  let k := match windowOf a with
    | .hbm _ => let k := cleanLine m a k
                { k with l2 := tabSet (setKey a) ((tabGet [] (setKey a) k.l2).filter fun y => !(y.line == line && d == a / 2 ^ 36)) k.l2 }
    | _ => k
  rdcDrop d line k

/-- The node a key names, with no limits when none is tracked. DEDUCED: log 44. -/
def World.node (w : World) (k : Nat) : Node := tabGet Node.free k w.nodes

/-- A node with `n` units of activity `b` more (R141): 0 `MTC`, 1 `FHF`, 2 `MSL`, 3 `CXB`. -/
def Node.charge (x : Node) (b n : Nat) : Node := { x with cnt := listSet x.cnt b (x.cnt.getD b 0 + n) }

/-- Has a node's counter reached its budget (R141)? 0xFFFF_FFFF is no limit. -/
def Node.full (x : Node) (b : Nat) : Bool := x.lim.getD b 0 != 0xFFFFFFFF && decide (x.lim.getD b 0 ≤ x.cnt.getD b 0)

/-- The units of activity `b` that a node has counted (R141). -/
def Node.count (x : Node) (b : Nat) : Nat := x.cnt.getD b 0

/-- The nodes of a task's path. -/
def World.pathOf (w : World) : Option Nat → List Nat
  | some k => match w.tasks.find? (·.1 == k) with
    | some (_, x) => x.path
    | none => []
  | none => []

/-- Charge activity of a task to every node of its path and to the module node (R141). -/
def World.charge (w : World) (task : Option Nat) (b n : Nat) : World :=
  if n = 0 then w
  else
    { w with nodes := (w.pathOf task).foldl (fun t k => tabSet k ((tabGet Node.free k t).charge b n) t) w.nodes
             moduleNode := w.moduleNode.charge b n }

/-- Would going on from `a` to `b` use a memory slot or a CXL byte that is not admitted: charge it to a node, or to the module node,
that had reached its budget by `base` (R141)? -/
def World.overrun (base a b : World) : Bool :=
  !(decide (b.nodes = a.nodes) && decide (b.moduleNode = a.moduleNode)) &&
  [2, 3].any fun i =>
    (base.moduleNode.full i && decide (a.moduleNode.count i < b.moduleNode.count i)) ||
    b.nodes.any fun (k, x) => (base.node k).full i && decide ((a.node k).count i < x.count i)

/-- A step whose accesses wait, whole, while a budget that they are charged to has been reached (R141). DEDUCED: log 45. -/
def budgeted (f : World → World) (w : World) : World := if w.overrun w (f w) then w else f w

/-- Is a unit of activity of a task admitted (R141)? -/
def World.admitted (w : World) (task : Option Nat) (b : Nat) : Bool :=
  (w.pathOf task).all (fun k => !(w.node k).full b) && !w.moduleNode.full b

/-- Does the remote-data cache of die `d` serve an access to the line at address `a` (R336)? -/
def World.near (w : World) (d a : Nat) (t : Touch) : Bool := !t.write && !t.atomic && rdcHolds d (a / 128) w.cache

/-- The machine after an agent of die `d` has reached the line at address `a` of HBM, host or peer memory: the caches, and the HBM slots it
took. A die in retention that holds the line returns to serve it (R295). -/
def World.reach (w : World) (d a : Nat) (t : Touch) : World × Nat :=
  let (k, slots) := touchCache w.mem w.cycle d a t w.cache
  let dies := match windowOf a with
    | .hbm h => if !w.near d a t && (w.die h).retention then tabSet h { w.die h with retention := false } w.dies else w.dies
    | _ => w.dies
  ({ w with cache := k, dies := dies }, slots)

/-- An access of `n` bytes to one line: what it reaches, with the HBM slots and CXL bytes charged to the task that it works for (R141,
R341). -/
def World.touchLine (w : World) (d : Nat) (task : Option Nat) (t : Touch) (pa n : Nat) : World :=
  let a := homeOf w pa
  let (w', slots) := w.reach d a t
  let cxl := match windowOf a with
    | .host | .peer .. => if w.near d a t then 0 else n
    | _ => 0
  (w'.charge task 2 slots).charge task 3 cxl

/-- The parts of an access of `n` bytes at `pa`, one for each 128-byte line. -/
def linesOf (pa n : Nat) : List (Nat × Nat) :=
  (List.range ((pa % 128 + n + 127) / 128)).map fun i =>
    let a := max pa (pa / 128 * 128 + 128 * i)
    (a, min (pa + n) (pa / 128 * 128 + 128 * i + 128) - a)

/-- The machine after an agent of die `d` working for `task` has touched the lines of an access of `n` bytes at `pa` (R334 to R342). -/
def World.touch (w : World) (d : Nat) (task : Option Nat) (pa n : Nat) (t : Touch) : World :=
  (linesOf pa n).foldl (fun w p => w.touchLine d task t p.1 p.2) w

/-! ### Translation -/

/-- The kinds of access that permissions tell apart (R254); a chain access asks as an atomic does. -/
inductive Acc where
  | load
  | store
  | atomic
  | chain
  deriving DecidableEq, Repr

/-- The `ACC` field of a fault record (R261). -/
def Acc.code : Acc → Nat
  | .load => 0
  | .store => 1
  | .atomic => 2
  | .chain => 3

/-- Is a memory fault's kind an uncorrectable error (R264)? -/
def poisonKind (kind : Nat) : Bool := kind == 5 || kind == 6

/-- Why a translation or an access failed: `FKIND`, `LVL` and `FPA` of the record, and the lowest faulting byte (R261). -/
structure MemFault where
  kind : Nat
  lvl : Nat
  fpa : Nat
  va : Nat
  deriving DecidableEq, Repr

/-- A table entry's leaf fields (R252). -/
structure Leaf where
  size : PageSize
  pa : Nat
  ch : Bool
  cmp : Bool
  u : Bool
  w : Bool
  r : Bool
  deriving DecidableEq, Repr

/-- Does an entry that is valid break the rules of R253 at its level (0 top, 1 middle, 2 leaf)? -/
def pteMalformed (lvl e : Nat) : Bool :=
  bits e 63 52 != 0 || bits e 16 7 != 0 || (bit e 1 && lvl == 0) || (!bit e 1 && lvl == 2)
    || (!bit e 1 && bits e 6 2 != 0) || (bit e 3 && !bit e 2)
    || (bit e 1 && lvl == 1 && bits e 30 17 != 0)

/-- The leaf an entry gives. -/
def leafOf (size : PageSize) (e : Nat) : Leaf :=
  { size := size, pa := bits e 51 17 * 2 ^ 17, ch := bit e 6, cmp := bit e 5, u := bit e 4, w := bit e 3, r := bit e 2 }

/-- Read a table entry: a physical load, coherent with every cache (R256). An unserved address is an error response,
a poisoned granule an uncorrectable error on a table read (R261, R264). -/
def readPte (w : World) (who : Reach) (lvl va pa : Nat) : Except MemFault Nat :=
  let eng := match who with
    | .word c | .copy c | .engine c | .ctrl c => Reach.engine c
    | .dieAgent d => .dieAgent d
  if !served w eng pa then .error { kind := 7, lvl := lvl, fpa := pa, va := va }
  else if poisoned w pa then .error { kind := 6, lvl := lvl, fpa := pa, va := va }
  else .ok (numAt w.mem (homeOf w pa) 8)

/-- One level of a walk: the next table's address, or a leaf (R253). -/
def walkLevel (w : World) (who : Reach) (lvl va pa : Nat) : Except MemFault Nat := do
  let e ← readPte w who lvl va pa
  if !bit e 0 then .error { kind := 4, lvl := lvl, fpa := 0, va := va }
  else if pteMalformed lvl e then .error { kind := 2, lvl := lvl, fpa := 0, va := va }
  else .ok e

/-- Are all 128 entries of a group valid with `CH` set (R255)? -/
def groupWhole (w : World) (who : Reach) (va pa : Nat) : Except MemFault Bool :=
  (List.range 128).foldlM (fun ok i => do
    let e ← readPte w who 2 va (pa + 8 * i)
    pure (ok && bit e 0 && bit e 6)) true

/-- Walk the tables for `va` (R251, R253). -/
def walk (w : World) (who : Reach) (sp : Space) (va : Nat) : Except MemFault TlbEntry := do
  if 2 ^ 57 ≤ va then .error { kind := 1, lvl := 3, fpa := 0, va := va }
  else
    let e0 ← walkLevel w who 0 va (sp.ptb + 8 * bits va 56 45)
    let e1 ← walkLevel w who 1 va (bits e0 51 17 * 2 ^ 17 + 8 * bits va 44 31)
    if bit e1 1 then
      let l := leafOf .gib2 e1
      .ok { asid := sp.asid, size := .gib2, va := va / 2 ^ 31 * 2 ^ 31, pa := l.pa, cmp := l.cmp, u := l.u, w := l.w, r := l.r }
    else
      let tbl := bits e1 51 17 * 2 ^ 17
      let e2 ← walkLevel w who 2 va (tbl + 8 * bits va 30 17)
      let l := leafOf .kib128 e2
      if !l.ch then
        .ok { asid := sp.asid, size := .kib128, va := va / 2 ^ 17 * 2 ^ 17, pa := l.pa, cmp := l.cmp, u := l.u, w := l.w, r := l.r }
      else
        let grp := tbl + 8 * (bits va 30 17 / 128 * 128)
        let f ← readPte w who 2 va grp
        if !bit f 0 || pteMalformed 2 f || bits f 23 17 != 0 then .error { kind := 2, lvl := 2, fpa := 0, va := va }
        else
          let g := leafOf .kib128 f
          let whole ← groupWhole w who va grp
          if whole then
            .ok { asid := sp.asid, size := .mib16, va := va / 2 ^ 24 * 2 ^ 24, pa := g.pa, cmp := g.cmp, u := g.u, w := g.w, r := g.r }
          else
            .ok { asid := sp.asid, size := .kib128, va := va / 2 ^ 17 * 2 ^ 17, pa := g.pa + bits va 23 17 * 2 ^ 17
                  cmp := g.cmp, u := g.u, w := g.w, r := g.r }

/-- The physical addresses that a walk reads, as far as it goes: an entry at each level, and the group of 128 entries, by line (R253, R255). -/
def walkReads (w : World) (sp : Space) (va : Nat) : List Nat :=
  let entry (pa : Nat) : Nat := numAt w.mem (homeOf w pa) 8
  let next (e : Nat) : Bool := bit e 0 && !bit e 1
  let a0 := sp.ptb + 8 * bits va 56 45
  let a1 := bits (entry a0) 51 17 * 2 ^ 17 + 8 * bits va 44 31
  let a2 := bits (entry a1) 51 17 * 2 ^ 17 + 8 * bits va 30 17
  if 2 ^ 57 ≤ va then []
  else if !next (entry a0) then [a0]
  else if !next (entry a1) then [a0, a1]
  else if !(bit (entry a2) 0 && bit (entry a2) 6) then [a0, a1, a2]
  else [a0, a1, a2] ++ (List.range 8).map fun i => a2 / 1024 * 1024 + 128 * i

/-- The machine after a walk for an agent of die `d`: its reads are physical loads like any other, which a die in retention returns to
serve (R256, R295, R334, R336), and charged to no task. DEDUCED: log 45. -/
def walkReach (w : World) (d : Nat) (sp : Space) (va : Nat) : World :=
  (walkReads w sp va).foldl (fun w pa => (w.reach d (homeOf w pa) Touch.load).1) w

/-- Bytes of a page. -/
def PageSize.bytes : PageSize → Nat
  | .kib128 => 2 ^ 17
  | .mib16 => 2 ^ 24
  | .gib2 => 2 ^ 31

/-- Does a TLB entry hold the translation of `va` under `asid` (R255)? -/
def TlbEntry.hits (e : TlbEntry) (asid va : Nat) : Bool :=
  e.asid == asid && decide (e.va ≤ va ∧ va < e.va + e.size.bytes)

/-- Look an agent's TLBs up: the core's for an agent of a core, then the die's (R255). -/
def tlbLookup (w : World) (who : Reach) (asid va : Nat) : Option TlbEntry :=
  let coreHit := match who.tlbCore with
    | some c => (tabGet [] c w.cache.tlb).find? (·.hits asid va)
    | none => none
  match coreHit with
  | some e => some e
  | none => (tabGet [] who.die w.cache.dieTlb).find? (·.hits asid va)

/-- Keep a translation in an agent's TLBs: newest first, 64 entries in a core's and 8,192 in a die's (R255).
DESIGN CHOICE: log 22. -/
def tlbFill (w : World) (who : Reach) (e : TlbEntry) : World :=
  let put (n : Nat) (l : List TlbEntry) := if l.contains e then l else (e :: l).take n
  let k := w.cache
  let k := match who.tlbCore with
    | some c => { k with tlb := tabSet c (put 64 (tabGet [] c k.tlb)) k.tlb }
    | none => k
  { w with cache := { k with dieTlb := tabSet who.die (put 8192 (tabGet [] who.die k.dieTlb)) k.dieTlb } }

/-- The next access of address space `asid` by an agent of core `c`, or of its die, takes a new walk (R263). What else the core's and the die's
TLB hold of the space goes with it. DESIGN CHOICE: log 22. -/
def walkAnew (w : World) (c asid : Nat) : World :=
  let drop (k : Nat) (t : Tab (List TlbEntry)) : Tab (List TlbEntry) :=
    tabMap (fun i (l : List TlbEntry) => if i = k then l.filter (·.asid != asid) else l) t
  { w with cache := { w.cache with tlb := drop c w.cache.tlb, dieTlb := drop (dieOf c) w.cache.dieTlb } }

/-- Does the entry allow the access in this mode (R254)? -/
def allowed (e : TlbEntry) (sp : Space) (acc : Acc) : Bool :=
  (match acc with
   | .load => e.r
   | .store => e.w
   | .atomic | .chain => e.r && e.w) && (!sp.user || e.u)

/-- Translate a virtual address outside the local window: the machine with its TLBs filled, and the physical address
with the page's `CMP`, or the fault (R251 to R255). -/
def translate (w : World) (who : Reach) (sp : Space) (acc : Acc) (va : Nat) : World × Except MemFault (Nat × Bool) :=
  let fin (w : World) (e : TlbEntry) : World × Except MemFault (Nat × Bool) :=
    if allowed e sp acc then (w, .ok (e.pa + (va - e.va), e.cmp))
    else (w, .error { kind := 3, lvl := 3, fpa := 0, va := va })
  match tlbLookup w who sp.asid va with
  | some e => fin (tlbFill w who e) e
  | none =>
    let w := walkReach w who.die sp va
    match walk w who sp va with
    | .ok e => fin (tlbFill w who e) e
    | .error f => (w, .error f)

/-- The first address of the local window (R196, R331). -/
def localBase : Nat := 0x01FFFFFFFFC00000

/-- Does an address lie in the local window (R196)? -/
def isLocal (va : Nat) : Bool := decide (localBase ≤ va ∧ va < 2 ^ 57)

/-- The physical address of an access by an agent: the local window of its core untranslated, else the tables. An
agent of no core has no local window, and no table maps that range (R331): nothing answers it there. DESIGN CHOICE: log 22. -/
def locate (w : World) (who : Reach) (sp : Space) (acc : Acc) (va : Nat) : World × Except MemFault (Nat × Bool) :=
  match who.core with
  | some c =>
    if isLocal va then (w, .ok (coreMemBase + c * 2 ^ 22 + (va - localBase), false)) else translate w who sp acc va
  | none => if isLocal va then (w, .error { kind := 7, lvl := 3, fpa := 0, va := va }) else translate w who sp acc va

end Sys2Proof.Machine
end

