-- ==== Sys2Proof/Machine/Fault.lean ====
section
/-! DEFINITION. Fault records, the ring of the receiving thread, and the events they raise (R258 to R264). -/

namespace Sys2Proof.Machine

/-- The layout of `cid` for a core number (R215). -/
def cidLayout (c : Nat) : Nat := (c % 40 / 8) * 16 + c % 8

/-- The 64 bytes of a record (R261). -/
def FaultRec.bytes (r : FaultRec) : List Byte :=
  leBytes 4 (r.kind * 2 ^ 28 + r.lvl * 2 ^ 26 + r.acc * 2 ^ 23 + r.szl * 2 ^ 20 + r.agt * 2 ^ 16
    + (if r.sup then 2 ^ 15 else 0) + r.ecode)
  ++ leBytes 4 r.asid ++ leBytes 8 r.fva
  ++ leBytes 4 (r.rgn * 2 ^ 24 + r.strm * 2 ^ 16 + (dieOf r.core) * 2 ^ 8 + cidLayout r.core)
  ++ leBytes 4 r.unit ++ leBytes 8 r.ord ++ leBytes 4 r.nstl ++ leBytes 4 0 ++ leBytes 8 r.fpa
  ++ leBytes 8 0 ++ leBytes 8 0

/-- The record of a memory fault of a node (R261); the node fills in what names it. DEDUCED: log 23, 24. -/
def faultRecord (c : Nat) (sp : Space) (acc szl agt : Nat) (f : MemFault) : FaultRec :=
  { kind := f.kind, lvl := f.lvl, acc := acc, szl := szl, agt := agt, sup := !sp.user, ecode := 0, asid := sp.asid
    fva := f.va, rgn := 0, strm := 0xFF, core := c, unit := 0, ord := 0, nstl := 1
    fpa := if 5 ≤ f.kind ∧ f.kind ≤ 7 then f.fpa else 0 }

/-- The record of a store of 2^`szl` bytes that poison discarded in part, from its lowest discarded byte: nothing stalls (R264). A store of
256 bytes or more, whose size `SZL` cannot hold, is recorded with the largest that it can. DEDUCED: log 28. -/
def discardRecord (c agt : Nat) (sp : Space) (va pa szl : Nat) : FaultRec :=
  { faultRecord c sp 1 (min 7 szl) agt { kind := 5, lvl := 3, fpa := pa, va := va } with nstl := 0 }

/-- The bits of an address field of a CSR. -/
def Thread.ringBase (th : Thread) : Nat := th.fltrec.toNat / 4096 * 4096

/-- The mode of a thread (R215). -/
def Thread.sup (th : Thread) : Bool := th.tstat.getLsbD 1

/-- The space a thread's accesses are translated in (R196, R254). -/
def Thread.space (th : Thread) : Space :=
  { asid := th.asid.toNat % 2 ^ 16, ptb := bits th.ptbase.toNat 51 17 * 2 ^ 17, user := !th.sup }

/-- Events held back (R215). -/
def Thread.evm (th : Thread) : Bool := th.tstat.getLsbD 2

/-- Add an event, oldest first (R259). -/
def Thread.addEvent (th : Thread) (e : Event) : Thread := { th with events := th.events ++ [e] }

/-- Store bytes at a physical address as an agent that never splits poison (R264): whole poisoned granules are
cleaned, and the part of a store that covers a poisoned granule in part is discarded. Answers whether a part was
discarded. -/
def storePhys (w : World) (pa : Nat) : List Byte → World × Bool
  | [] => (w, false)
  | b :: rest =>
    let (w', lost) := storePhys w (pa + 1) rest
    if poisoned w pa then (w', true)
    else ({ w' with mem := setByte w'.mem (homeOf w pa) b }, lost)

/-- A block of bad metadata that a store reaches is written with metadata of its own, and its granules stay poisoned (R341).
DEDUCED: log 25. -/
def renewMeta (w : World) (line : Nat) : World :=
  if tabHas line w.badMeta then
    { w with badMeta := tabDel line w.badMeta, poison := (List.range 4).foldl (fun p i => tabSet (4 * line + i) () p) w.poison }
  else w

/-- The granules that a store of `n` bytes from `pa` covers whole lose their poison before it (R264). -/
def cleanPoison (w : World) (pa n : Nat) : World :=
  let a := homeOf w pa
  let first := (a + 31) / 32
  let count := (a + n) / 32 - first
  let w := if w.badMeta.isEmpty then w else (linesOf a n).foldl (fun w p => renewMeta w (p.1 / 128)) w
  if w.poison.isEmpty then w
  else { w with poison := (List.range count).foldl (fun p i => tabDel (first + i) p) w.poison }

/-- A store of an agent to served memory: poison handled, caches touched (R264, R337). Answers the lowest byte that was discarded, if
any was. -/
def storeMem (w : World) (who : Reach) (task : Option Nat) (pa : Nat) (t : Touch) (bs : List Byte) : World × Option Nat :=
  let w := cleanPoison w pa bs.length
  let (w', lost) := storePhys w pa bs
  (w'.touch who.die task pa bs.length t, if lost then findUp (fun i => poisoned w (pa + i)) bs.length 0 else none)

/-- Write a record to the ring of thread `t`, count it and raise its event (R262). The ring is translated in the
thread's space with supervisor permission. A write that fails loses the record and sets `RLOST`. It covers whole granules, and so clears
their poison (R264). DEDUCED: log 28. -/
def writeRecord (w : World) (t : Nat) (r : FaultRec) : World × Word :=
  let th := w.thread t
  let cnt := th.fltcnt.toNat % 2 ^ 32
  let va := th.ringBase + 64 * (cnt % 64)
  let who := Reach.engine (coreOf t)
  let (w, loc) := locate w who { th.space with user := false } .store va
  let (w, ok) := match loc with
    | .ok (pa, cmp) =>
      if served w who pa then ((storeMem w who th.task pa { Touch.store with cmp := cmp } r.bytes).1, true)
      else (w, false)
    | .error _ => (w, false)
  let th := w.thread t
  let lostBit := if th.fltcnt.getLsbD 32 || !ok then (2 ^ 32 : Nat) else 0
  (w.setThread t { th with fltcnt := BitVec.ofNat 64 (lostBit + (cnt + 1) % 2 ^ 32) }, BitVec.ofNat 64 va)

/-- Set a thread's event flag (R217). -/
def setFlag (w : World) (t : Nat) : World := w.setThread t { w.thread t with flag := true }

/-- The number of threads; the names from here on are of saved threads (R133, R272). -/
def threadCount : Nat := 1280

/-- Has thread `t` room for an event: it is not saved, and holds fewer than 16 (R262, R275)? -/
def hasRoom (w : World) (t : Nat) : Bool := decide (t < threadCount) && decide ((w.thread t).events.length < 16)

/-- May thread `t` take an event now: it has room, and none waits for it (R259, R262, R275)? DEDUCED: log 34, 36. -/
def canReceive (w : World) (t : Nat) : Bool := hasRoom w t && w.owed.all fun o => o.rcv != t

/-- What is owed reaches its thread: the record, the event and the event flag. -/
def deliver (w : World) (o : Owed) : World :=
  let (w, v) := match o.record with
    | some r => writeRecord w o.rcv r
    | none => (w, o.val)
  let w := w.setThread o.rcv ((w.thread o.rcv).addEvent { code := o.code, val := v })
  if o.flag then setFlag w o.rcv else w

/-- A record and its event reach their thread, or wait until it can take them (R259, R262, R275). DEDUCED: log 34. -/
def send (w : World) (o : Owed) : World := if canReceive w o.rcv then deliver w o else { w with owed := w.owed ++ [o] }

/-- Everything owed whose thread has room by now is delivered, oldest first, but for a record whose write a budget holds (R141, R262,
R275). -/
def deliverOwed (w : World) : World :=
  w.owed.foldl (fun w o =>
    let w' := send w o
    if w.overrun w w' then { w with owed := w.owed ++ [o] } else w') { w with owed := [] }

/-- Raise an event on a thread (R259). -/
def raise (w : World) (t : Nat) (code : Nat) (v : Word) : World :=
  send w { rcv := t, record := none, code := code, val := v, flag := false }

/-- The bits of mstat that commands set in the present cycle, each with its thread and whether an event was raised for it (R312). -/
def setNow (w : World) (c : Nat) : List (Nat × Nat × Bool) :=
  (w.core c).satSets.filterMap fun (i, n, t, r) => if n = w.cycle then some (i, t, r) else none

/-- Write a memory-node fault's record and raise its event (R260); `flag` when the thread's event flag is set with it (R217).
DEDUCED: log 36. -/
def recordAndRaise (w : World) (t : Nat) (r : FaultRec) (flag : Bool) : World :=
  send w { rcv := t, record := some r, code := 0x20 + r.kind, val := 0, flag := flag }

end Sys2Proof.Machine
end

