-- ==== Sys2Proof/Machine/Num.lean ====
section
/-! DEFINITION. The number formats and the exact arithmetic behind them: values, rounding, and the fw32 operations
that the fabric and the control processor share (R92 to R97, R191 to R195, R299 to R309). -/

namespace Sys2Proof.Machine

/-! ### Values -/

/-- An exact value: NaN, an infinity, a signed zero, or ±(m + t) 2^e, where t is 0, or with `sticky` some real between
0 and 1 that decides no rounding but its direction. -/
inductive Val where
  | nan
  | inf (neg : Bool)
  | zero (neg : Bool)
  | fin (neg : Bool) (m : Nat) (e : Int) (sticky : Bool)
  deriving DecidableEq, Repr

/-- The value of a number m 2^e with a sign; 0 is the zero of that sign. -/
def Val.make (neg : Bool) (m : Nat) (e : Int) : Val := if m = 0 then .zero neg else .fin neg m e false

/-- The value of an integer. -/
def Val.ofInt (x : Int) : Val := .make (decide (x < 0)) x.natAbs 0

/-- Flags of a result: NV, DZ, OF, UF, NX in bits 4 to 0 (R92). -/
abbrev Flags := BitVec 5

def fNV : Flags := 0b10000
def fDZ : Flags := 0b01000
def fOF : Flags := 0b00100
def fUF : Flags := 0b00010
def fNX : Flags := 0b00001

/-! ### Rounding -/

/-- Round (m + t) 2^e / 2^q to an integer under `rm` (0 RNE, 1 RTZ, 2 RDN, 3 RUP), and whether it is inexact (R306). -/
def roundQuot (rm : Nat) (neg : Bool) (m : Nat) (e q : Int) (sticky : Bool) : Nat × Bool :=
  if q ≤ e then
    let k := m <<< (e - q).toNat
    let up := sticky && ((rm == 2 && neg) || (rm == 3 && !neg))
    (if up then k + 1 else k, sticky)
  else
    let sh := (q - e).toNat
    let k := m >>> sh
    let r := m % 2 ^ sh
    let half := 2 ^ (sh - 1)
    let inexact := r != 0 || sticky
    let up := match rm with
      | 0 => decide (half < r) || (r == half && (sticky || k % 2 == 1))
      | 2 => neg && inexact
      | 3 => !neg && inexact
      | _ => false
    (if up then k + 1 else k, inexact)

/-- `round_int(x, rm)` of a finite value, and whether it is inexact (R307). -/
def roundInt (rm : Nat) (neg : Bool) (m : Nat) (e : Int) (sticky : Bool) : Int × Bool :=
  let (k, ix) := roundQuot rm neg m e 0 sticky
  (if neg then -(k : Int) else k, ix)

/-- A floating-point format (R301 to R303): significant bits, exponent bias, the encodings of its special values. -/
structure Fmt where
  /-- Fraction bits + 1. -/
  p : Nat
  bias : Int
  /-- Bits of the whole encoding. -/
  width : Nat
  signed : Bool
  /-- Subnormals at exponent field 0 (all but fw32). -/
  sub : Bool
  /-- The binary8 family: one zero, and no encoding space kept for an exponent of all ones. -/
  b8 : Bool
  /-- Largest finite encoding, +inf if the format has infinities, canonical NaN. -/
  maxBits : Nat
  infBits : Option Nat
  nanBits : Nat
  deriving DecidableEq, Repr

def Fmt.bf16 : Fmt := { p := 8, bias := 127, width := 16, signed := true, sub := true, b8 := false
                        maxBits := 0x7F7F, infBits := some 0x7F80, nanBits := 0x7FC0 }
def Fmt.fp16 : Fmt := { p := 11, bias := 15, width := 16, signed := true, sub := true, b8 := false
                        maxBits := 0x7BFF, infBits := some 0x7C00, nanBits := 0x7E00 }
def Fmt.fp32 : Fmt := { p := 24, bias := 127, width := 32, signed := true, sub := true, b8 := false
                        maxBits := 0x7F7FFFFF, infBits := some 0x7F800000, nanBits := 0x7FC00000 }
def Fmt.fw32 : Fmt := { p := 22, bias := 511, width := 32, signed := true, sub := false, b8 := false
                        maxBits := 0x7FDFFFFF, infBits := some 0x7FE00000, nanBits := 0x7FF00000 }

/-- The binary8 format of U, F, PPP (R303). -/
def Fmt.binary8 (u f : Bool) (p : Nat) : Fmt :=
  { p := p, bias := (2 ^ ((if u then 8 else 7) - p) : Nat), width := 8, signed := !u, sub := true, b8 := true
    maxBits := if u then (if f then 0xFE else 0xFD) else (if f then 0x7F else 0x7E)
    infBits := if f then none else some (if u then 0xFE else 0x7F)
    nanBits := if u then 0xFF else 0x80 }

/-- The binary8 format that the five bits U, F, PPP name. -/
def Fmt.ofB8F (b : Nat) : Fmt := .binary8 (bit b 4) (bit b 3) (bits b 2 0)

/-- The exponent of the smallest normal value. -/
def Fmt.emin (f : Fmt) : Int := 1 - f.bias

/-- The sign bit's place. -/
def Fmt.signAt (f : Fmt) : Nat := f.width - 1

/-- The finite magnitude m 2^e that an encoding without its sign holds (R301, R303). -/
def Fmt.magnitude (f : Fmt) (x : Nat) : Nat × Int :=
  let frac := x % 2 ^ (f.p - 1)
  let ef := x / 2 ^ (f.p - 1)
  if ef = 0 then (if f.sub then frac else 0, f.emin - ((f.p : Int) - 1))
  else (frac + 2 ^ (f.p - 1), (ef : Int) - f.bias - ((f.p : Int) - 1))

/-- The value of an encoding (R301 to R303). -/
def Fmt.decode (f : Fmt) (x : Nat) : Val :=
  let x := x % 2 ^ f.width
  let neg := f.signed && bit x f.signAt
  let mag := if f.signed then x % 2 ^ f.signAt else x
  if f.b8 then
    if x = f.nanBits then .nan
    else if f.infBits == some mag then .inf neg
    else let (m, e) := f.magnitude mag; .make neg m e
  else
    let ones := 2 ^ (f.width - f.p) - 1
    if mag / 2 ^ (f.p - 1) = ones then (if mag % 2 ^ (f.p - 1) = 0 then .inf neg else .nan)
    else let (m, e) := f.magnitude mag; .make neg m e

/-- The encoding of ±k 2^q, a representable finite value of magnitude at most the largest. -/
def Fmt.encode (f : Fmt) (neg : Bool) (k : Nat) (q : Int) : Nat :=
  let sgn := if neg && f.signed then 2 ^ f.signAt else 0
  if k = 0 then (if f.b8 then 0 else sgn)
  else
    let l := Nat.log2 k
    let e := (l : Int) + q
    if e < f.emin then
      let frac := (k <<< (q - (f.emin - ((f.p : Int) - 1))).toNat)
      sgn + frac
    else
      let n := if l ≤ f.p - 1 then k <<< (f.p - 1 - l) else k >>> (l - (f.p - 1))
      sgn + (e + f.bias).toNat * 2 ^ (f.p - 1) + (n - 2 ^ (f.p - 1))

/-- Is k 2^q above the format's largest finite value? -/
def Fmt.over (f : Fmt) (k : Nat) (q : Int) : Bool :=
  let (m, e) := f.magnitude f.maxBits
  if q ≤ e then decide (m <<< (e - q).toNat < k) else decide (m < k <<< (q - e).toNat)

/-- The result of an overflow (R195). -/
def Fmt.overflow (f : Fmt) (rm : Nat) (neg : Bool) : Nat :=
  let sgn := if neg then 2 ^ f.signAt else 0
  match f.infBits with
  | none => sgn + f.maxBits
  | some inf =>
    let toMax := match rm with
      | 1 => true
      | 2 => !neg
      | 3 => neg
      | _ => false
    sgn + if toMax then f.maxBits else inf

/-- `round_to(x, F, rm)`: the encoding and the flags (R194, R195, R306). A value below the least normal number that rounds up to it
raises UF. DEDUCED: log 114. -/
def roundTo (v : Val) (f : Fmt) (rm : Nat) : Nat × Flags :=
  match v with
  | .nan => (f.nanBits, 0)
  | .inf neg =>
    if neg && !f.signed then (0, fNV)
    else match f.infBits with
      | none => ((if neg then 2 ^ f.signAt else 0) + f.maxBits, fOF ||| fNX)
      | some i => ((if neg then 2 ^ f.signAt else 0) + i, 0)
  | .zero neg => (f.encode neg 0 0, 0)
  | .fin neg m e sticky =>
    if neg && !f.signed then (0, fNV)
    else
      let top := (Nat.log2 m : Int) + e
      let q := (if f.sub then max top f.emin else top) - ((f.p : Int) - 1)
      let (k, ix) := roundQuot rm neg m e q sticky
      if f.over k q then (f.overflow rm neg, fOF ||| fNX)
      else if !f.sub && decide ((Nat.log2 k : Int) + q < f.emin) then (f.encode neg 0 0, fUF ||| fNX)
      else (f.encode neg k q, if ix then (if top < f.emin then fUF ||| fNX else fNX) else 0)

/-- `round_fw(x, rm)` (R306). -/
def roundFw (v : Val) (rm : Nat) : W32 × Flags :=
  let (x, fl) := roundTo v .fw32 rm
  (BitVec.ofNat 32 x, fl)

/-- The value of a fw32 encoding; exponent 0 is a zero of its sign (R92, R302). -/
def fw (x : W32) : Val := Fmt.fw32.decode x.toNat

/-- The canonical fw32 NaN (R92). -/
def fwNaN : W32 := 0x7FF00000

/-- Is a fw32 encoding a NaN? -/
def isNaN (x : W32) : Bool := fw x == .nan

/-! ### Exact arithmetic -/

/-- The signed integer of a finite value over 2^e₀, for e₀ at most its exponent. -/
def scaled (neg : Bool) (m : Nat) (e e₀ : Int) : Int :=
  let k := m <<< (e - e₀).toNat
  if neg then -(k : Int) else k

/-- The exact sum, and its flags; an exact zero sum of opposite signs is +0, or −0 under RDN (R93). -/
def addVal (rm : Nat) (a b : Val) : Val × Flags :=
  match a, b with
  | .nan, _ => (.nan, 0)
  | _, .nan => (.nan, 0)
  | .inf s, .inf t => if s = t then (.inf s, 0) else (.nan, fNV)
  | .inf s, _ => (.inf s, 0)
  | _, .inf t => (.inf t, 0)
  | .zero s, .zero t => (.zero (if s = t then s else rm == 2), 0)
  | .zero _, y => (y, 0)
  | x, .zero _ => (x, 0)
  | .fin s m e _, .fin t n f _ =>
    let e₀ := min e f
    let x := scaled s m e e₀ + scaled t n f e₀
    if x = 0 then (.zero (rm == 2), 0) else (.fin (decide (x < 0)) x.natAbs e₀ false, 0)

/-- The value with its sign changed. -/
def negVal : Val → Val
  | .nan => .nan
  | .inf s => .inf (!s)
  | .zero s => .zero (!s)
  | .fin s m e t => .fin (!s) m e t

/-- The exact product, and its flags (R93). -/
def mulVal (a b : Val) : Val × Flags :=
  match a, b with
  | .nan, _ => (.nan, 0)
  | _, .nan => (.nan, 0)
  | .inf s, .inf t => (.inf (s != t), 0)
  | .inf _, .zero _ => (.nan, fNV)
  | .zero _, .inf _ => (.nan, fNV)
  | .inf s, .fin t .. => (.inf (s != t), 0)
  | .fin s .., .inf t => (.inf (s != t), 0)
  | .zero s, .zero t => (.zero (s != t), 0)
  | .zero s, .fin t .. => (.zero (s != t), 0)
  | .fin s .., .zero t => (.zero (s != t), 0)
  | .fin s m e _, .fin t n f _ => (.fin (s != t) (m * n) (e + f) false, 0)

/-- Sign, then magnitude: is a below b? NaN never is. -/
def ltVal (a b : Val) : Bool :=
  match a, b with
  | .nan, _ => false
  | _, .nan => false
  | .inf s, .inf t => s && !t
  | .inf s, _ => s
  | _, .inf t => !t
  | .zero _, .zero _ => false
  | .zero _, .fin t .. => !t
  | .fin s .., .zero _ => s
  | .fin s m e _, .fin t n f _ => let e₀ := min e f; decide (scaled s m e e₀ < scaled t n f e₀)

/-- Equality of values, +0 equal to −0; NaN equals nothing (R94). -/
def eqVal (a b : Val) : Bool :=
  match a, b with
  | .nan, _ => false
  | _, .nan => false
  | a, b => !ltVal a b && !ltVal b a

/-! ### fw32 operations (R93 to R97) -/

/-- a + b (R93). -/
def fwAdd (rm : Nat) (a b : W32) : W32 × Flags :=
  let (v, f) := addVal rm (fw a) (fw b)
  let (x, g) := roundFw v rm
  (x, f ||| g)

/-- a − b (R93). -/
def fwSub (rm : Nat) (a b : W32) : W32 × Flags :=
  let (v, f) := addVal rm (fw a) (negVal (fw b))
  let (x, g) := roundFw v rm
  (x, f ||| g)

/-- a b (R93). -/
def fwMul (rm : Nat) (a b : W32) : W32 × Flags :=
  let (v, f) := mulVal (fw a) (fw b)
  let (x, g) := roundFw v rm
  (x, f ||| g)

/-- a b + c with one rounding; zero times infinity is invalid even when c is NaN (R93). -/
def fwFma (rm : Nat) (a b c : W32) : W32 × Flags :=
  let (v, f) := mulVal (fw a) (fw b)
  if f != 0 then (fwNaN, f)
  else
    let (v, f) := addVal rm v (fw c)
    let (x, g) := roundFw v rm
    (x, f ||| g)

/-- Is a below b, with −0 below +0 (R94)? -/
def ltSigned (a b : Val) : Bool :=
  match a, b with
  | .zero s, .zero t => s && !t
  | a, b => ltVal a b

/-- The lesser value (R94): a NaN gives way to the other operand, and the chosen operand's bits are returned. -/
def fwMin (a b : W32) : W32 :=
  if isNaN a then (if isNaN b then fwNaN else b)
  else if isNaN b then a
  else if ltSigned (fw b) (fw a) then b else a

/-- The greater value (R94). -/
def fwMax (a b : W32) : W32 :=
  if isNaN a then (if isNaN b then fwNaN else b)
  else if isNaN b then a
  else if ltSigned (fw a) (fw b) then b else a

/-- a with bit 31 cleared; a NaN gives the canonical NaN (R94). -/
def fwAbs (a : W32) : W32 := if isNaN a then fwNaN else a &&& 0x7FFFFFFF

/-- a with bit 31 inverted; a NaN gives the canonical NaN (R94). -/
def fwNeg (a : W32) : W32 := if isNaN a then fwNaN else a ^^^ 0x80000000

/-- The bit of fceq (R94). -/
def fwEq (a b : W32) : Bool := eqVal (fw a) (fw b)

/-- The bit of fclt, and NV on a NaN (R94). -/
def fwLt (a b : W32) : Bool × Flags := (ltVal (fw a) (fw b), if isNaN a || isNaN b then fNV else 0)

/-- The bit of fcle, and NV on a NaN (R190). -/
def fwLe (a b : W32) : Bool × Flags :=
  (ltVal (fw a) (fw b) || eqVal (fw a) (fw b), if isNaN a || isNaN b then fNV else 0)

/-- a 2^n; a zero or infinite a is returned unchanged (R96, R190). Past 2^4096 every result is the same one. -/
def fwScale (rm : Nat) (a : W32) (n : Int) : W32 × Flags :=
  match fw a with
  | .nan => (fwNaN, 0)
  | .inf _ | .zero _ => (a, 0)
  | .fin s m e t => roundFw (.fin s m (e + max (-4096) (min 4096 n)) t) rm

/-- The unbiased exponent of a, as an i32 (R96). -/
def fwExp (a : W32) : W32 :=
  match fw a with
  | .nan | .inf _ => 0x7FFFFFFF
  | .zero _ => 0x80000000
  | .fin .. => BitVec.ofInt 32 ((bits a.toNat 30 21 : Int) - 511)

/-- Conversion to an integer of the range lo to hi under rm (R97, R191). -/
def fwToInt (rm : Nat) (lo hi : Int) (a : W32) : Int × Flags :=
  match fw a with
  | .nan => (0, fNV)
  | .inf s => (if s then lo else hi, fNV)
  | .zero _ => (0, 0)
  | .fin s m e t =>
    let (k, ix) := roundInt rm s m e t
    if k < lo then (lo, fNV) else if hi < k then (hi, fNV) else (k, if ix then fNX else 0)

/-- The largest power of two whose square is at most n, for the square root. -/
def isqrtStep (n : Nat) : Nat → Nat → Nat
  | 0, r => r
  | b + 1, r => let r' := r + 2 ^ b; isqrtStep n b (if r' * r' ≤ n then r' else r)

/-- The integer square root. -/
def isqrt (n : Nat) : Nat := isqrtStep n (Nat.log2 n / 2 + 1) 0

/-- 1 / ((m) 2^e), with at least 60 bits and a sticky bit. -/
def recip (neg : Bool) (m : Nat) (e : Int) : Val :=
  let k := Nat.log2 m + 60
  let q := 2 ^ k / m
  .fin neg q (-(k : Int) - e) (2 ^ k % m != 0)

/-- 1/a (R95). -/
def fwRcp (rm : Nat) (a : W32) : W32 × Flags :=
  match fw a with
  | .nan => (fwNaN, 0)
  | .inf s => roundFw (.zero s) rm
  | .zero s => ((roundFw (.inf s) rm).1, fDZ)
  | .fin s m e _ => roundFw (recip s m e) rm

/-- 1/√(m 2^e), with at least 60 bits and a sticky bit. -/
def recipSqrt (m : Nat) (e : Int) : Val :=
  let odd := e % 2 = 1
  let m' := if odd then 2 * m else m
  let e' := if odd then e - 1 else e
  let k := Nat.log2 m' + 60
  let r := isqrt (2 ^ (2 * k) / m')
  .fin false r (-(k : Int) - e' / 2) (r * r * m' != 2 ^ (2 * k))

/-- 1/√a (R95). -/
def fwRsq (rm : Nat) (a : W32) : W32 × Flags :=
  match fw a with
  | .nan => (fwNaN, 0)
  | .inf true => (fwNaN, fNV)
  | .inf false => roundFw (.zero false) rm
  | .zero s => ((roundFw (.inf s) rm).1, fDZ)
  | .fin true .. => (fwNaN, fNV)
  | .fin false m e _ => roundFw (recipSqrt m e) rm

/-- The product of the numbers 2^(2^-i) over the set bits of a fraction, most significant first, in fixed point of
`pr` bits: `root` is 2^(2^-i) for the bit in hand. -/
def exp2Bits (pr : Nat) : Nat → Nat → Nat → Nat → Nat
  | 0, _, _, acc => acc
  | n + 1, f, root, acc =>
    let root' := isqrt (root * 2 ^ pr)
    exp2Bits pr n f root' (if bit f n then acc * root' / 2 ^ pr else acc)

/-- 2^a (R95): exact for an integer a, else the product over the bits of its fraction to 192 bits. DEDUCED: log 18. -/
def exp2Val (neg : Bool) (m : Nat) (e : Int) : Val :=
  let top := (Nat.log2 m : Int) + e
  if 20 ≤ top then .fin false 1 (if neg then -2 ^ 20 else 2 ^ 20) false
  else if top < -160 then
    (if neg then .fin false (2 ^ 61 - 1) (-61) true else .fin false (2 ^ 60) (-60) true)
  else
    let fx := scaled neg m (e + 192) 0
    let x := if e + 192 < 0 then (scaled neg (m >>> (-(e + 192)).toNat) 0 0) else fx
    let n := x / 2 ^ 192
    let f := (x % 2 ^ 192).toNat
    if f = 0 then .fin false 1 n false
    else .fin false (exp2Bits 192 192 f (2 * 2 ^ 192) (2 ^ 192)) (n - 192) true

/-- 2^a (R95). DEDUCED: log 18. -/
def fwExp2 (rm : Nat) (a : W32) : W32 × Flags :=
  match fw a with
  | .nan => (fwNaN, 0)
  | .inf true => roundFw (.zero false) rm
  | .inf false => roundFw (.inf false) rm
  | .zero _ => roundFw (.fin false 1 0 false) rm
  | .fin s m e _ => roundFw (exp2Val s m e) rm

/-- The bits of log2 t for t in [1, 2), in fixed point of `pr` bits, most significant first. -/
def log2Bits (pr : Nat) : Nat → Nat → Nat → Nat
  | 0, _, acc => acc
  | n + 1, t, acc =>
    let t2 := t * t / 2 ^ pr
    if 2 ^ (pr + 1) ≤ t2 then log2Bits pr n (t2 / 2) (2 * acc + 1) else log2Bits pr n t2 (2 * acc)

/-- log2 (m 2^e): exact for a power of two, else its first 128 fraction bits (R95). -/
def log2Val (m : Nat) (e : Int) : Val :=
  let l := Nat.log2 m
  let k := (l : Int) + e
  if m = 2 ^ l then .ofInt k
  else
    let f := log2Bits 400 128 (m * 2 ^ 400 / 2 ^ l) 0
    let x := k * 2 ^ 128 + f
    if x < 0 then .fin true (x.natAbs - 1) (-128) true else .fin false x.natAbs (-128) true

/-- log2 a (R95). -/
def fwLog2 (rm : Nat) (a : W32) : W32 × Flags :=
  match fw a with
  | .nan => (fwNaN, 0)
  | .inf true => (fwNaN, fNV)
  | .inf false => roundFw (.inf false) rm
  | .zero _ => ((roundFw (.inf true) rm).1, fDZ)
  | .fin true .. => (fwNaN, fNV)
  | .fin false m e _ => roundFw (log2Val m e) rm

/-- The class mask of fclass (R192). -/
def fwClass (a : W32) : Nat :=
  let s := bit a.toNat 31
  let noncanon := (bits a.toNat 30 21 == 0 && bits a.toNat 20 0 != 0) || (isNaN a && a != fwNaN)
  (match fw a with
   | .nan => 64
   | .inf true => 1
   | .inf false => 32
   | .zero _ => if s then 4 else 8
   | .fin true .. => 2
   | .fin false .. => 16) + if noncanon then 128 else 0

/-! ### Format codes (R299) -/

/-- The integer formats: bits, and whether signed (R300). -/
def intFmt (code : Nat) : Option (Nat × Bool) :=
  match code with
  | 0 => some (8, true)
  | 1 => some (16, true)
  | 2 => some (32, true)
  | 3 => some (8, false)
  | 4 => some (16, false)
  | 5 => some (32, false)
  | _ => none

/-- The floating-point formats other than e8m0 (R299). -/
def floatFmt (code : Nat) : Option Fmt :=
  if code = 0x08 then some .bf16
  else if code = 0x09 then some .fp16
  else if code = 0x0A then some .fp32
  else if code = 0x0B then some .fw32
  else if 0x20 ≤ code ∧ code < 0x40 ∧ bits code 2 0 ≠ 0 then some (.ofB8F (bits code 4 0))
  else none

/-- Is a format code assigned (R299)? -/
def fmtValid (code : Nat) : Bool := (intFmt code).isSome || (floatFmt code).isSome || code == 0x0C

/-- Bytes of an element of a format. -/
def fmtBytes (code : Nat) : Nat :=
  match intFmt code, floatFmt code with
  | some (w, _), _ => w / 8
  | _, some f => f.width / 8
  | _, _ => 1

/-- The value of an e8m0 byte (R305). -/
def e8m0 (x : Nat) : Val := if x % 256 = 255 then .nan else .fin false 1 ((x % 256 : Int) - 127) false

/-- Conversion to e8m0 (R308). -/
def toE8m0 (v : Val) (rm : Nat) : Nat × Flags :=
  match v with
  | .nan => (255, 0)
  | .zero _ => (0, fNV)
  | .inf true => (255, fNV)
  | .inf false => (254, fOF ||| fNX)
  | .fin true .. => (255, fNV)
  | .fin false m e t =>
    let l := Nat.log2 m
    let k := (l : Int) + e
    let exact := m == 2 ^ l && !t
    let up := match rm with
      | 0 => decide (3 * 2 ^ l ≤ 2 * m)
      | 3 => true
      | _ => false
    let j := if !exact && up then k + 1 else k
    if 127 < j then (254, fOF ||| fNX)
    else if j < -127 then (0, fUF ||| fNX)
    else ((j + 127).toNat, if exact then 0 else fNX)

/-- The exact value of an element of a storage format (R299 to R305). -/
def fmtVal (code x : Nat) : Val :=
  match intFmt code, floatFmt code with
  | some (w, true), _ => .ofInt (sgn w x)
  | some (w, false), _ => .ofInt (x % 2 ^ w : Nat)
  | _, some f => f.decode x
  | _, _ => e8m0 x

/-- A signed integer limited to a format's range (R300). -/
def saturate (w : Nat) (signed : Bool) (x : Int) : Nat :=
  let lo : Int := if signed then -(2 ^ (w - 1)) else 0
  let hi : Int := if signed then 2 ^ (w - 1) - 1 else 2 ^ w - 1
  wrap w (if x < lo then lo else if hi < x then hi else x)

end Sys2Proof.Machine
end

