-- ==== Sys2Proof/Machine/Fabric.lean ====
section
/-! DEFINITION. Elements, ports, lanes, crossbars and the control network (R52 to R72). -/

namespace Sys2Proof.Machine

/-! ### Places -/

/-- The key of an element, and its core, row and column. -/
def eKey (c row col : Nat) : Nat := 3072 * c + 64 * row + col
def eCore (e : Nat) : Nat := e / 3072
def eRow (e : Nat) : Nat := e % 3072 / 64
def eCol (e : Nat) : Nat := e % 64

/-- The sector of an element (R54). -/
def eSector (e : Nat) : Nat := eRow e / 16 * 4 + eCol e / 16

/-- Is an element an edge element (R52)? -/
def isEdge (e : Nat) : Bool := eCol e == 0 || eCol e == 63

/-- The neighbour to the north 0, east 1, south 2, west 3 (R52). -/
def neighbour (e dir : Nat) : Option Nat :=
  match dir with
  | 0 => if eRow e = 0 then none else some (e - 64)
  | 1 => if eCol e = 63 then none else some (e + 1)
  | 2 => if eRow e = 47 then none else some (e + 64)
  | _ => if eCol e = 0 then none else some (e - 1)

/-- The direction a neighbour's token comes from. -/
def opposite (dir : Nat) : Nat := (dir + 2) % 4

def World.elem (w : World) (e : Nat) : Elem := tabGet Elem.reset e w.elems
def World.setElem (w : World) (e : Nat) (x : Elem) : World := { w with elems := tabSet e x w.elems }
def World.region (w : World) (r : Nat) : Region := tabGet Region.reset r w.regions
def World.setRegion (w : World) (r : Nat) (x : Region) : World := { w with regions := tabSet r x w.regions }
def World.stream (w : World) (k : Nat) : Stream := tabGet Stream.reset k w.streams
def World.setStream (w : World) (k : Nat) (x : Stream) : World := { w with streams := tabSet k x w.streams }

/-- Is a handle in use? -/
def Region.live (x : Region) : Bool := x.mask != 0

/-- The region an element belongs to (R55). -/
def regionOf (w : World) (e : Nat) : Option Nat :=
  [0, 1, 2, 3].findSome? fun h =>
    let r := 4 * eCore e + h
    if bit (w.region r).mask (eSector e) then some r else none

/-- Top row, left column, height and width, in sectors, of the rectangle of a sector mask (R54, R55). -/
def maskRect (m : Nat) : Nat × Nat × Nat × Nat :=
  let ss := (List.range 12).filter (bit m ·)
  let t := (ss.headD 0) / 4
  let l := ss.foldl (fun l s => min l (s % 4)) 4
  let b := ss.foldl (fun b s => max b (s / 4)) 0
  let r := ss.foldl (fun r s => max r (s % 4)) 0
  (t, l, b + 1 - t, r + 1 - l)

/-- Is a nonzero mask a rectangle of whole sectors (R226)? -/
def maskIsRect (m : Nat) : Bool :=
  let (t, l, h, wd) := maskRect m
  m != 0 && (List.range 12).all fun s =>
    bit m s == (decide (t ≤ s / 4 ∧ s / 4 < t + h) && decide (l ≤ s % 4 ∧ s % 4 < l + wd))

/-- The mask of a rectangle of sectors. -/
def rectMask (t l h wd : Nat) : Nat :=
  (List.range 12).foldl (fun m s =>
    if t ≤ s / 4 ∧ s / 4 < t + h ∧ l ≤ s % 4 ∧ s % 4 < l + wd then m + 2 ^ s else m) 0

/-- The shape of a region: height and width in sectors. -/
def Region.shape (x : Region) : Nat × Nat := let (_, _, h, wd) := maskRect x.mask; (h, wd)

/-- The elements of a region, row-major (R84). -/
def regionElems (w : World) (r : Nat) : List Nat :=
  let (t, l, h, wd) := maskRect (w.region r).mask
  (List.range (16 * h)).flatMap fun i => (List.range (16 * wd)).map fun j => eKey (r / 4) (16 * t + i) (16 * l + j)

/-- The element at a row and column relative to a region. -/
def regionElem (w : World) (r row col : Nat) : Nat :=
  let (t, l, _, _) := maskRect (w.region r).mask
  eKey (r / 4) (16 * t + row) (16 * l + col)

/-- Row and column of an element relative to its region. -/
def relRow (w : World) (r e : Nat) : Nat := let (t, _, _, _) := maskRect (w.region r).mask; eRow e - 16 * t
def relCol (w : World) (r e : Nat) : Nat := let (_, l, _, _) := maskRect (w.region r).mask; eCol e - 16 * l

/-! ### Planes (R75, R76) -/

/-- Field `f` of a plane. -/
def field (pl : Tab Nat) (f : Nat) : Nat := tabGet 0 f pl

/-- Is an element configured in a plane (R75)? -/
def planeConfigured (pl : Tab Nat) : Bool := (List.range 14).any fun f => field pl f != 0

/-- The 168-bit handler word of handler `h` (R76). -/
def handlerWord (pl : Tab Nat) (h : Nat) : Nat :=
  (List.range 12).foldl (fun x i => x + field pl (16 + 12 * h + i) * 2 ^ (14 * i)) 0

/-- The fields of a handler word (R76). -/
structure Handler where
  op : Nat
  prio : Nat
  mask : Bool
  och : Nat
  qreq : Nat
  opa : Nat
  opb : Nat
  opc : Nat
  mode : Nat
  aux : Nat
  deriving DecidableEq, Repr

/-- Handler `h` of a plane. -/
def handler (pl : Tab Nat) (h : Nat) : Handler :=
  let x := handlerWord pl h
  { op := bits x 167 160, prio := bits x 159 158, mask := bit x 157, och := bits x 156 155, qreq := bits x 154 151
    opa := bits x 150 148, opb := bits x 147 145, opc := bits x 144 142, mode := bits x 141 138, aux := bits x 137 128 }

/-- Initial value of register ki of handler `h` (R76). -/
def initK (pl : Tab Nat) (h i : Nat) : W32 := BitVec.ofNat 32 (bits (handlerWord pl h) (32 * i + 31) (32 * i))

/-- Is handler `h` enabled in a plane (`HEN`)? -/
def enabled (pl : Tab Nat) (h : Nat) : Bool := bit (field pl 0) h

/-- The enabled handlers of a plane. -/
def handlersOf (pl : Tab Nat) : List Nat := [0, 1, 2, 3].filter (enabled pl)

/-- Words of each partition (R60). -/
def partSize (pl : Tab Nat) : Nat := 8 / max 1 (handlersOf pl).length

/-- The partition of port `p` and handler `h`. -/
def Elem.part (x : Elem) (p h : Nat) : List Token := tabGet [] (4 * p + h) x.parts
def Elem.setPart (x : Elem) (p h : Nat) (ts : List Token) : Elem := { x with parts := tabSet (4 * p + h) ts x.parts }

/-- Register ki of handler `h`. -/
def Elem.kreg (x : Elem) (h i : Nat) : W32 := tabGet 0 (4 * h + i) x.k
def Elem.setK (x : Elem) (h i : Nat) (v : W32) : Elem := { x with k := tabSet (4 * h + i) v x.k }

/-- The header latch's reset value (R59). -/
def latchReset : W32 := 0x0016FF7F

/-- The header latch of handler `h` for port `p`. -/
def Elem.latchOf (x : Elem) (h p : Nat) : W32 := tabGet latchReset (4 * h + p) x.latch

/-- The handlers whose partition in port `p` is an active queue of a plane (R82). -/
def activeAt (pl : Tab Nat) (p : Nat) : List Nat := (handlersOf pl).filter fun h => bit (handler pl h).qreq p

/-- The active queues of a plane: port and handler (R82). -/
def activeQueues (pl : Tab Nat) : List (Nat × Nat) :=
  [0, 1, 2, 3].flatMap fun p => (activeAt pl p).map fun h => (p, h)

/-! ### Tokens -/

/-- A control word of a code (R57). -/
def ctlWord (code chan : Nat) : Token := { kind := 2, chan := chan, pay := BitVec.ofNat 32 code }

/-- A marker of an epoch (R57). -/
def mrkWord (epoch : Nat) : Token := { kind := 2, chan := 0, pay := BitVec.ofNat 32 (5 + epoch % 2 ^ 16 * 256) }

/-- The code of a control word. -/
def Token.code (t : Token) : Nat := t.pay.toNat % 256

def Token.isData (t : Token) : Bool := t.kind == 0
def Token.isHeader (t : Token) : Bool := t.kind == 1
def Token.isCtl (t : Token) : Bool := t.kind == 2
/-- Does a control word break R57? -/
def Token.badCtl (t : Token) : Bool :=
  t.isCtl && (t.code == 0 || decide (5 < t.code) ||
    (if t.code = 5 then bits t.pay.toNat 31 24 != 0 else bits t.pay.toNat 31 8 != 0))

def Token.isSwt (t : Token) : Bool := t.isCtl && t.code == 4 && !t.badCtl
def Token.isMrk (t : Token) : Bool := t.isCtl && t.code == 5 && !t.badCtl

/-- Does a header word break R58? -/
def Token.badHeader (t : Token) : Bool := t.isHeader && (bits t.pay.toNat 31 23 != 0 || !fmtValid (bits t.pay.toNat 22 17))

/-- A token in 36 bits (R56), and back. -/
def Token.pack (t : Token) : Nat := t.kind * 2 ^ 34 + t.chan * 2 ^ 32 + t.pay.toNat
def Token.unpack (x : Nat) : Token := { kind := bits x 35 34, chan := bits x 33 32, pay := BitVec.ofNat 32 (bits x 31 0) }

/-- The element when a cycle has gone by: tokens and control bits on their way stand in their queues, and what gave up a word accepts
another (R61, R63, R67). -/
def Elem.arrive (x : Elem) : Elem :=
  if x.arriving.isEmpty && x.ctlIn.isEmpty && x.freed == 0 then x
  else { x with
    parts := x.arriving.foldl (fun t (i, ts) => tabSet i (tabGet [] i t ++ ts) t) x.parts, arriving := [], freed := 0
    cq := x.cq ++ x.ctlIn, ctlIn := [] }

/-- Has a core power, of its own and of its die (R295, R297)? -/
def powered (w : World) (c : Nat) : Bool := !(w.core c).off && !(w.die (dieOf c)).off

/-! ### Element faults -/

/-- An element fault: its region stops firing until it is rolled back or frozen; a frozen region takes none (R72, R266).
DEDUCED: log 39. -/
def elemFault (w : World) (e cause : Nat) : World :=
  match regionOf w e with
  | some r =>
    let x := w.region r
    if x.fault.isSome || x.frozen then w else w.setRegion r { x with fault := some (e, cause) }
  | none => w

/-- The head of partition (p, h). A partition that has given up a word in this cycle has its next head from the next cycle on (R61, R63). -/
def Elem.head (x : Elem) (p h : Nat) : Option Token := if bit x.freed (4 * p + h) then none else (x.part p h).head?

/-- Does a bad control word stand at the head of a partition (R57)? -/
def Elem.badHead (x : Elem) : Bool := x.parts.any fun kv => (x.head (kv.1 / 4) (kv.1 % 4)).any Token.badCtl

/-- A bad control word that has come to the head of a partition of an element is an element fault (R57). -/
def headsChecked (w : World) (e : Nat) : World := if (w.elem e).badHead then elemFault w e 0x02 else w

/-- A token has moved in the region of an element (R267, R270); what then stands at the heads of its queues is looked at (R57). -/
def moved (w : World) (e : Nat) : World :=
  match regionOf w e with
  | some r => headsChecked (w.setRegion r { w.region r with movedAt := w.cycle, still := 0 }) e
  | none => w

/-! ### Delivery (R60, R61, R63, R82) -/

/-- What comes of handing a token on: taken, refused for now, or an element fault. -/
inductive Handed where
  | taken (w : World)
  | held
  | fault (e cause : Nat)
  deriving DecidableEq, Repr

/-- The tokens on lanes that end in partition (p, h). -/
def Elem.onLane (x : Elem) (p h : Nat) : List Token := tabGet [] (4 * p + h) x.arriving

/-- Put a token at the tail of a partition: in the port at once, where it comes out of the crossbar and none is on a lane before it, or from
the next cycle on, where it comes on lane a (R61). A bad control word that is then the head is an element fault (R57). -/
def enqueue (w : World) (e p h : Nat) (now : Bool) (t : Token) : World :=
  let x := { w.elem e with busyAt := w.cycle }
  if now && (x.onLane p h).isEmpty then headsChecked (w.setElem e (x.setPart p h (x.part p h ++ [t]))) e
  else w.setElem e { x with arriving := tabSet (4 * p + h) (x.onLane p h ++ [t]) x.arriving }

/-- Has partition (p, h) room for a token: a word freed in this cycle takes one from the next on (R60, R63)? -/
def Elem.hasRoom (x : Elem) (p h : Nat) : Bool :=
  decide ((x.part p h).length + (x.onLane p h).length + (if bit x.freed (4 * p + h) then 1 else 0) < partSize x.act)

/-- Hand a token to input port `p` of element `e`, out of the crossbar (`now`) or on lane a: the partition of its channel, or every active
queue for a switch token or a marker (R60, R61, R82, R265). -/
def toPort (w : World) (e p : Nat) (now : Bool) (t : Token) : Handed :=
  let x := w.elem e
  if t.kind = 3 then .fault e 0x01
  else if t.isSwt || t.isMrk then
    let hs := activeAt x.act p
    if hs.all (x.hasRoom p) then .taken (hs.foldl (fun w h => enqueue w e p h now t) w) else .held
  else if !enabled x.act t.chan then .fault e 0x04
  else if x.hasRoom p t.chan then .taken (enqueue w e p t.chan now t)
  else .held

/-- Hand a token on lane a to every port of a list, or to none of them. -/
def toPorts (w : World) (e : Nat) (t : Token) : List Nat → Handed
  | [] => .taken w
  | p :: rest =>
    match toPort w e p false t with
    | .taken w => toPorts w e t rest
    | r => r

/-- Is the lane that leaves element `e` in direction `dir` listed as faulty (R61, R289)? -/
def laneDead (w : World) (e dir lane : Nat) : Bool := tabHas (e * 8 + 2 * dir + lane) w.dead

/-- Is a switch in progress in the region of an element (R83)? -/
def waving (w : World) (e : Nat) : Bool :=
  match regionOf w e with
  | some r => (w.region r).shadow == .wave
  | none => false

/-- Does the receiver's sector accept (R71)? None for a sector that is off. -/
def sectorAccepts (w : World) (e : Nat) : Option Bool :=
  let k := 12 * eCore e + eSector e
  if tabHas k w.sectors then some (decide (tabGet 0 k w.sectors ≤ w.cycle)) else none

/-- The crossbar setting of an element for lane b from direction `dir` (R75, R83). -/
def xbField (x : Elem) (dir : Nat) : Nat := tabGet (field x.act (2 + dir)) dir x.oldXb

/-- Hand a token to the neighbour of `e` in direction `dir`, on lane a (0) or b (1) (R61). A lane that no port sources,
a crossbar that neither passes nor drops, a faulty lane and a sector that is off are dead links; while a switch is in
progress the token waits on the lane (R83). Every port that lane a sources takes a copy (R75). -/
def toLane (w : World) (e dir lane : Nat) (t : Token) : Handed :=
  match neighbour e dir with
  | none => .fault e 0x06
  | some n =>
    if laneDead w e dir lane then .fault e 0x06
    else match sectorAccepts w n with
      | none => .fault e 0x06
      | some false => .held
      | some true =>
        let x := w.elem n
        let from_ := opposite dir
        if x.gated then .held
        else if lane = 0 then
          match [0, 1, 2, 3].filter fun p => field x.act (6 + p) == from_ + 1 with
          | [] => if waving w n then .held else .fault e 0x06
          | ps => toPorts w n t ps
        else if bits (xbField x from_) 2 0 = 0 ∧ bit (xbField x from_) 3 = false then
          (if waving w n then .held else .fault e 0x06)
        else if tabHas from_ x.xb || bit x.freed (16 + from_) then .held
        else .taken (w.setElem n { x with xb := tabSet from_ { t with due := w.cycle + 1 } x.xb, busyAt := w.cycle })

/-- Hand a token on to every lane of a mask, or to none of them (R63): bit 2 dir + lane. -/
def toLanes (w : World) (e : Nat) (t : Token) : List Nat → Handed
  | [] => .taken w
  | l :: rest =>
    match toLane w e (l / 2) (l % 2) t with
    | .taken w => toLanes w e t rest
    | r => r

/-- The lanes of a mask. -/
def lanesOf (m : Nat) : List Nat := (List.range 8).filter (bit m ·)

/-- Both sets of a binary `steer`, beside `OUTL`: the lanes on which switch tokens and markers leave (R99). -/
def wideLanes (pl : Tab Nat) : Nat :=
  (handlersOf pl).foldl (fun m h =>
    let x := handler pl h
    if x.op = 0x42 ∧ bit x.mode 0 = false then m ||| bits x.aux 7 0 else m) (bits (field pl 1) 7 0)

/-- Send a control bit from `e` to the neighbours of a mask, or to none of them (R67). A neighbour that neither reads
nor passes it, or whose sector is off, is a dead link, but for a switch in progress; one that is gated or wakes holds it (R61, R70, R71,
R83). DEDUCED: log 61. -/
def toCtl (w : World) (e : Nat) (b : CtlBit) : List Nat → Handed
  | [] => .taken w
  | dir :: rest =>
    match neighbour e dir with
    | none => .fault e 0x06
    | some n =>
      let x := w.elem n
      let src := opposite dir + 1
      let reads := bits (field x.act 10) 2 0 == src
      let passes := bits (field x.act 12) 2 0 == src
      if (sectorAccepts w n).isNone then .fault e 0x06
      else if sectorAccepts w n == some false || x.gated then .held
      else if !reads && !passes then (if waving w n then .held else .fault e 0x06)
      else if reads && decide (8 ≤ x.cq.length + x.ctlIn.length + (if bit x.freed 20 then 1 else 0)) then .held
      else if passes && decide (2 ≤ x.cout.length) then .held
      else
        let x := if reads then { x with ctlIn := x.ctlIn ++ [{ b with due := 0 }] } else x
        let x := if passes then { x with cout := x.cout ++ [({ b with due := w.cycle + 1 }, bits (field x.act 12) 6 3)] } else x
        toCtl (w.setElem n { x with busyAt := w.cycle }) e b rest

/-! ### Heads -/

/-- The ports a mask names. -/
def portsOf (m : Nat) : List Nat := [0, 1, 2, 3].filter (bit m ·)

/-- The head of partition (p, h) as an operation sees it: switch tokens, markers and headers are never seen (R59, R66). -/
def Elem.seen (x : Elem) (p h : Nat) : Option Token :=
  match x.head p h with
  | some t => if t.isSwt || t.isMrk || t.isHeader then none else some t
  | none => none

/-- The heads that a handler sees in its required partitions. -/
def Elem.heads (x : Elem) (h : Nat) : List Token := (portsOf (handler x.act h).qreq).filterMap fun p => x.seen p h

/-- Does every required partition hold a token (R64)? -/
def Elem.allHeads (x : Elem) (h : Nat) : Bool := (portsOf (handler x.act h).qreq).all fun p => (x.seen p h).isSome

/-- Does a switch token stand at the head of a required partition (R82)? -/
def Elem.swtHead (x : Elem) (h : Nat) : Bool :=
  (portsOf (handler x.act h).qreq).any fun p => match x.head p h with
    | some t => t.isSwt
    | none => false

end Sys2Proof.Machine
end

