-- ==== Sys2Proof/Machine/Order.lean ====
section
/-! DEFINITION. The order of a thread's commands (R207, R219), and the cells of the Sluice (R246, R322, R323). -/

namespace Sys2Proof.Machine

def World.sluice (w : World) (c : Nat) : Sluice := tabGet Sluice.reset c w.sluices
def World.setSluice (w : World) (c : Nat) (x : Sluice) : World := { w with sluices := tabSet c x w.sluices }

/-! ### The order of commands (R207, R219) -/

/-- The commands of thread `t` that are not complete, by queue (bits of a `qfence` mask) and place; the follow-on of a
copy is no command until it is issued, and then has no place of its own. DEDUCED: log 72. -/
def pending (w : World) (t : Nat) : List (Nat × Nat) :=
  let chans := w.channels.flatMap fun (k, x) =>
    ((x.cur.toList ++ x.queue).filter (·.thread == t)).map fun y => (k % 4, y.seq)
  let mats := w.matrices.flatMap fun (_, m) =>
    ((m.cur.toList ++ m.queue).filter fun y => y.thread == t && y.seq != 0).map fun y => (4, y.seq)
  let sels := w.sluices.flatMap fun (_, z) =>
    ((z.queue ++ (z.run.map (·.1)).toList).filter (·.thread == t)).map (fun y => (5, y.seq))
      ++ if z.owner == some t then (z.drain.map fun d => (5, d.2.2)).toList else []
  let feeds := w.sessions.flatMap fun (_, x) =>
    (x.chunks.filter (·.thread == t)).map (fun y => (6, y.seq)) ++ (x.descs.filter (·.2.1 == t)).map (fun y => (6, y.2.2))
      ++ if x.after.1 == t then [(6, x.after.2)] else []
  chans ++ mats ++ sels ++ feeds

/-- The `qfence` commands of thread `t` that still hold commands back: a command that each covers has not completed. The effect of a
Headwater command is in place once no earlier `qfence` holds the command itself (R207). DEDUCED: log 72. -/
def standingFences (w : World) (t : Nat) : List (Nat × Nat) :=
  (w.thread t).qfences.foldl (fun fs (at_, m) =>
    if (pending w t).any fun (b, n) =>
        bit m b && decide (n < at_) && (b != 6 || fs.any fun (a', m') => bit m' 6 && decide (a' < n))
    then fs ++ [(at_, m)] else fs) []

/-- May a command of thread `t` at place `seq` on queue `q` start: every `qfence` before it that names the queue has seen the commands it
covers complete (R207), and the stores that the thread committed before it are performed, which its reads must see (R203, R223)? A
follow-on, whose place is 0, comes after its copy. -/
def mayStart (w : World) (t seq q : Nat) : Bool :=
  seq == 0 || ((standingFences w t).all (fun (at_, m) => !(decide (at_ < seq) && bit m q)) &&
    (w.thread t).path.all fun x => decide (seq ≤ x.seq))

/-- The next place in the order of commands. -/
def takeSeq (w : World) : World × Nat := ({ w with cmdSeq := w.cmdSeq + 1 }, w.cmdSeq + 1)

/-! ### The selection block (R246) -/

def zK (b : Block) : Nat := fld b 0 13 8 + 1
def zHsh (b : Block) : Nat := fld b 0 7 3
def zHen (b : Block) : Bool := bit (fld b 0 31 0) 2
def zLren (b : Block) : Bool := bit (fld b 0 31 0) 1
def zOstr (b : Block) : Nat := fld b 4 31 0
def zOut (b : Block) : Nat := fld8 b 8
def zStamp (b : Block) : Nat := fld8 b 0x10
def zHist (b : Block) : Nat := fld8 b 0x18
def zLtmp (b : Block) : Nat := fld8 b 0x20

/-- Is a selection block valid (R246)? -/
def selValid (b : Block) : Bool :=
  fld b 0 31 24 == 0x5E && fld b 0 23 14 == 0 && !bit (fld b 0 31 0) 0 && zOstr b % 8 == 0 && decide (8 * zK b ≤ zOstr b)
    && zOut b % 8 == 0 && zStamp b % 8 == 0 && zHist b % 8 == 0 && zLtmp b % 64 == 0 && b.toNat / 2 ^ 320 == 0

/-! ### Ranking (R323) -/

/-- Does pair x rank above pair y? -/
def ranksAbove (x y : Nat × Nat) : Bool :=
  let a := fw (BitVec.ofNat 32 x.1)
  let b := fw (BitVec.ofNat 32 y.1)
  if eqVal a b then decide (x.2 < y.2) else ltVal b a

/-- Enter a pair behind every pair that it does not rank above. -/
def rankIn (x : Nat × Nat) : List (Nat × Nat) → List (Nat × Nat)
  | [] => [x]
  | y :: rest => if ranksAbove x y then x :: y :: rest else y :: rankIn x rest

/-- Enter a pair into a unit of k cells; a NaN score is discarded (R322, R323). -/
def Sluice.enter (z : Sluice) (score idx : Nat) : Sluice :=
  if isNaN (BitVec.ofNat 32 score) then z else { z with pairs := (rankIn (score, idx) z.pairs).take (zK z.blk) }

/-- The head of the Sluice's queue may be accepted now. -/
def commandReady (w : World) (c : Nat) : Bool :=
  match (w.sluice c).queue with
  | x :: _ => mayStart w x.thread x.seq 5
  | [] => false

/-- Does the Sluice of core `c` accept a `selin` pair or drain of thread `t` in this cycle: it stands configured by the thread, takes nothing
else, and has no command that is ready (R123, R322)? DEDUCED: log 134. -/
def takesPair (w : World) (c : Nat) (t : Option Nat) : Bool :=
  let z := w.sluice c
  z.on && t.isSome && z.owner == t && !z.stalled && z.drain.isNone && z.run.isNone && !(w.die (dieOf c)).off && !commandReady w c

end Sys2Proof.Machine
end

