-- ==== Sys2Proof/Machine/EdgeBase.lean ====
section
/-! DEFINITION. Stream patterns, and what the edge and video operations need before they may fire (R109 to R128). -/

namespace Sys2Proof.Machine

/-! ### The stream pattern block (R109) -/

/-- The fields of a pattern block. -/
structure Pattern where
  base : Nat
  pmode : Nat
  fmt : Nat
  eorm : Nat
  eogm : Nat
  sub : Nat
  lvl : Nat
  cmp : Bool
  istr : Int
  cnt : List Nat
  std : List Int
  auxa : Nat
  chain : Nat
  /-- `NA` in bit 1 and `EVF` in bit 0. -/
  hint : Nat
  hdre : Bool
  /-- Is a reserved field nonzero? -/
  resv : Bool
  deriving DecidableEq, Repr

/-- A signed 32-bit field of a block. -/
def fldInt (b : Block) (off : Nat) : Int := sgn 32 (fld b off 31 0)

/-- Read a pattern block (R109). -/
def patternOf (b : Block) : Pattern :=
  { base := fld8 b 0, pmode := fld b 8 31 28, fmt := fld b 8 27 22, eorm := fld b 8 21 18, eogm := fld b 8 17 14
    sub := fld b 8 13 12, lvl := fld b 8 11 9, cmp := fld b 8 8 8 == 1, istr := fldInt b 12
    cnt := [fld b 0x10 31 0, fld b 0x18 31 0, fld b 0x20 31 0, fld b 0x28 31 0]
    std := [fldInt b 0x14, fldInt b 0x1C, fldInt b 0x24, fldInt b 0x2C]
    auxa := fld8 b 0x30, chain := fld b 0x38 31 20, hint := fld b 0x38 15 14, hdre := fld b 0x38 13 13 == 1
    resv := fld b 8 7 0 != 0 || fld b 0x38 12 0 != 0 || fld b 0x3C 31 0 != 0 }

/-- Is a format a binary8 code? -/
def isBinary8 (fmt : Nat) : Bool := decide (0x20 ≤ fmt) && fmtValid fmt

/-- Does a loading stream emit headers (R111)? -/
def Pattern.headers (p : Pattern) : Bool := p.hdre && isBinary8 p.fmt

/-- Is a dimension in use above one with count 0 (R113)? -/
def dimsBad : List Nat → Bool
  | c :: d :: rest => (c == 0 && d != 0) || dimsBad (d :: rest)
  | _ => false

/-- Do `PMODE` and `SUB` suit an operation (R113, R114, R125 to R128)? DESIGN CHOICE: log 129. -/
def modesSuit (op : Nat) (p : Pattern) : Bool :=
  if op = 0x88 then p.pmode == 1 && p.sub == 0
  else if op = 0x89 then p.pmode == 1 && p.sub == 1
  else if op = 0xA2 then p.pmode == 1 && p.sub == 2 && !p.cmp && decide (p.lvl ≤ 5)
  else if op = 0xA0 then p.pmode == 2 && p.sub == 0
  else if op = 0xA1 then p.pmode == 2 && p.sub == 1
  else if op = 0xA3 then p.pmode == 2 && decide (p.sub ≤ 1)
  else p.pmode == 0 && p.sub != 3

/-- Does an operation accept a format (R113, R114, R118, R120)? DEDUCED: log 65. -/
def formatSuits (op mode fmt : Nat) : Bool :=
  if !fmtValid fmt then false
  else if op = 0x88 then true
  else if op = 0x84 then (if mode ≤ 9 then fmt == 0x02 || fmt == 0x05 else fmt == 0x0A || fmt == 0x0B)
  else if op = 0x87 then [0x02, 0x05, 0x0A, 0x0B, 0x08].contains fmt
  else if op = 0x85 ∨ op = 0x86 then decide (fmtBytes fmt ≤ 4)
  else if op = 0x89 then fmt == 0x01
  else true

/-- Does a captured pattern break R113 for an operation with a `MODE`? DEDUCED: log 65. -/
def patternBad (op mode : Nat) (p : Pattern) : Bool :=
  p.resv || !modesSuit op p || !formatSuits op mode p.fmt || dimsBad p.cnt
    || (p.hdre && !decide (1 ≤ p.cnt.headD 0 ∧ p.cnt.headD 0 ≤ 256))
    || (p.auxa == 0 && (((op == 0x80 || op == 0x82) && p.headers) || (op == 0xA1 && bit mode 0)))

/-! ### Elements of a strided pattern (R110) -/

/-- How many elements a pattern visits: none when no dimension is in use. -/
def Pattern.total (p : Pattern) : Nat :=
  if p.cnt.headD 0 = 0 then 0 else p.cnt.foldl (fun n c => if c = 0 then n else n * c) 1

/-- The byte offset of element `n`: i0 varies fastest. -/
def strideOffset : List Nat → List Int → Nat → Int
  | c :: cs, s :: ss, n => if c = 0 then 0 else ((n % c : Nat) : Int) * s + strideOffset cs ss (n / c)
  | _, _, _ => 0

/-- A byte address computed exactly; an address outside 64 bits lies beyond the virtual space (R110, R114). -/
def exactAddr (x : Int) : Nat := if x < 0 then 2 ^ 64 + wrap 64 x else x.toNat

/-- The address of element `n`. -/
def Pattern.addr (p : Pattern) (n : Nat) : Nat := exactAddr (p.base + strideOffset p.cnt p.std n)

/-- The control codes after element `n`: for each completed run, EOR before EOG, from dimension 0 upwards (R110). -/
def marksFrom (eorm eogm total n : Nat) : List Nat → Nat → Nat → List Nat
  | [], _, _ => []
  | c :: cs, k, run =>
    if c = 0 then []
    else
      let run := run * c
      (if (n + 1) % run = 0 ∨ n + 1 = total then
        (if bit eorm k then [1] else []) ++ (if bit eogm k then [2] else []) else []) ++ marksFrom eorm eogm total n cs (k + 1) run

/-- The marks after element `n` of a pattern. -/
def Pattern.marks (p : Pattern) (n : Nat) : List Nat := marksFrom p.eorm p.eogm p.total n p.cnt 0 1

/-- Does element `n` open a dimension-0 run of a stream with headers? -/
def Pattern.headerAt (p : Pattern) (n : Nat) : Bool := p.headers && n % p.cnt.headD 1 == 0

/-- The header word of the run that element `n` of its pattern opens, without its scale (R58, R111). -/
def Pattern.headerWord (p : Pattern) (n : Nat) : W32 :=
  let c0 := p.cnt.headD 1
  let c1 := p.cnt.getD 1 0
  let lot := c1 == 0 || n / c0 % c1 + 1 == c1
  BitVec.ofNat 32 (p.fmt * 2 ^ 17 + (if lot then 2 ^ 16 else 0) + (c0 - 1) * 2 ^ 8)

/-! ### Streams of handlers -/

/-- The key of stream `AUX` of handler `h` (R113). -/
def streamKey (w : World) (e h : Nat) : Nat :=
  let r := (regionOf w e).getD 0
  64 * eCore e + 16 * (r % 4) + bits (handler (w.elem e).act h).aux 3 0

/-- Does an operation use a stream (R114, R123)? -/
def usesStream (op : Nat) : Bool := decide (0x80 ≤ op) && op != 0x8A

/-- The working state of handler `h`: word `j` of it. -/
def Elem.work (x : Elem) (h j : Nat) : Nat := tabGet 0 (4 * j + h) x.aux
def Elem.setWork (x : Elem) (h j v : Nat) : Elem := { x with aux := tabSet (4 * j + h) v x.aux }

/-- The ordinal of the next element of handler `h`'s stream. -/
def Elem.at_ (x : Elem) (h : Nat) : Nat := tabGet 0 h x.spos
def Elem.setAt (x : Elem) (h n : Nat) : Elem := { x with spos := tabSet h n x.spos }

/-- The working words of an edge handler: whether it has begun its stream, and the feedback tokens it has taken or, for
the video operations, how far it stands in the sequence of R125. -/
def wBegun : Nat := 0
def wPhase : Nat := 1

/-- The binding a handler sees: a waiting one takes effect when it begins a stream (R231). -/
def boundStream (w : World) (e h : Nat) : Stream :=
  let st := w.stream (streamKey w e h)
  if (w.elem e).work h wBegun = 1 then st
  else match st.next with
    | some (b, p, blk) => { st with bound := b, port := p, blk := blk, next := none }
    | none => st

/-- The working word of an `ldst` that a feedback token has ended: one more than the elements it had read by then. -/
def wEnd : Nat := 2

/-- Has a feedback token ended the stream of an `ldst` at or before the element it stands at (R115)? -/
def Elem.ended (x : Elem) (h : Nat) : Bool := x.work h wEnd != 0 && decide (x.work h wEnd ≤ x.at_ h + 1)

/-- Access slots in use: every access that has not yet delivered its result (R114). -/
def Elem.slots (x : Elem) : Nat := (x.acc.filter fun a => a.op != .none).length

/-- A read of a walker that has not been served: the format that marks it. -/
def probeFmt : Nat := 0x41

/-- Does handler `h` wait for a read of its own? -/
def Elem.probing (x : Elem) (h : Nat) : Bool := x.acc.any fun a => a.h == h && a.fmt == probeFmt && a.phase != .done

/-- Does an access count in the replay log (R119)? -/
def AccessOp.logs : AccessOp → Bool
  | .amo .. | .chainAdd | .append => true
  | _ => false

/-- The count of handler `h`'s accesses so far, by which the next one is known to the replay log (R119). DEDUCED: log 120. -/
def Elem.nth (x : Elem) (h : Nat) : Nat := tabGet 0 h x.issued

/-- The entries of the replay log, with those that accesses not yet performed will take (R119). -/
def Elem.logged (x : Elem) : Nat := x.log.length + (x.acc.filter fun a => a.op.logs && a.logged.isNone && a.phase != .done).length

/-- May handler `h` take a log entry: the log has room, or a replay returns the next value (R119)? -/
def logRoom (x : Elem) (h : Nat) : Bool := decide (x.logged < 16) || x.replay.any fun (g, n, _) => g == h && n == x.nth h

/-- The words of a video handler's working state: the record's five words from `wRec` on, the group's flag that it took
residual values, how many, and the residual values from `wVals` on. -/
def wRec : Nat := 2
def wCoded : Nat := 7
def wCount : Nat := 8
def wChan : Nat := 9
def wVals : Nat := 16

/-- The phases of a video handler: a record opener is due, words 1 to 5 of the record, its first group opener, cells, values, a further
group opener or the next record's, and the first cell of a trailing group with bit 1 set, and its further cells. -/
def phRec : Nat := 0
def phGroup : Nat := 6
def phCells : Nat := 7
def phVals : Nat := 8
def phMore : Nat := 9
def phShared : Nat := 10
def phLast : Nat := 11

/-- Is a handler among the cells of a group? -/
def inCells (phase : Nat) : Bool := phase == phCells || phase == phShared || phase == phLast

/-- Does a `warp` take residual values: is its operand b a port of its own (R126)? -/
def warpB (x : Handler) : Option Nat :=
  if isPortCode x.opb && x.opb != x.opa && bit x.qreq x.opb then some x.opb else none
where isPortCode (c : Nat) : Bool := decide (c < 4)

/-- Is the core's Sluice configured by the owner of an element's region, and can it accept a pair (R123, R322)? -/
def selinReady (w : World) (e : Nat) : Bool :=
  match regionOf w e with
  | some r => takesPair w (eCore e) (w.region r).owner
  | none => false

/-- Is the token seen at port `p` a data token? -/
def Elem.dataAt (x : Elem) (p h : Nat) : Bool := match x.seen p h with
  | some t => t.isData
  | none => false

/-- May a `warp` fire (R126)? -/
def warpReady (x : Elem) (h : Nat) : Bool :=
  let hd := handler x.act h
  let b := warpB hd
  let bSeen := match b with
    | some p => (x.seen p h).isSome
    | none => true
  if x.work h wPhase = phVals then bSeen
  else match x.seen hd.opa h with
    | none => false
    | some t => !(t.isCtl && (t.code == 3 || x.work h wCoded == 1)) || bSeen

/-- May an edge or video handler fire, beyond its heads (R64, R69, R113 to R128)? The accesses beyond the feedback are the elements of the
pattern; the read of a header's scale byte is not counted among them, though it takes a slot. DESIGN CHOICE: log 101. -/
def edgeReady (w : World) (e h : Nat) : Bool :=
  let x := w.elem e
  let hd := handler x.act h
  let st := boundStream w e h
  let free (n : Nat) : Bool := decide (x.slots + n ≤ 64)
  if hd.op = 0x8A then x.allHeads h && selinReady w e
  else if !st.bound then false
  else if st.port then
    (if hd.op = 0x80 then !st.inq.isEmpty
     else if hd.op = 0x81 then x.allHeads h && decide (st.outq.length < 16)
     else true)
  else
    let p := patternOf st.blk
    if hd.op = 0x80 then
      (hd.qreq != 0 && (x.seen hd.opa h).isSome)
        || (!bit x.stopped h && free (if p.headerAt (x.at_ h) then 2 else 1)
            && (hd.qreq == 0 || decide (x.at_ h < x.work h wPhase + partSize x.act) || x.ended h))
    else if hd.op = 0x82 then x.allHeads h && free (if p.headerAt (x.at_ h) then 2 else 1)
    else if hd.op = 0x84 ∨ hd.op = 0x87 ∨ hd.op = 0xA3 then
      x.allHeads h && free 1 && !x.probing h && (!x.dataAt hd.opa h || logRoom x h)
    else if hd.op = 0xA1 then x.allHeads h && free 3 && !x.probing h && logRoom x h
    else if hd.op = 0x88 ∨ hd.op = 0x89 ∨ hd.op = 0xA2 then !bit x.stopped h && !x.probing h && free 1
    else if hd.op = 0xA0 then warpReady x h && !x.probing h && free 1
    else x.allHeads h && free 1

/-- Does an edge or video handler break its form: a reserved `MODE` or `AUX` bit, or an operand that is no port, the b of `warp` among them
(R88, R114, R126)? DEDUCED: log 113. -/
def edgeFieldBad (x : Handler) : Bool :=
  let noPort (c : Nat) : Bool := decide (4 ≤ c)
  let mode := if x.op = 0x81 ∨ x.op = 0x87 ∨ x.op = 0x89 then x.mode &&& 14
    else if x.op = 0x84 then (if x.mode ≤ 10 then 0 else 1)
    else if x.op = 0xA1 then x.mode &&& 8
    else x.mode
  bits x.aux 9 4 != 0 || mode != 0
    || (if x.op = 0x80 then x.qreq != 0 && noPort x.opa
        else if x.op = 0x81 ∨ x.op = 0x82 ∨ x.op = 0xA1 ∨ x.op = 0xA3 then noPort x.opa
        else if x.op = 0x83 ∨ x.op = 0x8A then noPort x.opa || noPort x.opb
        else if x.op = 0x84 then noPort x.opa || noPort x.opb || (x.mode == 9 && noPort x.opc)
        else if x.op = 0x85 then noPort x.opa || noPort x.opc
        else if x.op = 0x86 ∨ x.op = 0x87 then noPort x.opa || noPort x.opb || noPort x.opc
        else if x.op = 0xA0 then noPort x.opa || noPort x.opb
        else false)

end Sys2Proof.Machine
end

