-- ==== Sys2Proof/WellFormed.lean ====
section
/-! DEFINITION. What the syntax alone cannot say: a CSR number is assigned (R176), and a step names an agent the package has (R1). -/

namespace Sys2Proof

/-- The CSR numbers that R176 assigns. -/
def csrAssigned (n : BitVec 10) : Bool :=
  [0x000, 0x001, 0x002, 0x003, 0x004, 0x005, 0x006, 0x010, 0x011, 0x020, 0x021, 0x030, 0x031, 0x032, 0x040, 0x041, 0x050,
   0x051, 0x052, 0x060, 0x061, 0x070].contains n.toNat

/-- A well-formed step: what the decoder gives, and what an agenda may hold. DESIGN CHOICE: log 10. -/
def Instr.wf : Instr → Bool
  | .nop .. => true
  | .halt .. => true
  | .trap .. => true
  | .eret .. => true
  | .ecall .. => true
  | .bkpt .. => true
  | .yield .. => true
  | .wfe .. => true
  | .sev .. => true
  | .add .. => true
  | .sub .. => true
  | .and .. => true
  | .or .. => true
  | .xor .. => true
  | .andn .. => true
  | .orn .. => true
  | .shl .. => true
  | .shr .. => true
  | .sra .. => true
  | .rol .. => true
  | .ror .. => true
  | .min .. => true
  | .max .. => true
  | .minn .. => true
  | .maxn .. => true
  | .mul .. => true
  | .mulh .. => true
  | .mulhn .. => true
  | .div .. => true
  | .divn .. => true
  | .rem .. => true
  | .remn .. => true
  | .clz .. => true
  | .ctz .. => true
  | .popc .. => true
  | .brev .. => true
  | .bswap .. => true
  | .addW .. => true
  | .subW .. => true
  | .mulW .. => true
  | .shlW .. => true
  | .shrW .. => true
  | .sraW .. => true
  | .addsat .. => true
  | .subsat .. => true
  | .sextb .. => true
  | .sexth .. => true
  | .sextw .. => true
  | .zextw .. => true
  | .ceq .. => true
  | .cne .. => true
  | .clt .. => true
  | .cle .. => true
  | .cltn .. => true
  | .clen .. => true
  | .cbit .. => true
  | .pand .. => true
  | .por .. => true
  | .pxor .. => true
  | .pandn .. => true
  | .pnot .. => true
  | .p2g .. => true
  | .g2p .. => true
  | .mov .. => true
  | .sel .. => true
  | .lea1 .. => true
  | .lea2 .. => true
  | .lea4 .. => true
  | .lea8 .. => true
  | .lea16 .. => true
  | .alignd .. => true
  | .alignn .. => true
  | .addi .. => true
  | .andi .. => true
  | .ori .. => true
  | .xori .. => true
  | .shli .. => true
  | .shri .. => true
  | .srai .. => true
  | .ceqi .. => true
  | .clti .. => true
  | .cltni .. => true
  | .ldB .. => true
  | .ldBn .. => true
  | .ldH .. => true
  | .ldHn .. => true
  | .ldW .. => true
  | .ldWn .. => true
  | .ldD .. => true
  | .stB .. => true
  | .stH .. => true
  | .stW .. => true
  | .stD .. => true
  | .ldxD .. => true
  | .stxD .. => true
  | .ldxW .. => true
  | .stxW .. => true
  | .ldNa .. => true
  | .stNa .. => true
  | .pref .. => true
  | .clean .. => true
  | .flush .. => true
  | .ldAcqCore .. => true
  | .ldAcqDie .. => true
  | .ldAcqPkg .. => true
  | .ldAcqSys .. => true
  | .stRelCore .. => true
  | .stRelDie .. => true
  | .stRelPkg .. => true
  | .stRelSys .. => true
  | .fenceCore .. => true
  | .fenceDie .. => true
  | .fencePkg .. => true
  | .fenceSys .. => true
  | .amoadd .. => true
  | .amoand .. => true
  | .amoor .. => true
  | .amoxor .. => true
  | .amomin .. => true
  | .amomax .. => true
  | .amominn .. => true
  | .amomaxn .. => true
  | .amoswap .. => true
  | .amocas .. => true
  | .amoaddW .. => true
  | .amoswapW .. => true
  | .amocasW .. => true
  | .sfence .. => true
  | .qfence .. => true
  | .barrive .. => true
  | .bwait .. => true
  | .wstamp .. => true
  | .rinit .. => true
  | .rget .. => true
  | .waitc .. => true
  | .fadd .. => true
  | .fsub .. => true
  | .fmul .. => true
  | .fmin .. => true
  | .fmax .. => true
  | .fabs .. => true
  | .fneg .. => true
  | .fceq .. => true
  | .fclt .. => true
  | .fcle .. => true
  | .fcvti .. => true
  | .fcvtf .. => true
  | .fxexp .. => true
  | .fscale .. => true
  | .ffma .. => true
  | .fclass .. => true
  | .fwbf .. => true
  | .bffw .. => true
  | .fwh .. => true
  | .hfw .. => true
  | .fws .. => true
  | .sfw .. => true
  | .fwb8 .. => true
  | .b8fw .. => true
  | .csrr _ _ csr => csrAssigned csr
  | .csrw _ _ _ csr => csrAssigned csr
  | .csrs _ _ _ csr => csrAssigned csr
  | .csrc _ _ _ csr => csrAssigned csr
  | .rgalloc .. => true
  | .rgfree .. => true
  | .cfgld .. => true
  | .cfgwr .. => true
  | .cfgsw .. => true
  | .cfgdrop .. => true
  | .cfgst .. => true
  | .rgstart .. => true
  | .rgstop .. => true
  | .rgsave .. => true
  | .rgload .. => true
  | .marker .. => true
  | .tenq .. => true
  | .cfgwrI .. => true
  | .sbind .. => true
  | .sunbind .. => true
  | .sstat .. => true
  | .spush .. => true
  | .spop .. => true
  | .seos .. => true
  | .sctl .. => true
  | .chainset .. => true
  | .chainst .. => true
  | .oclaim .. => true
  | .orel .. => true
  | .odesc .. => true
  | .mzero .. => true
  | .mtile .. => true
  | .mtilet .. => true
  | .mrec .. => true
  | .mread .. => true
  | .cpy .. => true
  | .cpym .. => true
  | .cpwp .. => true
  | .cpcancel .. => true
  | .selcfg .. => true
  | .selput .. => true
  | .seldrain .. => true
  | .selhist .. => true
  | .selarm .. => true
  | .topk .. => true
  | .hwopen .. => true
  | .hwfeed .. => true
  | .hwpic .. => true
  | .hwclose .. => true
  | .hwstat .. => true
  | .li .. => true
  | .lih .. => true
  | .addiL .. => true
  | .ldL .. => true
  | .stL .. => true
  | .br .. => true
  | .call .. => true
  | .jmp .. => true
  | .callx .. => true
  | .ret .. => true
  | .tbr .. => true
  | .bdec .. => true
  | .eventEntry t => decide (t < 1280)
  | .waitSatisfied t => decide (t < 1280)
  | .iadd e h => decide (e < 320 * 3072) && decide (h < 4)
  | .isub e h => decide (e < 320 * 3072) && decide (h < 4)
  | .imul e h => decide (e < 320 * 3072) && decide (h < 4)
  | .imulh e h => decide (e < 320 * 3072) && decide (h < 4)
  | .iand e h => decide (e < 320 * 3072) && decide (h < 4)
  | .ior e h => decide (e < 320 * 3072) && decide (h < 4)
  | .ixor e h => decide (e < 320 * 3072) && decide (h < 4)
  | .ishl e h => decide (e < 320 * 3072) && decide (h < 4)
  | .ishr e h => decide (e < 320 * 3072) && decide (h < 4)
  | .isra e h => decide (e < 320 * 3072) && decide (h < 4)
  | .imin e h => decide (e < 320 * 3072) && decide (h < 4)
  | .imax e h => decide (e < 320 * 3072) && decide (h < 4)
  | .iminn e h => decide (e < 320 * 3072) && decide (h < 4)
  | .imaxn e h => decide (e < 320 * 3072) && decide (h < 4)
  | .iabs e h => decide (e < 320 * 3072) && decide (h < 4)
  | .iaddsat e h => decide (e < 320 * 3072) && decide (h < 4)
  | .iclamp e h => decide (e < 320 * 3072) && decide (h < 4)
  | .iceq e h => decide (e < 320 * 3072) && decide (h < 4)
  | .iclt e h => decide (e < 320 * 3072) && decide (h < 4)
  | .icltn e h => decide (e < 320 * 3072) && decide (h < 4)
  | .fabricFadd e h => decide (e < 320 * 3072) && decide (h < 4)
  | .fabricFsub e h => decide (e < 320 * 3072) && decide (h < 4)
  | .fabricFmul e h => decide (e < 320 * 3072) && decide (h < 4)
  | .fabricFfma e h => decide (e < 320 * 3072) && decide (h < 4)
  | .fabricFmin e h => decide (e < 320 * 3072) && decide (h < 4)
  | .fabricFmax e h => decide (e < 320 * 3072) && decide (h < 4)
  | .fabricFabs e h => decide (e < 320 * 3072) && decide (h < 4)
  | .fabricFneg e h => decide (e < 320 * 3072) && decide (h < 4)
  | .fabricFceq e h => decide (e < 320 * 3072) && decide (h < 4)
  | .fabricFclt e h => decide (e < 320 * 3072) && decide (h < 4)
  | .frcp e h => decide (e < 320 * 3072) && decide (h < 4)
  | .frsq e h => decide (e < 320 * 3072) && decide (h < 4)
  | .fexp2 e h => decide (e < 320 * 3072) && decide (h < 4)
  | .flog2 e h => decide (e < 320 * 3072) && decide (h < 4)
  | .fabricFscale e h => decide (e < 320 * 3072) && decide (h < 4)
  | .fabricFxexp e h => decide (e < 320 * 3072) && decide (h < 4)
  | .fabricFcvti e h => decide (e < 320 * 3072) && decide (h < 4)
  | .fabricFcvtf e h => decide (e < 320 * 3072) && decide (h < 4)
  | .fabricMov e h => decide (e < 320 * 3072) && decide (h < 4)
  | .fabricSel e h => decide (e < 320 * 3072) && decide (h < 4)
  | .steer e h => decide (e < 320 * 3072) && decide (h < 4)
  | .merge e h => decide (e < 320 * 3072) && decide (h < 4)
  | .carry e h => decide (e < 320 * 3072) && decide (h < 4)
  | .inv e h => decide (e < 320 * 3072) && decide (h < 4)
  | .gate e h => decide (e < 320 * 3072) && decide (h < 4)
  | .filt e h => decide (e < 320 * 3072) && decide (h < 4)
  | .dup e h => decide (e < 320 * 3072) && decide (h < 4)
  | .drop e h => decide (e < 320 * 3072) && decide (h < 4)
  | .cntr e h => decide (e < 320 * 3072) && decide (h < 4)
  | .sink e h => decide (e < 320 * 3072) && decide (h < 4)
  | .accg e h => decide (e < 320 * 3072) && decide (h < 4)
  | .maxg e h => decide (e < 320 * 3072) && decide (h < 4)
  | .argmx e h => decide (e < 320 * 3072) && decide (h < 4)
  | .cntg e h => decide (e < 320 * 3072) && decide (h < 4)
  | .hdrw e h => decide (e < 320 * 3072) && decide (h < 4)
  | .scal e h => decide (e < 320 * 3072) && decide (h < 4)
  | .grpc e h => decide (e < 320 * 3072) && decide (h < 4)
  | .ldst e h => decide (e < 320 * 3072) && decide (h < 4)
  | .stst e h => decide (e < 320 * 3072) && decide (h < 4)
  | .ldg e h => decide (e < 320 * 3072) && decide (h < 4)
  | .stg e h => decide (e < 320 * 3072) && decide (h < 4)
  | .amo e h => decide (e < 320 * 3072) && decide (h < 4)
  | .chld e h => decide (e < 320 * 3072) && decide (h < 4)
  | .chst e h => decide (e < 320 * 3072) && decide (h < 4)
  | .chadd e h => decide (e < 320 * 3072) && decide (h < 4)
  | .btwalk e h => decide (e < 320 * 3072) && decide (h < 4)
  | .cfrd e h => decide (e < 320 * 3072) && decide (h < 4)
  | .selin e h => decide (e < 320 * 3072) && decide (h < 4)
  | .warp e h => decide (e < 320 * 3072) && decide (h < 4)
  | .drift e h => decide (e < 320 * 3072) && decide (h < 4)
  | .mvcell e h => decide (e < 320 * 3072) && decide (h < 4)
  | .rfq e h => decide (e < 320 * 3072) && decide (h < 4)
  | .edgeAccessComplete e _ => decide (e < 320 * 3072)
  | .headerLatch e q h => decide (e < 320 * 3072) && decide (q < 4) && decide (h < 4)
  | .tokenSend e src => decide (e < 320 * 3072) && decide (src < 6)
  | .rollback r => decide (r < 1280)
  | .watchdog r => decide (r < 1280)
  | .snapshotRecord e => decide (e < 320 * 3072)
  | .cutComplete r => decide (r < 1280)
  | .loadBegin r => decide (r < 1280)
  | .loadCommand r => decide (r < 1280)
  | .seal r => decide (r < 1280)
  | .flip e => decide (e < 320 * 3072)
  | .elementClockGate e => decide (e < 320 * 3072)
  | .elementWake e => decide (e < 320 * 3072)
  | .sectorWake c x => decide (c < 320) && decide (x < 12)
  | .regionCompletion r => decide (r < 1280)
  | .taskInsertion d => decide (d < 8)
  | .dependencePoll d => decide (d < 8)
  | .taskBinding d => decide (d < 8)
  | .periodStart => true
  | .stopRequest d tag => decide (d < 8) && decide (0 < tag ∧ tag < 2 ^ 32)
  | .forcePoint d tag => decide (d < 8) && decide (0 < tag ∧ tag < 2 ^ 32)
  | .regionFreeze r => decide (r < 1280)
  | .contextSave r => decide (r < 1280)
  | .taskRestore d tag => decide (d < 8) && decide (0 < tag ∧ tag < 2 ^ 32)
  | .pictureComplete n => decide (n < 1024)
  | .abortClose n => decide (n < 1024)
  | .chunkConsumed n => decide (n < 1024)
  | .copyBegin k _ => decide (k < 1280)
  | .copyCompletionPoint k => decide (k < 1280)
  | .matrixCommandStart c => decide (c < 320)
  | .matrixCommandComplete c => decide (c < 320)
  | .slotRelease k => decide (k < 5120)
  | .slotCleared k => decide (k < 5120)
  | .sluiceAccept c => decide (c < 320)
  | .sluiceDrain c => decide (c < 320)
  | .chainAccept e _ => decide (e < 320 * 3072)
  | .chainPerform k => decide (k < 32768)
  | .chainGap k => decide (k < 32768)
  | .chainOverflow u => decide (u < 128)
  | .memoryNodeFault agt _ => decide (agt < 8)
  | .storeErrorResponse t _ => decide (t < 1280)
  | .hotBitClear _ => true
  | .slotTableRound d pc => decide (d < 8) && decide (pc < 64)
  | .hostMemAccess _ off n _ => decide (off < 384 * 2 ^ 30) && decide (0 < n ∧ n ≤ 8)
  | .hostSnoop d _ => decide (d < 8)
  | .tinvc d _ => decide (d < 8)
  | .invalidationComplete d => decide (d < 8)
  | .tail q _ => decide (q < 4096)
  | .qen q _ => decide (q < 4096)
  | .launchRecordOffer q => decide (q < 4096)
  | .interruptRegister t _ => decide (t < 1280)
  | .registerWrite _ n _ => decide (0 < n ∧ n ≤ 8)
  | .pbrIdAssign i0 i1 i2 i3 => decide (i0 < 4096) && decide (i1 < 4096) && decide (i2 < 4096) && decide (i3 < 4096)
  | .attest nonce => decide (nonce.length ≤ 4096)
  | .dbgopen _ _ tok => decide (tok.length ≤ 4096)
  | .dbgclose => true
  | .fence _ => true
  | .unfence _ => true
  | .image _ => true
  | .record _ => true
  | .dhold _ => true
  | .dstep _ => true
  | .drun _ => true
  | .dread _ _ => true
  | .powerOn => true
  | .coreOff c => decide (c < 320)
  | .coreWake c => decide (c < 320)
  | .dieRetention d => decide (d < 8)
  | .dieWake d => decide (d < 8)
  | .debugWakeExpiry c => decide (c < 320)
  | .illegalBlock t => decide (t < 1280)
  | .illegalInstruction t => decide (t < 1280)
  | .drainTimeExpiry d tag => decide (d < 8) && decide (0 < tag ∧ tag < 2 ^ 32)
  | .sectorPowerOff c x => decide (c < 320) && decide (x < 12)
  | .junctionTemperature _ => true

end Sys2Proof
end

