-- ==== Sys2Proof/Decode.lean ====
section
/-! DEFINITION. The instruction formats and the opcode map (R169 to R177): a total decoder that rejects by name, and
the encoder written from the same tables. -/

namespace Sys2Proof

/-- Why a word is an illegal instruction: the five properties of R177, and a byte string that ends inside a word. -/
inductive Illegal where
  | reservedMajor
  | unassignedFn
  | unfilledField
  | longForm
  | unassignedCsr
  | truncated
  deriving DecidableEq, Repr

/-- The fields of the R format (R169). The other formats join neighbouring fields of it. -/
structure Fields where
  p : Pr
  maj : BitVec 6
  gd : BitVec 6
  ga : BitVec 6
  gb : BitVec 6
  fn : BitVec 4
  deriving DecidableEq, Repr

/-- The fields of a word (R169): `PR` 31..29, `PN` 28, `MAJ` 27..22, `GD` 21..16, `GA` 15..10, `GB` 9..4, `FN` 3..0. -/
def fieldsOf (w : W32) : Fields :=
  { p := { pr := w.extractLsb' 29 3, pn := w.getLsbD 28 }
    maj := w.extractLsb' 22 6
    gd := w.extractLsb' 16 6
    ga := w.extractLsb' 10 6
    gb := w.extractLsb' 4 6
    fn := w.extractLsb' 0 4 }

/-- The word that holds the fields (R169). -/
def wordOf (f : Fields) : W32 :=
  f.p.pr ++ (BitVec.ofBool f.p.pn) ++ f.maj ++ f.gd ++ f.ga ++ f.gb ++ f.fn

/-- The 10-bit immediate or CSR number of bits 9..0 (R169). -/
def Fields.low10 (f : Fields) : BitVec 10 := f.gb ++ f.fn

/-- The 16-bit offset of bits 15..0 (R169). -/
def Fields.low16 (f : Fields) : BitVec 16 := f.ga ++ f.gb ++ f.fn

/-- The 22-bit offset of bits 21..0 (R169). -/
def Fields.low22 (f : Fields) : BitVec 22 := f.gd ++ f.ga ++ f.gb ++ f.fn

/-- A predicate operand: bits 2..0 name it and bits 5..3 are zero (R169). -/
def predOf (x : BitVec 6) : Except Illegal PReg :=
  if x.extractLsb' 3 3 = 0#3 then .ok (x.extractLsb' 0 3) else .error .unfilledField

/-- A register field that holds a predicate (R169). -/
def predField (d : PReg) : BitVec 6 := 0#3 ++ d

/-- Answer `i` when the fields a form does not fill are zero (R170, R177). -/
def filled (ok : Bool) (i : Instr) : Except Illegal Instr :=
  if ok then .ok i else .error .unfilledField

/-- The fields of a form that fills `GD`, `GA`, `GB` (R170). -/
def fieldsR (p : Pr) (maj : BitVec 6) (gd ga gb : BitVec 6) (fn : BitVec 4) : Fields :=
  { p := p, maj := maj, gd := gd, ga := ga, gb := gb, fn := fn }

/-- The fields of the I and CSR formats (R169). -/
def fieldsI (p : Pr) (maj : BitVec 6) (gd ga : BitVec 6) (imm : BitVec 10) : Fields :=
  { p := p, maj := maj, gd := gd, ga := ga, gb := imm.extractLsb' 4 6, fn := imm.extractLsb' 0 4 }

/-- The fields of the count-branch format (R169). -/
def fieldsC (p : Pr) (maj : BitVec 6) (gd : BitVec 6) (off : BitVec 16) : Fields :=
  { p := p, maj := maj, gd := gd, ga := off.extractLsb' 10 6, gb := off.extractLsb' 4 6, fn := off.extractLsb' 0 4 }

/-- The fields of the branch format (R169). -/
def fieldsB (p : Pr) (maj : BitVec 6) (off : BitVec 22) : Fields :=
  { p := p, maj := maj, gd := off.extractLsb' 16 6, ga := off.extractLsb' 10 6, gb := off.extractLsb' 4 6
    fn := off.extractLsb' 0 4 }

/-- Major 0x00, register form: `FN` selects the row (R174). -/
def decodeSys (f : Fields) : Except Illegal Instr :=
  match f.fn.toNat with
  | 0 => filled (f.gd == 0 && f.ga == 0 && f.gb == 0) (.nop f.p)
  | 1 => filled (f.gd == 0 && f.ga == 0 && f.gb == 0) (.halt f.p)
  | 2 => filled (f.gd == 0 && f.ga == 0) (.trap f.p f.gb)
  | 3 => filled (f.gd == 0 && f.ga == 0 && f.gb == 0) (.eret f.p)
  | 4 => filled (f.gd == 0 && f.ga == 0) (.ecall f.p f.gb)
  | 5 => filled (f.gd == 0 && f.ga == 0) (.bkpt f.p f.gb)
  | 6 => filled (f.gd == 0 && f.ga == 0 && f.gb == 0) (.yield f.p)
  | 7 => filled (f.gd == 0 && f.ga == 0 && f.gb == 0) (.wfe f.p)
  | 8 => filled (f.gd == 0 && f.ga == 0 && f.gb == 0) (.sev f.p)
  | _ => .error .unassignedFn

/-- Major 0x01, register form: `FN` selects the row (R174). -/
def decodeAluA (f : Fields) : Except Illegal Instr :=
  match f.fn.toNat with
  | 0 => .ok (.add f.p f.gd f.ga f.gb)
  | 1 => .ok (.sub f.p f.gd f.ga f.gb)
  | 2 => .ok (.and f.p f.gd f.ga f.gb)
  | 3 => .ok (.or f.p f.gd f.ga f.gb)
  | 4 => .ok (.xor f.p f.gd f.ga f.gb)
  | 5 => .ok (.andn f.p f.gd f.ga f.gb)
  | 6 => .ok (.orn f.p f.gd f.ga f.gb)
  | 7 => .ok (.shl f.p f.gd f.ga f.gb)
  | 8 => .ok (.shr f.p f.gd f.ga f.gb)
  | 9 => .ok (.sra f.p f.gd f.ga f.gb)
  | 10 => .ok (.rol f.p f.gd f.ga f.gb)
  | 11 => .ok (.ror f.p f.gd f.ga f.gb)
  | 12 => .ok (.min f.p f.gd f.ga f.gb)
  | 13 => .ok (.max f.p f.gd f.ga f.gb)
  | 14 => .ok (.minn f.p f.gd f.ga f.gb)
  | 15 => .ok (.maxn f.p f.gd f.ga f.gb)
  | _ => .error .unassignedFn

/-- Major 0x02, register form: `FN` selects the row (R174). -/
def decodeAluB (f : Fields) : Except Illegal Instr :=
  match f.fn.toNat with
  | 0 => .ok (.mul f.p f.gd f.ga f.gb)
  | 1 => .ok (.mulh f.p f.gd f.ga f.gb)
  | 2 => .ok (.mulhn f.p f.gd f.ga f.gb)
  | 3 => .ok (.div f.p f.gd f.ga f.gb)
  | 4 => .ok (.divn f.p f.gd f.ga f.gb)
  | 5 => .ok (.rem f.p f.gd f.ga f.gb)
  | 6 => .ok (.remn f.p f.gd f.ga f.gb)
  | 7 => filled (f.gb == 0) (.clz f.p f.gd f.ga)
  | 8 => filled (f.gb == 0) (.ctz f.p f.gd f.ga)
  | 9 => filled (f.gb == 0) (.popc f.p f.gd f.ga)
  | 10 => filled (f.gb == 0) (.brev f.p f.gd f.ga)
  | 11 => filled (f.gb == 0) (.bswap f.p f.gd f.ga)
  | _ => .error .unassignedFn

/-- Major 0x03, register form: `FN` selects the row (R174). -/
def decodeAluW (f : Fields) : Except Illegal Instr :=
  match f.fn.toNat with
  | 0 => .ok (.addW f.p f.gd f.ga f.gb)
  | 1 => .ok (.subW f.p f.gd f.ga f.gb)
  | 2 => .ok (.mulW f.p f.gd f.ga f.gb)
  | 3 => .ok (.shlW f.p f.gd f.ga f.gb)
  | 4 => .ok (.shrW f.p f.gd f.ga f.gb)
  | 5 => .ok (.sraW f.p f.gd f.ga f.gb)
  | 6 => .ok (.addsat f.p f.gd f.ga f.gb)
  | 7 => .ok (.subsat f.p f.gd f.ga f.gb)
  | 8 => filled (f.gb == 0) (.sextb f.p f.gd f.ga)
  | 9 => filled (f.gb == 0) (.sexth f.p f.gd f.ga)
  | 10 => filled (f.gb == 0) (.sextw f.p f.gd f.ga)
  | 11 => filled (f.gb == 0) (.zextw f.p f.gd f.ga)
  | _ => .error .unassignedFn

/-- Major 0x04, register form: `FN` selects the row (R174). -/
def decodeCmp (f : Fields) : Except Illegal Instr :=
  match f.fn.toNat with
  | 0 => (predOf f.gd).bind fun d => .ok (.ceq f.p d f.ga f.gb)
  | 1 => (predOf f.gd).bind fun d => .ok (.cne f.p d f.ga f.gb)
  | 2 => (predOf f.gd).bind fun d => .ok (.clt f.p d f.ga f.gb)
  | 3 => (predOf f.gd).bind fun d => .ok (.cle f.p d f.ga f.gb)
  | 4 => (predOf f.gd).bind fun d => .ok (.cltn f.p d f.ga f.gb)
  | 5 => (predOf f.gd).bind fun d => .ok (.clen f.p d f.ga f.gb)
  | 6 => (predOf f.gd).bind fun d => .ok (.cbit f.p d f.ga f.gb)
  | 7 => (predOf f.gd).bind fun d => (predOf f.ga).bind fun a => (predOf f.gb).bind fun b => .ok (.pand f.p d a b)
  | 8 => (predOf f.gd).bind fun d => (predOf f.ga).bind fun a => (predOf f.gb).bind fun b => .ok (.por f.p d a b)
  | 9 => (predOf f.gd).bind fun d => (predOf f.ga).bind fun a => (predOf f.gb).bind fun b => .ok (.pxor f.p d a b)
  | 10 => (predOf f.gd).bind fun d => (predOf f.ga).bind fun a => (predOf f.gb).bind fun b => .ok (.pandn f.p d a b)
  | 11 => (predOf f.gd).bind fun d => (predOf f.ga).bind fun a => filled (f.gb == 0) (.pnot f.p d a)
  | 12 => (predOf f.ga).bind fun a => filled (f.gb == 0) (.p2g f.p f.gd a)
  | 13 => (predOf f.gd).bind fun d => filled (f.gb == 0) (.g2p f.p d f.ga)
  | _ => .error .unassignedFn

/-- Major 0x05, register form: `FN` selects the row (R174). -/
def decodeMov (f : Fields) : Except Illegal Instr :=
  match f.fn.toNat with
  | 0 => filled (f.gb == 0) (.mov f.p f.gd f.ga)
  | 1 => .ok (.sel f.p f.gd f.ga f.gb)
  | 2 => .ok (.lea1 f.p f.gd f.ga f.gb)
  | 3 => .ok (.lea2 f.p f.gd f.ga f.gb)
  | 4 => .ok (.lea4 f.p f.gd f.ga f.gb)
  | 5 => .ok (.lea8 f.p f.gd f.ga f.gb)
  | 6 => .ok (.lea16 f.p f.gd f.ga f.gb)
  | 7 => .ok (.alignd f.p f.gd f.ga f.gb)
  | 8 => .ok (.alignn f.p f.gd f.ga f.gb)
  | _ => .error .unassignedFn

/-- Major 0x1B, register form: `FN` selects the row (R174). -/
def decodeMemx (f : Fields) : Except Illegal Instr :=
  match f.fn.toNat with
  | 0 => .ok (.ldxD f.p f.gd f.ga f.gb)
  | 1 => .ok (.stxD f.p f.gd f.ga f.gb)
  | 2 => .ok (.ldxW f.p f.gd f.ga f.gb)
  | 3 => .ok (.stxW f.p f.gd f.ga f.gb)
  | 4 => filled (f.gb == 0) (.ldNa f.p f.gd f.ga)
  | 5 => filled (f.gb == 0) (.stNa f.p f.gd f.ga)
  | 6 => filled (f.gd == 0 && f.gb == 0) (.pref f.p f.ga)
  | 7 => filled (f.gd == 0 && f.gb == 0) (.clean f.p f.ga)
  | 8 => filled (f.gd == 0 && f.gb == 0) (.flush f.p f.ga)
  | _ => .error .unassignedFn

/-- Major 0x1C, register form: `FN` selects the row (R174, R175). -/
def decodeOrd (f : Fields) : Except Illegal Instr :=
  match f.fn.toNat with
  | 0 => filled (f.gb == 0) (.ldAcqCore f.p f.gd f.ga)
  | 1 => filled (f.gb == 0) (.ldAcqDie f.p f.gd f.ga)
  | 2 => filled (f.gb == 0) (.ldAcqPkg f.p f.gd f.ga)
  | 3 => filled (f.gb == 0) (.ldAcqSys f.p f.gd f.ga)
  | 4 => filled (f.gb == 0) (.stRelCore f.p f.gd f.ga)
  | 5 => filled (f.gb == 0) (.stRelDie f.p f.gd f.ga)
  | 6 => filled (f.gb == 0) (.stRelPkg f.p f.gd f.ga)
  | 7 => filled (f.gb == 0) (.stRelSys f.p f.gd f.ga)
  | 8 => filled (f.gd == 0 && f.ga == 0 && f.gb == 0) (.fenceCore f.p)
  | 9 => filled (f.gd == 0 && f.ga == 0 && f.gb == 0) (.fenceDie f.p)
  | 10 => filled (f.gd == 0 && f.ga == 0 && f.gb == 0) (.fencePkg f.p)
  | 11 => filled (f.gd == 0 && f.ga == 0 && f.gb == 0) (.fenceSys f.p)
  | _ => .error .unassignedFn

/-- Major 0x1D, register form: `FN` selects the row (R174). -/
def decodeAtom (f : Fields) : Except Illegal Instr :=
  match f.fn.toNat with
  | 0 => .ok (.amoadd f.p f.gd f.ga f.gb)
  | 1 => .ok (.amoand f.p f.gd f.ga f.gb)
  | 2 => .ok (.amoor f.p f.gd f.ga f.gb)
  | 3 => .ok (.amoxor f.p f.gd f.ga f.gb)
  | 4 => .ok (.amomin f.p f.gd f.ga f.gb)
  | 5 => .ok (.amomax f.p f.gd f.ga f.gb)
  | 6 => .ok (.amominn f.p f.gd f.ga f.gb)
  | 7 => .ok (.amomaxn f.p f.gd f.ga f.gb)
  | 8 => .ok (.amoswap f.p f.gd f.ga f.gb)
  | 9 => .ok (.amocas f.p f.gd f.ga f.gb)
  | 10 => .ok (.amoaddW f.p f.gd f.ga f.gb)
  | 11 => .ok (.amoswapW f.p f.gd f.ga f.gb)
  | 12 => .ok (.amocasW f.p f.gd f.ga f.gb)
  | _ => .error .unassignedFn

/-- Major 0x1E, register form: `FN` selects the row (R174). -/
def decodeSync (f : Fields) : Except Illegal Instr :=
  match f.fn.toNat with
  | 0 => filled (f.ga == 0 && f.gb == 0) (.sfence f.p f.gd)
  | 1 => filled (f.ga == 0 && f.gb == 0) (.qfence f.p f.gd)
  | 2 => filled (f.gb == 0) (.barrive f.p f.gd f.ga)
  | 3 => filled (f.gb == 0) (.bwait f.p f.gd f.ga)
  | 4 => filled (f.gb == 0) (.wstamp f.p f.gd f.ga)
  | 5 => .ok (.rinit f.p f.gd f.ga f.gb)
  | 6 => .ok (.rget f.p f.gd f.ga f.gb)
  | _ => .error .unassignedFn

/-- Major 0x20, register form: `FN` selects the row (R174). -/
def decodeFpu (f : Fields) : Except Illegal Instr :=
  match f.fn.toNat with
  | 0 => .ok (.fadd f.p f.gd f.ga f.gb)
  | 1 => .ok (.fsub f.p f.gd f.ga f.gb)
  | 2 => .ok (.fmul f.p f.gd f.ga f.gb)
  | 3 => .ok (.fmin f.p f.gd f.ga f.gb)
  | 4 => .ok (.fmax f.p f.gd f.ga f.gb)
  | 5 => filled (f.gb == 0) (.fabs f.p f.gd f.ga)
  | 6 => filled (f.gb == 0) (.fneg f.p f.gd f.ga)
  | 7 => (predOf f.gd).bind fun d => .ok (.fceq f.p d f.ga f.gb)
  | 8 => (predOf f.gd).bind fun d => .ok (.fclt f.p d f.ga f.gb)
  | 9 => (predOf f.gd).bind fun d => .ok (.fcle f.p d f.ga f.gb)
  | 10 => filled (f.gb == 0) (.fcvti f.p f.gd f.ga)
  | 11 => filled (f.gb == 0) (.fcvtf f.p f.gd f.ga)
  | 12 => filled (f.gb == 0) (.fxexp f.p f.gd f.ga)
  | 13 => .ok (.fscale f.p f.gd f.ga f.gb)
  | 14 => .ok (.ffma f.p f.gd f.ga f.gb)
  | 15 => filled (f.gb == 0) (.fclass f.p f.gd f.ga)
  | _ => .error .unassignedFn

/-- Major 0x21, register form: `FN` selects the row (R174). -/
def decodeFcvt (f : Fields) : Except Illegal Instr :=
  match f.fn.toNat with
  | 0 => filled (f.gb == 0) (.fwbf f.p f.gd f.ga)
  | 1 => filled (f.gb == 0) (.bffw f.p f.gd f.ga)
  | 2 => filled (f.gb == 0) (.fwh f.p f.gd f.ga)
  | 3 => filled (f.gb == 0) (.hfw f.p f.gd f.ga)
  | 4 => filled (f.gb == 0) (.fws f.p f.gd f.ga)
  | 5 => filled (f.gb == 0) (.sfw f.p f.gd f.ga)
  | 6 => filled (f.gb == 0) (.fwb8 f.p f.gd f.ga)
  | 7 => filled (f.gb == 0) (.b8fw f.p f.gd f.ga)
  | _ => .error .unassignedFn

/-- Major 0x26, register form: `FN` selects the row (R174). -/
def decodeCfg (f : Fields) : Except Illegal Instr :=
  match f.fn.toNat with
  | 0 => filled (f.gb == 0) (.rgalloc f.p f.gd f.ga)
  | 1 => filled (f.ga == 0 && f.gb == 0) (.rgfree f.p f.gd)
  | 2 => filled (f.gb == 0) (.cfgld f.p f.gd f.ga)
  | 3 => filled (f.gb == 0) (.cfgwr f.p f.gd f.ga)
  | 4 => filled (f.ga == 0 && f.gb == 0) (.cfgsw f.p f.gd)
  | 5 => filled (f.ga == 0 && f.gb == 0) (.cfgdrop f.p f.gd)
  | 6 => filled (f.gb == 0) (.cfgst f.p f.gd f.ga)
  | 7 => .ok (.rgstart f.p f.gd f.ga f.gb)
  | 8 => filled (f.ga == 0 && f.gb == 0) (.rgstop f.p f.gd)
  | 9 => filled (f.gb == 0) (.rgsave f.p f.gd f.ga)
  | 10 => filled (f.gb == 0) (.rgload f.p f.gd f.ga)
  | 11 => filled (f.ga == 0 && f.gb == 0) (.marker f.p f.gd)
  | 12 => filled (f.gb == 0) (.tenq f.p f.gd f.ga)
  | _ => .error .unassignedFn

/-- Major 0x27, register form: `FN` selects the row (R174). -/
def decodeStrm (f : Fields) : Except Illegal Instr :=
  match f.fn.toNat with
  | 0 => filled (f.gb == 0) (.sbind f.p f.gd f.ga)
  | 1 => filled (f.ga == 0 && f.gb == 0) (.sunbind f.p f.gd)
  | 2 => filled (f.gb == 0) (.sstat f.p f.gd f.ga)
  | 3 => filled (f.gb == 0) (.spush f.p f.gd f.ga)
  | 4 => filled (f.gb == 0) (.spop f.p f.gd f.ga)
  | 5 => filled (f.ga == 0 && f.gb == 0) (.seos f.p f.gd)
  | 6 => filled (f.gb == 0) (.sctl f.p f.gd f.ga)
  | 7 => filled (f.gb == 0) (.chainset f.p f.gd f.ga)
  | 8 => filled (f.gb == 0) (.chainst f.p f.gd f.ga)
  | _ => .error .unassignedFn

/-- Major 0x28, register form: `FN` selects the row (R174). -/
def decodeMtx (f : Fields) : Except Illegal Instr :=
  match f.fn.toNat with
  | 0 => filled (f.gb == 0) (.oclaim f.p f.gd f.ga)
  | 1 => filled (f.ga == 0 && f.gb == 0) (.orel f.p f.gd)
  | 2 => filled (f.gb == 0) (.odesc f.p f.gd f.ga)
  | 3 => filled (f.gb == 0) (.mzero f.p f.gd f.ga)
  | 4 => .ok (.mtile f.p f.gd f.ga f.gb)
  | 5 => .ok (.mtilet f.p f.gd f.ga f.gb)
  | 6 => .ok (.mrec f.p f.gd f.ga f.gb)
  | 7 => .ok (.mread f.p f.gd f.ga f.gb)
  | _ => .error .unassignedFn

/-- Major 0x29, register form: `FN` selects the row (R174). -/
def decodeCpy (f : Fields) : Except Illegal Instr :=
  match f.fn.toNat with
  | 0 => filled (f.gb == 0) (.cpy f.p f.gd f.ga)
  | 1 => .ok (.cpym f.p f.gd f.ga f.gb)
  | 2 => filled (f.gb == 0) (.cpwp f.p f.gd f.ga)
  | 3 => filled (f.ga == 0 && f.gb == 0) (.cpcancel f.p f.gd)
  | _ => .error .unassignedFn

/-- Major 0x2A, register form: `FN` selects the row (R174). -/
def decodeSel (f : Fields) : Except Illegal Instr :=
  match f.fn.toNat with
  | 0 => filled (f.ga == 0 && f.gb == 0) (.selcfg f.p f.gd)
  | 1 => filled (f.gb == 0) (.selput f.p f.gd f.ga)
  | 2 => filled (f.ga == 0 && f.gb == 0) (.seldrain f.p f.gd)
  | 3 => filled (f.gb == 0) (.selhist f.p f.gd f.ga)
  | 4 => filled (f.gb == 0) (.selarm f.p f.gd f.ga)
  | 5 => filled (f.gb == 0) (.topk f.p f.gd f.ga)
  | _ => .error .unassignedFn

/-- Major 0x2B, register form: `FN` selects the row (R174). -/
def decodeHwe (f : Fields) : Except Illegal Instr :=
  match f.fn.toNat with
  | 0 => filled (f.gb == 0) (.hwopen f.p f.gd f.ga)
  | 1 => .ok (.hwfeed f.p f.gd f.ga f.gb)
  | 2 => .ok (.hwpic f.p f.gd f.ga f.gb)
  | 3 => filled (f.gb == 0) (.hwclose f.p f.gd f.ga)
  | 4 => filled (f.gb == 0) (.hwstat f.p f.gd f.ga)
  | _ => .error .unassignedFn

/-- Major 0x3A, register form: `FN` selects the row (R174). -/
def decodeBrx (f : Fields) : Except Illegal Instr :=
  match f.fn.toNat with
  | 0 => filled (f.ga == 0 && f.gb == 0) (.jmp f.p f.gd)
  | 1 => filled (f.ga == 0 && f.gb == 0) (.callx f.p f.gd)
  | 2 => filled (f.gd == 0 && f.ga == 0 && f.gb == 0) (.ret f.p)
  | 3 => filled (f.gb == 0) (.tbr f.p f.gd f.ga)
  | _ => .error .unassignedFn

/-- Decode the fields of a first word and its extension word (R174). -/
def decodeFields (f : Fields) (ext : W32) : Except Illegal Instr :=
  match f.maj.toNat with
  | 0x00 => decodeSys f
  | 0x01 => decodeAluA f
  | 0x02 => decodeAluB f
  | 0x03 => decodeAluW f
  | 0x04 => decodeCmp f
  | 0x05 => decodeMov f
  | 0x06 => .ok (.addi f.p f.gd f.ga f.low10)
  | 0x07 => .ok (.andi f.p f.gd f.ga f.low10)
  | 0x08 => .ok (.ori f.p f.gd f.ga f.low10)
  | 0x09 => .ok (.xori f.p f.gd f.ga f.low10)
  | 0x0A => .ok (.shli f.p f.gd f.ga f.low10)
  | 0x0B => .ok (.shri f.p f.gd f.ga f.low10)
  | 0x0C => .ok (.srai f.p f.gd f.ga f.low10)
  | 0x0D => (predOf f.gd).bind fun d => .ok (.ceqi f.p d f.ga f.low10)
  | 0x0E => (predOf f.gd).bind fun d => .ok (.clti f.p d f.ga f.low10)
  | 0x0F => (predOf f.gd).bind fun d => .ok (.cltni f.p d f.ga f.low10)
  | 0x10 => .ok (.ldB f.p f.gd f.ga f.low10)
  | 0x11 => .ok (.ldBn f.p f.gd f.ga f.low10)
  | 0x12 => .ok (.ldH f.p f.gd f.ga f.low10)
  | 0x13 => .ok (.ldHn f.p f.gd f.ga f.low10)
  | 0x14 => .ok (.ldW f.p f.gd f.ga f.low10)
  | 0x15 => .ok (.ldWn f.p f.gd f.ga f.low10)
  | 0x16 => .ok (.ldD f.p f.gd f.ga f.low10)
  | 0x17 => .ok (.stB f.p f.gd f.ga f.low10)
  | 0x18 => .ok (.stH f.p f.gd f.ga f.low10)
  | 0x19 => .ok (.stW f.p f.gd f.ga f.low10)
  | 0x1A => .ok (.stD f.p f.gd f.ga f.low10)
  | 0x1B => decodeMemx f
  | 0x1C => decodeOrd f
  | 0x1D => decodeAtom f
  | 0x1E => decodeSync f
  | 0x1F => .ok (.waitc f.p f.gd f.ga (f.low10.extractLsb' 5 5) (f.low10.extractLsb' 0 5))
  | 0x20 => decodeFpu f
  | 0x21 => decodeFcvt f
  | 0x22 => if f.ga == 0 then (if csrAssigned f.low10 then .ok (.csrr f.p f.gd f.low10) else .error .unassignedCsr) else .error .unfilledField
  | 0x23 => if csrAssigned f.low10 then .ok (.csrw f.p f.gd f.ga f.low10) else .error .unassignedCsr
  | 0x24 => if csrAssigned f.low10 then .ok (.csrs f.p f.gd f.ga f.low10) else .error .unassignedCsr
  | 0x25 => if csrAssigned f.low10 then .ok (.csrc f.p f.gd f.ga f.low10) else .error .unassignedCsr
  | 0x26 => decodeCfg f
  | 0x27 => decodeStrm f
  | 0x28 => decodeMtx f
  | 0x29 => decodeCpy f
  | 0x2A => decodeSel f
  | 0x2B => decodeHwe f
  | 0x30 => if f.low10 == 0 then filled (f.ga == 0) (.li f.p f.gd ext) else .error .longForm
  | 0x31 => if f.low10 == 0 then filled (f.ga == 0) (.lih f.p f.gd ext) else .error .longForm
  | 0x32 => if f.low10 == 0 then .ok (.addiL f.p f.gd f.ga ext) else .error .longForm
  | 0x33 => if f.low10 == 0 then .ok (.ldL f.p f.gd f.ga ext) else .error .longForm
  | 0x34 => if f.low10 == 0 then .ok (.stL f.p f.gd f.ga ext) else .error .longForm
  | 0x35 => if f.low10 == 0 then filled (f.ga == 0) (.cfgwrI f.p f.gd ext) else .error .longForm
  | 0x38 => .ok (.br f.p f.low22)
  | 0x39 => .ok (.call f.p f.low22)
  | 0x3A => decodeBrx f
  | 0x3B => .ok (.bdec f.p f.gd f.low16)
  | _ => .error .reservedMajor

/-- Decode a word, with the word after it as its extension word if it is a long form (R172). -/
def decode (w ext : W32) : Except Illegal Instr := decodeFields (fieldsOf w) ext

/-- The majors of the long forms (R172). -/
def isLongMajor (maj : BitVec 6) : Bool := 0x30 ≤ maj.toNat && maj.toNat ≤ 0x35

/-- A first word whose major is a long form's takes an extension word (R172). -/
def isLong (w : W32) : Bool := isLongMajor (fieldsOf w).maj

/-- The little-endian word of four bytes (R3). -/
def wordOfBytes (b0 b1 b2 b3 : Byte) : W32 := b3 ++ b2 ++ b1 ++ b0

/-- The four bytes of a word, lowest address first (R3). -/
def bytesOfWord (w : W32) : List Byte :=
  [w.extractLsb' 0 8, w.extractLsb' 8 8, w.extractLsb' 16 8, w.extractLsb' 24 8]

/-- Decode the first instruction of a byte string: the instruction and the bytes after it. -/
def decodeBytes : List Byte → Except Illegal (Instr × List Byte)
  | b0 :: b1 :: b2 :: b3 :: rest =>
    let w := wordOfBytes b0 b1 b2 b3
    if isLong w then
      match rest with
      | c0 :: c1 :: c2 :: c3 :: rest' => (decode w (wordOfBytes c0 c1 c2 c3)).map fun i => (i, rest')
      | _ => .error .truncated
    else (decode w 0).map fun i => (i, rest)
  | _ => .error .truncated

/-- Is the word an exit instruction (R167)? -/
def Instr.isExit : Instr → Bool
  | .br .. | .call .. | .jmp .. | .callx .. | .ret .. | .tbr .. | .bdec .. | .halt .. | .trap .. | .eret .. | .ecall .. => true
  | _ => false

/-- Is the word a fence (R202)? -/
def Instr.isFence : Instr → Bool
  | .fenceCore _ | .fenceDie _ | .fencePkg _ | .fenceSys _ => true
  | _ => false

/-- The fields of an instruction word and its extension word, from R169 to R175; a step that no word names has none. -/
def encodeFields : Instr → Option (Fields × Option W32)
  | .nop p => some (fieldsR p 0x00 0 0 0 0, none)
  | .halt p => some (fieldsR p 0x00 0 0 0 1, none)
  | .trap p code => some (fieldsR p 0x00 0 0 code 2, none)
  | .eret p => some (fieldsR p 0x00 0 0 0 3, none)
  | .ecall p code => some (fieldsR p 0x00 0 0 code 4, none)
  | .bkpt p code => some (fieldsR p 0x00 0 0 code 5, none)
  | .yield p => some (fieldsR p 0x00 0 0 0 6, none)
  | .wfe p => some (fieldsR p 0x00 0 0 0 7, none)
  | .sev p => some (fieldsR p 0x00 0 0 0 8, none)
  | .add p d a b => some (fieldsR p 0x01 d a b 0, none)
  | .sub p d a b => some (fieldsR p 0x01 d a b 1, none)
  | .and p d a b => some (fieldsR p 0x01 d a b 2, none)
  | .or p d a b => some (fieldsR p 0x01 d a b 3, none)
  | .xor p d a b => some (fieldsR p 0x01 d a b 4, none)
  | .andn p d a b => some (fieldsR p 0x01 d a b 5, none)
  | .orn p d a b => some (fieldsR p 0x01 d a b 6, none)
  | .shl p d a b => some (fieldsR p 0x01 d a b 7, none)
  | .shr p d a b => some (fieldsR p 0x01 d a b 8, none)
  | .sra p d a b => some (fieldsR p 0x01 d a b 9, none)
  | .rol p d a b => some (fieldsR p 0x01 d a b 10, none)
  | .ror p d a b => some (fieldsR p 0x01 d a b 11, none)
  | .min p d a b => some (fieldsR p 0x01 d a b 12, none)
  | .max p d a b => some (fieldsR p 0x01 d a b 13, none)
  | .minn p d a b => some (fieldsR p 0x01 d a b 14, none)
  | .maxn p d a b => some (fieldsR p 0x01 d a b 15, none)
  | .mul p d a b => some (fieldsR p 0x02 d a b 0, none)
  | .mulh p d a b => some (fieldsR p 0x02 d a b 1, none)
  | .mulhn p d a b => some (fieldsR p 0x02 d a b 2, none)
  | .div p d a b => some (fieldsR p 0x02 d a b 3, none)
  | .divn p d a b => some (fieldsR p 0x02 d a b 4, none)
  | .rem p d a b => some (fieldsR p 0x02 d a b 5, none)
  | .remn p d a b => some (fieldsR p 0x02 d a b 6, none)
  | .clz p d a => some (fieldsR p 0x02 d a 0 7, none)
  | .ctz p d a => some (fieldsR p 0x02 d a 0 8, none)
  | .popc p d a => some (fieldsR p 0x02 d a 0 9, none)
  | .brev p d a => some (fieldsR p 0x02 d a 0 10, none)
  | .bswap p d a => some (fieldsR p 0x02 d a 0 11, none)
  | .addW p d a b => some (fieldsR p 0x03 d a b 0, none)
  | .subW p d a b => some (fieldsR p 0x03 d a b 1, none)
  | .mulW p d a b => some (fieldsR p 0x03 d a b 2, none)
  | .shlW p d a b => some (fieldsR p 0x03 d a b 3, none)
  | .shrW p d a b => some (fieldsR p 0x03 d a b 4, none)
  | .sraW p d a b => some (fieldsR p 0x03 d a b 5, none)
  | .addsat p d a b => some (fieldsR p 0x03 d a b 6, none)
  | .subsat p d a b => some (fieldsR p 0x03 d a b 7, none)
  | .sextb p d a => some (fieldsR p 0x03 d a 0 8, none)
  | .sexth p d a => some (fieldsR p 0x03 d a 0 9, none)
  | .sextw p d a => some (fieldsR p 0x03 d a 0 10, none)
  | .zextw p d a => some (fieldsR p 0x03 d a 0 11, none)
  | .ceq p d a b => some (fieldsR p 0x04 (predField d) a b 0, none)
  | .cne p d a b => some (fieldsR p 0x04 (predField d) a b 1, none)
  | .clt p d a b => some (fieldsR p 0x04 (predField d) a b 2, none)
  | .cle p d a b => some (fieldsR p 0x04 (predField d) a b 3, none)
  | .cltn p d a b => some (fieldsR p 0x04 (predField d) a b 4, none)
  | .clen p d a b => some (fieldsR p 0x04 (predField d) a b 5, none)
  | .cbit p d a b => some (fieldsR p 0x04 (predField d) a b 6, none)
  | .pand p d a b => some (fieldsR p 0x04 (predField d) (predField a) (predField b) 7, none)
  | .por p d a b => some (fieldsR p 0x04 (predField d) (predField a) (predField b) 8, none)
  | .pxor p d a b => some (fieldsR p 0x04 (predField d) (predField a) (predField b) 9, none)
  | .pandn p d a b => some (fieldsR p 0x04 (predField d) (predField a) (predField b) 10, none)
  | .pnot p d a => some (fieldsR p 0x04 (predField d) (predField a) 0 11, none)
  | .p2g p d a => some (fieldsR p 0x04 d (predField a) 0 12, none)
  | .g2p p d a => some (fieldsR p 0x04 (predField d) a 0 13, none)
  | .mov p d a => some (fieldsR p 0x05 d a 0 0, none)
  | .sel p d a b => some (fieldsR p 0x05 d a b 1, none)
  | .lea1 p d a b => some (fieldsR p 0x05 d a b 2, none)
  | .lea2 p d a b => some (fieldsR p 0x05 d a b 3, none)
  | .lea4 p d a b => some (fieldsR p 0x05 d a b 4, none)
  | .lea8 p d a b => some (fieldsR p 0x05 d a b 5, none)
  | .lea16 p d a b => some (fieldsR p 0x05 d a b 6, none)
  | .alignd p d a b => some (fieldsR p 0x05 d a b 7, none)
  | .alignn p d a b => some (fieldsR p 0x05 d a b 8, none)
  | .addi p d a imm => some (fieldsI p 0x06 d a imm, none)
  | .andi p d a imm => some (fieldsI p 0x07 d a imm, none)
  | .ori p d a imm => some (fieldsI p 0x08 d a imm, none)
  | .xori p d a imm => some (fieldsI p 0x09 d a imm, none)
  | .shli p d a imm => some (fieldsI p 0x0A d a imm, none)
  | .shri p d a imm => some (fieldsI p 0x0B d a imm, none)
  | .srai p d a imm => some (fieldsI p 0x0C d a imm, none)
  | .ceqi p d a imm => some (fieldsI p 0x0D (predField d) a imm, none)
  | .clti p d a imm => some (fieldsI p 0x0E (predField d) a imm, none)
  | .cltni p d a imm => some (fieldsI p 0x0F (predField d) a imm, none)
  | .ldB p d a imm => some (fieldsI p 0x10 d a imm, none)
  | .ldBn p d a imm => some (fieldsI p 0x11 d a imm, none)
  | .ldH p d a imm => some (fieldsI p 0x12 d a imm, none)
  | .ldHn p d a imm => some (fieldsI p 0x13 d a imm, none)
  | .ldW p d a imm => some (fieldsI p 0x14 d a imm, none)
  | .ldWn p d a imm => some (fieldsI p 0x15 d a imm, none)
  | .ldD p d a imm => some (fieldsI p 0x16 d a imm, none)
  | .stB p d a imm => some (fieldsI p 0x17 d a imm, none)
  | .stH p d a imm => some (fieldsI p 0x18 d a imm, none)
  | .stW p d a imm => some (fieldsI p 0x19 d a imm, none)
  | .stD p d a imm => some (fieldsI p 0x1A d a imm, none)
  | .ldxD p d a b => some (fieldsR p 0x1B d a b 0, none)
  | .stxD p d a b => some (fieldsR p 0x1B d a b 1, none)
  | .ldxW p d a b => some (fieldsR p 0x1B d a b 2, none)
  | .stxW p d a b => some (fieldsR p 0x1B d a b 3, none)
  | .ldNa p d a => some (fieldsR p 0x1B d a 0 4, none)
  | .stNa p d a => some (fieldsR p 0x1B d a 0 5, none)
  | .pref p a => some (fieldsR p 0x1B 0 a 0 6, none)
  | .clean p a => some (fieldsR p 0x1B 0 a 0 7, none)
  | .flush p a => some (fieldsR p 0x1B 0 a 0 8, none)
  | .ldAcqCore p d a => some (fieldsR p 0x1C d a 0 0, none)
  | .ldAcqDie p d a => some (fieldsR p 0x1C d a 0 1, none)
  | .ldAcqPkg p d a => some (fieldsR p 0x1C d a 0 2, none)
  | .ldAcqSys p d a => some (fieldsR p 0x1C d a 0 3, none)
  | .stRelCore p d a => some (fieldsR p 0x1C d a 0 4, none)
  | .stRelDie p d a => some (fieldsR p 0x1C d a 0 5, none)
  | .stRelPkg p d a => some (fieldsR p 0x1C d a 0 6, none)
  | .stRelSys p d a => some (fieldsR p 0x1C d a 0 7, none)
  | .fenceCore p => some (fieldsR p 0x1C 0 0 0 8, none)
  | .fenceDie p => some (fieldsR p 0x1C 0 0 0 9, none)
  | .fencePkg p => some (fieldsR p 0x1C 0 0 0 10, none)
  | .fenceSys p => some (fieldsR p 0x1C 0 0 0 11, none)
  | .amoadd p d a b => some (fieldsR p 0x1D d a b 0, none)
  | .amoand p d a b => some (fieldsR p 0x1D d a b 1, none)
  | .amoor p d a b => some (fieldsR p 0x1D d a b 2, none)
  | .amoxor p d a b => some (fieldsR p 0x1D d a b 3, none)
  | .amomin p d a b => some (fieldsR p 0x1D d a b 4, none)
  | .amomax p d a b => some (fieldsR p 0x1D d a b 5, none)
  | .amominn p d a b => some (fieldsR p 0x1D d a b 6, none)
  | .amomaxn p d a b => some (fieldsR p 0x1D d a b 7, none)
  | .amoswap p d a b => some (fieldsR p 0x1D d a b 8, none)
  | .amocas p d a b => some (fieldsR p 0x1D d a b 9, none)
  | .amoaddW p d a b => some (fieldsR p 0x1D d a b 10, none)
  | .amoswapW p d a b => some (fieldsR p 0x1D d a b 11, none)
  | .amocasW p d a b => some (fieldsR p 0x1D d a b 12, none)
  | .sfence p d => some (fieldsR p 0x1E d 0 0 0, none)
  | .qfence p d => some (fieldsR p 0x1E d 0 0 1, none)
  | .barrive p d a => some (fieldsR p 0x1E d a 0 2, none)
  | .bwait p d a => some (fieldsR p 0x1E d a 0 3, none)
  | .wstamp p d a => some (fieldsR p 0x1E d a 0 4, none)
  | .rinit p d a b => some (fieldsR p 0x1E d a b 5, none)
  | .rget p d a b => some (fieldsR p 0x1E d a b 6, none)
  | .waitc p ld st cp tl => some (fieldsI p 0x1F ld st (cp ++ tl), none)
  | .fadd p d a b => some (fieldsR p 0x20 d a b 0, none)
  | .fsub p d a b => some (fieldsR p 0x20 d a b 1, none)
  | .fmul p d a b => some (fieldsR p 0x20 d a b 2, none)
  | .fmin p d a b => some (fieldsR p 0x20 d a b 3, none)
  | .fmax p d a b => some (fieldsR p 0x20 d a b 4, none)
  | .fabs p d a => some (fieldsR p 0x20 d a 0 5, none)
  | .fneg p d a => some (fieldsR p 0x20 d a 0 6, none)
  | .fceq p d a b => some (fieldsR p 0x20 (predField d) a b 7, none)
  | .fclt p d a b => some (fieldsR p 0x20 (predField d) a b 8, none)
  | .fcle p d a b => some (fieldsR p 0x20 (predField d) a b 9, none)
  | .fcvti p d a => some (fieldsR p 0x20 d a 0 10, none)
  | .fcvtf p d a => some (fieldsR p 0x20 d a 0 11, none)
  | .fxexp p d a => some (fieldsR p 0x20 d a 0 12, none)
  | .fscale p d a b => some (fieldsR p 0x20 d a b 13, none)
  | .ffma p d a b => some (fieldsR p 0x20 d a b 14, none)
  | .fclass p d a => some (fieldsR p 0x20 d a 0 15, none)
  | .fwbf p d a => some (fieldsR p 0x21 d a 0 0, none)
  | .bffw p d a => some (fieldsR p 0x21 d a 0 1, none)
  | .fwh p d a => some (fieldsR p 0x21 d a 0 2, none)
  | .hfw p d a => some (fieldsR p 0x21 d a 0 3, none)
  | .fws p d a => some (fieldsR p 0x21 d a 0 4, none)
  | .sfw p d a => some (fieldsR p 0x21 d a 0 5, none)
  | .fwb8 p d a => some (fieldsR p 0x21 d a 0 6, none)
  | .b8fw p d a => some (fieldsR p 0x21 d a 0 7, none)
  | .csrr p d csr => some (fieldsI p 0x22 d 0 csr, none)
  | .csrw p d a csr => some (fieldsI p 0x23 d a csr, none)
  | .csrs p d a csr => some (fieldsI p 0x24 d a csr, none)
  | .csrc p d a csr => some (fieldsI p 0x25 d a csr, none)
  | .rgalloc p d a => some (fieldsR p 0x26 d a 0 0, none)
  | .rgfree p d => some (fieldsR p 0x26 d 0 0 1, none)
  | .cfgld p d a => some (fieldsR p 0x26 d a 0 2, none)
  | .cfgwr p d a => some (fieldsR p 0x26 d a 0 3, none)
  | .cfgsw p d => some (fieldsR p 0x26 d 0 0 4, none)
  | .cfgdrop p d => some (fieldsR p 0x26 d 0 0 5, none)
  | .cfgst p d a => some (fieldsR p 0x26 d a 0 6, none)
  | .rgstart p d a b => some (fieldsR p 0x26 d a b 7, none)
  | .rgstop p d => some (fieldsR p 0x26 d 0 0 8, none)
  | .rgsave p d a => some (fieldsR p 0x26 d a 0 9, none)
  | .rgload p d a => some (fieldsR p 0x26 d a 0 10, none)
  | .marker p d => some (fieldsR p 0x26 d 0 0 11, none)
  | .tenq p d a => some (fieldsR p 0x26 d a 0 12, none)
  | .cfgwrI p d imm => some (fieldsR p 0x35 d 0 0 0, some imm)
  | .sbind p d a => some (fieldsR p 0x27 d a 0 0, none)
  | .sunbind p d => some (fieldsR p 0x27 d 0 0 1, none)
  | .sstat p d a => some (fieldsR p 0x27 d a 0 2, none)
  | .spush p d a => some (fieldsR p 0x27 d a 0 3, none)
  | .spop p d a => some (fieldsR p 0x27 d a 0 4, none)
  | .seos p d => some (fieldsR p 0x27 d 0 0 5, none)
  | .sctl p d a => some (fieldsR p 0x27 d a 0 6, none)
  | .chainset p d a => some (fieldsR p 0x27 d a 0 7, none)
  | .chainst p d a => some (fieldsR p 0x27 d a 0 8, none)
  | .oclaim p d a => some (fieldsR p 0x28 d a 0 0, none)
  | .orel p d => some (fieldsR p 0x28 d 0 0 1, none)
  | .odesc p d a => some (fieldsR p 0x28 d a 0 2, none)
  | .mzero p d a => some (fieldsR p 0x28 d a 0 3, none)
  | .mtile p d a b => some (fieldsR p 0x28 d a b 4, none)
  | .mtilet p d a b => some (fieldsR p 0x28 d a b 5, none)
  | .mrec p d a b => some (fieldsR p 0x28 d a b 6, none)
  | .mread p d a b => some (fieldsR p 0x28 d a b 7, none)
  | .cpy p d a => some (fieldsR p 0x29 d a 0 0, none)
  | .cpym p d a b => some (fieldsR p 0x29 d a b 1, none)
  | .cpwp p d a => some (fieldsR p 0x29 d a 0 2, none)
  | .cpcancel p d => some (fieldsR p 0x29 d 0 0 3, none)
  | .selcfg p d => some (fieldsR p 0x2A d 0 0 0, none)
  | .selput p d a => some (fieldsR p 0x2A d a 0 1, none)
  | .seldrain p d => some (fieldsR p 0x2A d 0 0 2, none)
  | .selhist p d a => some (fieldsR p 0x2A d a 0 3, none)
  | .selarm p d a => some (fieldsR p 0x2A d a 0 4, none)
  | .topk p d a => some (fieldsR p 0x2A d a 0 5, none)
  | .hwopen p d a => some (fieldsR p 0x2B d a 0 0, none)
  | .hwfeed p d a b => some (fieldsR p 0x2B d a b 1, none)
  | .hwpic p d a b => some (fieldsR p 0x2B d a b 2, none)
  | .hwclose p d a => some (fieldsR p 0x2B d a 0 3, none)
  | .hwstat p d a => some (fieldsR p 0x2B d a 0 4, none)
  | .li p d imm => some (fieldsR p 0x30 d 0 0 0, some imm)
  | .lih p d imm => some (fieldsR p 0x31 d 0 0 0, some imm)
  | .addiL p d a imm => some (fieldsR p 0x32 d a 0 0, some imm)
  | .ldL p d a imm => some (fieldsR p 0x33 d a 0 0, some imm)
  | .stL p d a imm => some (fieldsR p 0x34 d a 0 0, some imm)
  | .br p off => some (fieldsB p 0x38 off, none)
  | .call p off => some (fieldsB p 0x39 off, none)
  | .jmp p d => some (fieldsR p 0x3A d 0 0 0, none)
  | .callx p d => some (fieldsR p 0x3A d 0 0 1, none)
  | .ret p => some (fieldsR p 0x3A 0 0 0 2, none)
  | .tbr p d a => some (fieldsR p 0x3A d a 0 3, none)
  | .bdec p d off => some (fieldsC p 0x3B d off, none)
  | _ => none

/-- The words of an instruction: the first word and the extension word of a long form (R172). -/
def encode (i : Instr) : Option (W32 × Option W32) :=
  (encodeFields i).map fun e => (wordOf e.1, e.2)

/-- The instruction that the decoder reads from a word of the opcode table: its first word in bits 31..0 and, for a
long form, its extension word in bits 63..32, laid out as memory stores them. -/
def decodeTableWord (_nbits w : Nat) : Option Instr :=
  match decodeBytes (bytesOfWord (BitVec.ofNat 32 w) ++ bytesOfWord (BitVec.ofNat 32 (w / 2 ^ 32))) with
  | .ok (i, _) => some i
  | .error _ => none

end Sys2Proof
end

