-- ==== Sys2Proof/Machine/Mmio.lean ====
section
/-! DEFINITION. The registers of the MMIO and CSR aperture (R6, R257, R283, R284, R286, R345, R353, R371). -/

namespace Sys2Proof.Machine

def World.queue (w : World) (q : Nat) : Queue := tabGet Queue.reset q w.queues
def World.setQueue (w : World) (q : Nat) (x : Queue) : World := { w with queues := tabSet q x w.queues }

/-- Is a launch queue switched out (R284, R297)? -/
def switchedOut (w : World) (q : Nat) : Bool := !(w.queue q).en || (w.die (w.queue q).die).fenced

/-- The registers the aperture assigns (R283). -/
inductive Register where
  | tinva (d : Nat)
  | tinvc (d : Nat)
  | fwdog (d : Nat)
  | slot (d i : Nat)
  | gapl (d : Nat)
  | occ (d s : Nat)
  | queue (q r : Nat)
  | irq (t : Nat)
  | pbr
  | unassigned
  deriving DecidableEq, Repr

/-- The register that the aligned 8 bytes at offset `o` of the aperture hold (R283). -/
def registerAt (o : Nat) : Register :=
  let d := o / 2 ^ 24
  let r := o % 2 ^ 24
  if d < 8 then
    if r = 0x10000 then .tinva d
    else if r = 0x10008 then .tinvc d
    else if r = 0x10010 then .fwdog d
    else if 0x20000 ≤ r ∧ r < 0x20800 then .slot d ((r - 0x20000) / 8)
    else if r = 0x30000 then .gapl d
    else if 0x30008 ≤ r ∧ r < 0x30088 then .occ d ((r - 0x30008) / 8)
    else .unassigned
  else if 0x10000000 ≤ o ∧ o < 0x10000000 + 64 * 4096 then
    .queue ((o - 0x10000000) / 64) ((o - 0x10000000) % 64 / 8)
  else if 0x18000000 ≤ o ∧ o < 0x18000000 + 8 * 1280 then .irq ((o - 0x18000000) / 8)
  else if o = 0x19000000 then .pbr
  else .unassigned

/-- The pending external interrupt of a thread (R286). -/
def pendingIrq (w : World) (t : Nat) : Option Word :=
  (((w.thread t).events.find? (·.code == 0x41)).map (·.val)).or ((w.owed.find? fun o => o.rcv == t && o.code == 0x41).map (·.val))

/-- A read of register `r` (R6). -/
def readRegister (w : World) : Register → Nat
  | .tinva d => (w.die d).tinva
  | .tinvc d => if (w.die d).tinvc.isEmpty then 0 else 2 ^ 63
  | .fwdog d => (w.die d).wdl
  | .slot d i => (tabGet ((tabGet slotWordReset i (w.die d).slots)) i (w.die d).slotNext).toNat
  | .gapl d => (w.die d).gapl
  | .occ d s => (tabGet [] (16 * d + s) w.units).length
  | .queue q 0 => (w.queue q).base
  | .queue q 1 =>
    let x := w.queue q
    x.asid * 2 ^ 32 + x.die * 2 ^ 24 + (if x.irq then 2 ^ 9 else 0) + (if x.en then 2 ^ 8 else 0) + x.log
  | .queue q 2 => (w.queue q).tail
  | .queue q 3 => if switchedOut w q then (w.queue q).outProg else (w.queue q).prog
  | .queue q 4 => (if (w.queue q).ovf then 2 else 0) + (if switchedOut w q then 1 else 0)
  | .queue q 5 => (w.queue q).ptb
  | .queue _ _ => 0
  | .irq t => match pendingIrq w t with
    | some v => v.toNat
    | none => 0
  | .pbr => (if w.pbr.valid then 2 ^ 63 else 0) + w.pbr.id
  | .unassigned => 0

/-- A store to `TINVC` of die `d`: it starts an invalidation, or is held behind the one in progress (R257). -/
def startInvalidation (w : World) (d : Nat) (v : Nat) : World :=
  let x := w.die d
  w.setDie d { x with tinvc := x.tinvc ++ [(bits v 17 16, bits v 15 0, x.tinva)] }

/-- A write of `v` to a launch queue's tail register: always accepted (R280, R284, R285). -/
def writeTail (w : World) (q v : Nat) : World :=
  let x := w.queue q
  w.setQueue q { x with tail := v % 2 ^ 32, stuck := false }

/-- The records of the queues that meet `f` are no longer on offer: their queues read them again (R280, R285). -/
def withdrawOffers (w : World) (f : Nat → Bool) : World :=
  { w with dies := tabMap (fun _ (x : Die) => { x with inbox := x.inbox.filter fun i => !i.queue.any f }) w.dies
           queues := tabMap (fun q (x : Queue) => if f q then { x with offered := none } else x) w.queues }

/-- Set or clear `QEN`, with the progress that a switched-out queue shows (R280, R284). -/
def writeQen (w : World) (q : Nat) (on : Bool) : World :=
  let w := if on then w else withdrawOffers w (· == q)
  let x := w.queue q
  w.setQueue q { x with en := on, outProg := if x.en && !on then x.prog else x.outProg }

/-- `PROG` of a queue advances, with its interrupt (R284). DEDUCED: log 92. -/
def advanceProg (w : World) (q : Nat) : World :=
  let x := w.queue q
  let w := w.setQueue q { x with prog := (x.prog + 1) % 2 ^ 32, offered := none }
  if x.irq then { w with msix := tabSet q (tabGet 0 q w.msix + 1) w.msix } else w

/-- A write to a queue's control word (+0x08): while `QEN` is set, only `QEN` is written (R284). -/
def writeQueueControl (w : World) (q v : Nat) : World :=
  let x := w.queue q
  let w := if x.en then w
    else w.setQueue q { x with asid := bits v 47 32, die := bits v 26 24, irq := bit v 9, log := bits v 4 0 }
  writeQen w q (bit v 8)

/-- Raise, or OR into, the external interrupt of thread `t` (R286). DEDUCED: log 34. -/
def writeIrq (w : World) (t : Nat) (v : Word) : World :=
  let th := w.thread t
  match pendingIrq w t with
  | some _ =>
    let w := w.setThread t { th with events := th.events.map fun e => if e.code == 0x41 then { e with val := e.val ||| v } else e }
    { w with owed := w.owed.map fun o => if o.rcv == t && o.code == 0x41 then { o with val := o.val ||| v } else o }
  | none => raise w t 0x41 v

/-- A write of the 8 bytes `v` to register `r`, by its access codes (R6). -/
def writeRegister (w : World) (r : Register) (v : Nat) : World :=
  match r with
  | .tinva d => w.setDie d { w.die d with tinva := bits v 56 17 * 2 ^ 17 }
  | .tinvc d => startInvalidation w d v
  | .fwdog d => if 10 ≤ bits v 4 0 ∧ bits v 4 0 ≤ 30 then w.setDie d { w.die d with wdl := bits v 4 0 } else w
  | .slot d i => w.setDie d { w.die d with slotNext := tabSet i (BitVec.ofNat 64 v) (w.die d).slotNext }
  | .gapl d => if 10 ≤ bits v 4 0 ∧ bits v 4 0 ≤ 30 then w.setDie d { w.die d with gapl := bits v 4 0 } else w
  | .queue q 0 => if (w.queue q).en then w else w.setQueue q { w.queue q with base := bits v 63 6 * 64 }
  | .queue q 1 => writeQueueControl w q v
  | .queue q 2 => writeTail w q v
  | .queue q 4 => if bit v 1 then w.setQueue q { w.queue q with ovf := false } else w
  | .queue q 5 => if (w.queue q).en then w else w.setQueue q { w.queue q with ptb := bits v 51 17 * 2 ^ 17 }
  | .irq t => writeIrq w t (BitVec.ofNat 64 v)
  | .queue _ _ | .occ .. | .pbr | .unassigned => w

/-- Read `n` bytes, 4 or 8, naturally aligned, at an address of the aperture (R196). DEDUCED: log 21. -/
def mmioRead (w : World) (pa n : Nat) : Nat :=
  let o := pa - apertureBase
  readRegister w (registerAt (o / 8 * 8)) / 2 ^ (8 * (o % 8)) % 2 ^ (8 * n)

/-- Write `n` bytes, 4 or 8, naturally aligned, at an address of the aperture. A 4-byte write leaves the other half
of a register as it reads, with the bits that clear on a 1 written as 0. DEDUCED: log 21. -/
def mmioWrite (w : World) (pa n v : Nat) : World :=
  let o := pa - apertureBase
  let r := registerAt (o / 8 * 8)
  if n = 8 then writeRegister w r v
  else
    let keep := match r with
      | .queue _ 4 | .irq _ => 0
      | _ => readRegister w r
    let sh := 8 * (o % 8)
    writeRegister w r (keep - keep / 2 ^ sh % 2 ^ 32 * 2 ^ sh + v % 2 ^ 32 * 2 ^ sh)

end Sys2Proof.Machine
end

