-- ==== Sys2Proof/Machine/Ops.lean ====
section
/-! DEFINITION. The operations that every instruction word shares: registers, the accesses of a word and their trap
checks, taking an exception and returning from one, the commit of a block, and the frame of a word (R130 to R134,
R167 to R177, R196 to R205, R213 to R215, R220). -/

namespace Sys2Proof.Machine

/-- The outcome of a step. -/
abbrev Outcome := Host.Outcome State Fault Refusal

/-! ### Registers -/

/-- The thread whose turn it is. -/
def State.thr (s : State) : Thread := s.w.thread s.turn

/-- The state with that thread replaced. -/
def State.setThr (s : State) (th : Thread) : State := { s with w := s.w.setThread s.turn th }

/-- Read a general register; g0 reads zero (R170). -/
def Thread.readG (th : Thread) (r : Reg) : Word := if r = 0 then 0 else tabGet 0 r.toNat th.g

/-- Write a general register; g0 discards (R170). -/
def Thread.writeG (th : Thread) (r : Reg) (v : Word) : Thread :=
  if r = 0 then th else { th with g := tabSet r.toNat v th.g }

/-- Read a predicate; p0 reads true (R170). -/
def Thread.readP (th : Thread) (q : PReg) : Bool := q == 0 || th.p.getLsbD q.toNat

/-- Write a predicate; p0 discards (R170). -/
def Thread.writeP (th : Thread) (q : PReg) (b : Bool) : Thread :=
  if q = 0 then th
  else { th with p := if b then th.p ||| (1#8 <<< q.toNat) else th.p &&& ~~~(1#8 <<< q.toNat) }

def State.readG (s : State) (r : Reg) : Word := s.thr.readG r
def State.readP (s : State) (q : PReg) : Bool := s.thr.readP q
def State.writeG (s : State) (r : Reg) (v : Word) : State := s.setThr (s.thr.writeG r v)
def State.writeP (s : State) (q : PReg) (b : Bool) : State := s.setThr (s.thr.writeP q b)

/-- Does a predicate hold (R173)? -/
def Thread.holds (th : Thread) (p : Pr) : Bool := th.readP p.pr != p.pn

/-- The core and the die of the thread whose turn it is. -/
def State.core (s : State) : Nat := coreOf s.turn
def State.die (s : State) : Nat := dieOf s.core

/-- A step of an agent other than a thread: it acts between blocks only (R130). DEDUCED: log 11. -/
def event (f : World → World) (s : State) : Outcome :=
  match s.txn with
  | some _ => .next s
  | none => .next { s with w := f s.w }

/-! ### Taking an exception, and returning from one -/

/-- tstat with `PM` := mode, `MODE` := supervisor, `PEM` := `EVM`, `EVM` := 1 (R134, R215). -/
def tstatEnter (t : Word) : Word :=
  BitVec.ofNat 64 ((if t.getLsbD 2 then 8 else 0) + 4 + 2 + (if t.getLsbD 1 then 1 else 0))

/-- tstat with mode := `PM` and `EVM` := `PEM` (R134, R215, R217). -/
def tstatLeave (t : Word) : Word :=
  BitVec.ofNat 64 ((if t.getLsbD 3 then 8 else 0) + (if t.getLsbD 3 then 4 else 0) + (if t.getLsbD 0 then 2 else 0)
    + (if t.getLsbD 0 then 1 else 0))

/-- Enter the trap handler (R131, R134, R215): the saved registers, the mode, events held, the block counter at
thand. Every exception of a thread is taken by this; a thread that its own block halted (R144, R148) stays halted. What the waits of an abandoned block took is given back (R213). -/
def trapEntry (th : Thread) (code : Nat) (v epc : Word) (idx : Nat) : Thread :=
  { th with tstat := tstatEnter th.tstat, tcause := BitVec.ofNat 64 code, tval := v, tepc := epc
            tidx := BitVec.ofNat 64 idx, pc := th.thand, phase := if th.phase = .halted then .halted else .running
            wait := none, since := none
            flag := th.flag || decide (0 < th.wakes), wakes := 0 }

/-- A fault fatal to the task that thread `t` runs, if it runs one, is declared with a code (R148). DEDUCED: log 38. -/
def declareFatal (w : World) (key : Option Nat) (code : Nat) : World :=
  match key with
  | none => w
  | some k => { w with tasks := tabMap (fun j (x : Task) => if j = k ∧ x.dying.isNone then { x with dying := some code } else x) w.tasks }

/-- Thread `t` of the machine takes an exception; in a task's thread whose thand is 0 that is fatal to the task (R148). -/
def trapInto (w : World) (t code : Nat) (v epc : Word) (idx : Nat) : World :=
  let th := w.thread t
  let w := w.setThread t (trapEntry th code v epc idx)
  if th.thand = 0 then declareFatal w th.task 8 else w

/-- Return from an exception: mode := `PM`, `EVM` := `PEM`, and the thread continues at tepc (R134, R215, R217). -/
def trapReturn (th : Thread) : Thread := { th with tstat := tstatLeave th.tstat, pc := th.tepc }

/-! ### Whose turn it is -/

/-- Has a thread something to do: a block to run, or an event to take (R131, R133, R294, R295)? -/
def threadReady (w : World) (t : Nat) (th : Thread) : Bool :=
  ((th.phase == .running && (!th.dheld || th.dstep)) || (th.phase == .waiting && !th.events.isEmpty && !th.evm && !th.dheld))
    && !(w.core (coreOf t)).off && !(w.die (dieOf (coreOf t))).off

/-- The next thread served after `t`, in round-robin order (R133). DESIGN CHOICE: log 6. -/
def nextTurn (w : World) (t : Nat) : Nat :=
  match tabFind (threadReady w) (t + 1) w.threads with
  | some n => n
  | none => (tabFind (threadReady w) 0 w.threads).getD t

/-! ### Ending a block -/

/-- Set the event flag of all four threads of a core (`sev`, R217). -/
def sevCore (w : World) (c : Nat) : World :=
  [0, 1, 2, 3].foldl (fun w i => setFlag w (4 * c + i)) w

/-- Commit the block: the thread continues at `nxt`, `blkret` counts it, a `sev` of the block acts (R130, R215, R217). A thread that the
block has halted, as an `rgfree` that fails its task does, stays halted (R148). -/
def commit (s : State) (nxt : Word) : State :=
  match s.txn with
  | none => s
  | some x =>
    let th := s.thr
    let w := s.w.setThread s.turn { th with pc := nxt, blkret := th.blkret + 1, phase := if th.phase = .halted then .halted else .running, wait := none, dstep := false, since := none, wakes := 0 }
    let w := if x.sev then sevCore w s.core else w
    { s with w := w, txn := none, turn := nextTurn w s.turn }

/-- The fall-through address of the block in hand (R168). -/
def fallThrough (x : Txn) : Word := x.base + BitVec.ofNat 64 (128 * x.lines)

/-- The machine as it stood when the block began; time has gone on, and the timers with it (R267). DEDUCED: log 8. -/
def abandon (s : State) : World :=
  match s.txn with
  | none => s.w
  | some x => { x.saved with cycle := s.w.cycle, fresh := s.w.fresh }

/-- Take a trap of the word in hand: the block leaves no effect, and the thread enters its handler (R131, R134). -/
def trapWord (s : State) (code : Nat) (v : Word) : State :=
  match s.txn with
  | none => s
  | some x =>
    let w := abandon s
    let w := trapInto w s.turn code v x.base x.idx
    { s with w := w, txn := none, turn := nextTurn w s.turn }

/-- The accesses of a core's elements that are not performed (R206). -/
def outstandingAt (w : World) (c : Nat) : List (Nat × Nat × Nat) :=
  w.elems.flatMap fun (e, x) =>
    if e / 3072 = c then (x.acc.filter (·.phase != .done)).map fun a => (e, a.h, a.nth) else []

/-- The block waits, whole and uncommitted, and runs again from its first word when the wait ends (R132, R133, R213). The waits of the
block that have ended stay ended (R217). DEDUCED: log 8, 17. -/
def holdBlock (s : State) (c : Wait) : State :=
  match s.txn with
  | none => s
  | some x =>
    let w := abandon s
    let th := w.thread s.turn
    let since := th.since.getD (outstandingAt w s.core)
    let w := w.setThread s.turn { th with phase := .waiting, wait := some c, since := some since
                                          flag := s.thr.flag, wakes := max x.wakes th.wakes }
    { s with w := w, txn := none, turn := nextTurn w s.turn }

/-! ### The frame of a word -/

/-- The word in hand. -/
def Txn.word (x : Txn) : W32 := x.words.getD (x.idx - 1) 0

/-- The instruction of the word in hand. -/
def Txn.instr (x : Txn) : Except Illegal Instr := decode x.word (x.words.getD x.idx 0)

/-- The first word of a block that is not an instruction, by index; extension words are not decoded (R177). DEDUCED: log 14. -/
def firstIllegal : List W32 → Nat → Bool → Option (Nat × W32)
  | [], _, _ => none
  | _ :: rest, i, true => firstIllegal rest (i + 1) false
  | x :: rest, i, false =>
    match decode x (rest.headD 0) with
    | .error _ => some (i, x)
    | .ok _ => firstIllegal rest (i + 1) (isLong x)

/-- What holds the commit of the block in hand, if anything does: a word of it (R132, R212, R222), or a budget that its accesses
were charged to and that had been reached when it began (R141). DEDUCED: log 42. -/
def blockHeld (s : State) : Option Wait :=
  match s.txn with
  | none => none
  | some x => x.held.or (if x.saved.overrun x.saved s.w then some .budget else none)

/-- An exit ends the block: a later word that is not an instruction still traps (R168, R177), what holds the commit holds it
(R132, R212, R222), and else the block leaves as the exit says. -/
def leaveBlock (s t : State) : State :=
  match s.txn with
  | none => t
  | some x =>
    match firstIllegal (x.words.drop x.idx) (x.idx + 1) false with
    | some (i, v) => trapWord { s with txn := some { x with idx := i } } 0x02 (v.setWidth 64)
    | none => match blockHeld s with
      | some c => holdBlock s c
      | none => t

/-- The word in hand as a trap value (R258). -/
def State.wordVal (s : State) : Word :=
  match s.txn with
  | some x => x.word.setWidth 64
  | none => 0

/-- How a word may stand behind an indivisible word of its block (R205): computed after it, an exit that may depend
on it, or a word that may not. -/
inductive Cls where
  | scalar
  | exit
  | other
  deriving DecidableEq, Repr

/-- What a word reads and writes, for R202, R205 and R220. -/
structure Use where
  gs : List Reg
  ps : List PReg
  dg : List Reg
  dp : List PReg
  cls : Cls
  /-- An indivisible word (R205). -/
  ind : Bool
  /-- A word whose result is a commit result (R220). -/
  cres : Bool
  /-- A word that makes an access or gives an engine a command, which a fence may hold back (R202). -/
  acc : Bool
  deriving DecidableEq, Repr

/-- What the execution of a word comes to: the next word, the block left by an exit, the block not run at all, a trap, a
wait that has not ended, or something that holds the commit of the block and has not ended, with what later words see. -/
inductive Res where
  | ok (s : State)
  | left (s : State)
  | aside (s : State)
  | trap (code : Nat) (v : Word)
  | wait (c : Wait)
  | hold (s : State) (c : Wait)
  deriving DecidableEq, Repr

def maskG (m : BitVec 64) (rs : List Reg) : Bool := rs.any fun r => m.getLsbD r.toNat
def maskP (m : BitVec 8) (ps : List PReg) : Bool := ps.any fun q => m.getLsbD q.toNat
/-- DEDUCED: log 15. -/
def markG (m : BitVec 64) (rs : List Reg) (b : Bool) : BitVec 64 :=
  rs.foldl (fun m (r : Reg) => if r = 0 then m else if b then m ||| (1#64 <<< r.toNat) else m &&& ~~~(1#64 <<< r.toNat)) m
def markP (m : BitVec 8) (ps : List PReg) (b : Bool) : BitVec 8 :=
  ps.foldl (fun m (q : PReg) => if q = 0 then m else if b then m ||| (1#8 <<< q.toNat) else m &&& ~~~(1#8 <<< q.toNat)) m

/-- Go on to the next word: `n` words on, with what now depends on an indivisible word (R205) and which registers
hold a commit result (R220). DEDUCED: log 15. -/
def advance (s : State) (n : Nat) (u : Use) (dep ran : Bool) : State :=
  match s.txn with
  | none => s
  | some x =>
    let mark := dep || u.ind
    { s with txn := some { x with
        idx := x.idx + n
        depG := if ran || dep then markG x.depG u.dg mark else x.depG
        depP := if ran || dep then markP x.depP u.dp mark else x.depP
        cres := if ran && u.cres then markG x.cres u.dg true else x.cres } }

/-- Does a fence hold the accesses of thread `t`'s block in hand, past its own: an earlier block's stores, which a fence of the block
comes after, or which a fence has come after already, are not all performed (R202, R203)? DEDUCED: log 12. -/
def fenceHolds (t : Nat) (x : Txn) : Bool :=
  let path := (x.saved.thread t).path
  (x.fenced && !path.isEmpty) || path.any (·.fenced)

/-- Run the word in hand: its predicate (R173), the rules on words that depend on an indivisible word (R205) or on a
commit result (R220), what a fence holds back (R202), its effect, and the next word. At a wait that has not ended the block stops, and no later word runs before the wait
ends (R206, R209, R210, R217); what holds the commit only lets the traps of later words come first. Outside a block a word has no
effect. DEDUCED: log 42. -/
def word (n : Nat) (p : Pr) (u : Use) (body : State → Res) (s : State) : Outcome :=
  match s.txn with
  | none => .next s
  | some x =>
    let pdep := maskP x.depP [p.pr]
    let dep := pdep || maskG x.depG u.gs || maskP x.depP u.ps
    let run := s.thr.holds p
    if u.cls = .other && (pdep || (run && dep)) then .next (trapWord s 0x02 (x.word.setWidth 64))
    else if run && maskG x.cres u.gs then .next (trapWord s 0x02 (x.word.setWidth 64))
    else if !run then .next (advance s n u pdep false)
    else if u.acc && fenceHolds s.turn x then .next (holdBlock s .path)
    else match body s with
      | .ok t => .next (advance t n u dep true)
      | .left t => .next (leaveBlock s t)
      | .aside t => .next t
      | .trap code v => .next (trapWord s code v)
      | .wait c => .next (holdBlock s c)
      | .hold t c => .next (advance { t with txn := t.txn.map fun x => { x with held := x.held.or (some c) } } n u dep true)

/-! ### Accesses of a word -/

/-- A trap condition: cause and tval. -/
structure Trap where
  code : Nat
  val : Word
  deriving DecidableEq, Repr

/-- The cause of a memory fault met by a word (R258). A page that grants the mode no access is an access trap, as R196, R254 and the table of
R258 say, where R134 names it among the privilege traps. DEDUCED: log 121. -/
def faultCause (f : MemFault) : Nat :=
  if f.kind = 3 then 0x0A else if f.kind = 1 ∨ f.kind = 2 ∨ f.kind = 4 then 0x09 else 0x0B

/-- What kind of access a word makes, for the checks of R196. -/
inductive Order where
  | plain
  | acqRel
  | atomic
  deriving DecidableEq, Repr

/-- One part of an access that lies in one page. -/
structure Seg where
  va : Nat
  pa : Nat
  len : Nat
  cmp : Bool
  deriving DecidableEq, Repr

/-- The space a word's accesses are translated in, and the source space of the commands and launch records that it makes: as it stood when
the block began (R138, R214). DEDUCED: log 124. -/
def wordSpace (s : State) : Space :=
  match s.txn with
  | some x => (x.saved.thread s.turn).space
  | none => s.thr.space

/-- Is an access of `n` bytes at `va` one that may reach a register: 4 or 8 bytes, naturally aligned (R196, R283)? -/
def wordSized (va n : Nat) : Bool := (n == 4 || n == 8) && va % n == 0

/-- The physical checks of one part of a word's access; `reg` when the whole access may reach a register (R196, R264, R282, R321). The
peer window counts as host memory, the module's own part of it too; a store to a peer that no routing ID reaches meets its error at the
store path. DEDUCED: log 27. -/
def checkPhys (w : World) (c : Nat) (acc : Acc) (o : Order) (reg : Bool) (g : Seg) : Option Trap :=
  let pa := homeOf w g.pa
  let at_ (code va : Nat) : Option Trap := some { code := code, val := BitVec.ofNat 64 va }
  let bad := if !served w (.word c) g.pa then at_ 0x0B g.va
    else if acc = .store then none
    else match findUp (fun i => poisoned w (g.pa + i)) g.len 0 with
      | some i => at_ 0x0B (g.va + i)
      | none => none
  match windowOf g.pa, windowOf pa with
  | .aperture, _ => if o = .plain && reg then none else at_ 0x0A g.va
  | .host, _ => if o = .atomic then at_ 0x0A g.va else bad
  | .peer .., .peer _ off =>
    if o = .atomic then at_ 0x0A g.va else if acc = .store then (if hbmPopulated off then none else at_ 0x0B g.va) else bad
  | .peer .., _ => if o = .atomic then at_ 0x0A g.va else bad
  | _, _ => bad

/-- Translate and check the parts of an access, lowest byte first (R196, R197, R259). DEDUCED: log 20. -/
def checkSegs (w : World) (c : Nat) (sp : Space) (acc : Acc) (o : Order) (reg : Bool) : List (Nat × Nat) → World × Except Trap (List Seg)
  | [] => (w, .ok [])
  | (va, len) :: rest =>
    match locate w (.word c) sp acc va with
    | (w, .error f) => (w, .error { code := faultCause f, val := BitVec.ofNat 64 f.va })
    | (w, .ok (pa, cmp)) =>
      let g : Seg := { va := va, pa := pa, len := len, cmp := cmp }
      match checkPhys w c acc o reg g with
      | some t => (w, .error t)
      | none =>
        match checkSegs w c sp acc o reg rest with
        | (w, .ok gs) => (w, .ok (g :: gs))
        | (w, .error t) => (w, .error t)

/-- The parts of an access of `n` bytes at `va`: one for each page it touches. -/
def pageParts (va n : Nat) : List (Nat × Nat) :=
  let first := 2 ^ 17 - va % 2 ^ 17
  if n ≤ first then [(va, n)] else [(va, first), (va + first, n - first)]

/-- All the checks of a word's access of `n` bytes at `va`: alignment, then each part (R196, R259). DEDUCED: log 20. -/
def checkAccess (w : World) (c : Nat) (sp : Space) (acc : Acc) (o : Order) (va n : Nat) : World × Except Trap (List Seg) :=
  if o != .plain && va % n != 0 then (w, .error { code := 0x08, val := BitVec.ofNat 64 va })
  else checkSegs w c sp acc o (wordSized va n) (pageParts va n)

/-- Does an access at a physical address miss memory and reach a register (R283)? -/
def isMmio (w : World) (pa : Nat) : Bool := windowOf (homeOf w pa) == .aperture

/-- The bytes that a checked load reads. -/
def loadSegs (w : World) (m : List Host.Cell) : List Seg → List Byte
  | [] => []
  | g :: rest =>
    (if isMmio w g.pa then leBytes g.len (mmioRead w g.pa g.len) else bytesAt m (homeOf w g.pa) g.len) ++ loadSegs w m rest

/-- The caches after a checked access of a thread. -/
def touchSegs (w : World) (t : Nat) (k : Touch) : List Seg → World
  | [] => w
  | g :: rest => touchSegs (w.touch (dieOf (coreOf t)) (w.thread t).task g.pa g.len { k with cmp := g.cmp }) t k rest

/-- A word's load of `n` bytes at `va` from memory `m`: the machine after it, and the value or the trap (R196 to R198). -/
def loadFrom (s : State) (m : List Host.Cell) (acc : Acc) (o : Order) (k : Touch) (va : Word) (n : Nat) : State × Except Trap Nat :=
  match checkAccess s.w s.core (wordSpace s) acc o va.toNat n with
  | (w, .error t) => ({ s with w := w }, .error t)
  | (w, .ok gs) => ({ s with w := touchSegs w s.turn k gs }, .ok (leNat (loadSegs w m gs)))

/-- Memory `m` as thread `t` reads it: its own stores that stand at the store path, not performed, are laid over it in order (R200). -/
def ownView (w : World) (t : Nat) (m : List Host.Cell) : List Host.Cell :=
  (w.thread t).path.foldl (fun m x => setNum m (homeOf w x.pa) x.len x.val) m

/-- A word's load of `n` bytes at `va`. -/
def loadNum (s : State) (acc : Acc) (o : Order) (k : Touch) (va : Word) (n : Nat) : State × Except Trap Nat :=
  loadFrom s (ownView s.w s.turn s.w.mem) acc o k va n

/-- Must `y` wait at the store path behind `x`, which is not performed: it waits for every store, follows a fence that follows `x`, is to
the same bytes, or both are to registers (R200, R202, R361)? DEDUCED: log 27. -/
def PathStore.waitsFor (w : World) (y x : PathStore) : Bool :=
  y.rel || x.fenced || decide (homeOf w x.pa < homeOf w y.pa + y.len ∧ homeOf w y.pa < homeOf w x.pa + x.len)
    || (isMmio w x.pa && isMmio w y.pa)

/-- Thread `t`'s store path with one entry more. -/
def addPath (w : World) (t : Nat) (y : PathStore) : World :=
  w.setThread t { w.thread t with path := (w.thread t).path ++ [y] }

/-- Perform one part of a thread's store of `n` bytes (R196, R261, R264). -/
def performSeg (w : World) (t : Nat) (sp : Space) (k : Touch) (n : Nat) (g : Seg) (bs : List Byte) : World :=
  if isMmio w g.pa then mmioWrite w g.pa g.len (leNat bs)
  else
    let (w', lost) := storeMem w (.word (coreOf t)) (w.thread t).task g.pa { k with cmp := g.cmp } bs
    match lost with
    | some i => recordAndRaise w' t (discardRecord (coreOf t) 6 sp (g.va + i) (homeOf w (g.pa + i)) (Nat.log2 n)) false
    | none => w'

/-- A part of a thread's store that need wait for no other: performed, but to host memory or a peer on its way, until it has its answer
(R196, R260). -/
def dueSeg (w : World) (t : Nat) (sp : Space) (k : Touch) (g : Seg) (y : PathStore) (bs : List Byte) : World :=
  match windowOf (homeOf w g.pa) with
  | .host | .peer .. => addPath w t { y with phase := .sent }
  | _ => performSeg w t sp k y.size g bs

/-- The entry that a checked part of a store makes at the store path, a store of its own when it is the whole of one. -/
def pathStore (w : World) (sp : Space) (k : Touch) (rel : Bool) (g : Seg) (bs : List Byte) : PathStore :=
  { va := g.va, pa := g.pa, len := g.len, val := leNat bs, size := g.len, off := 0, sp := sp, touch := { k with cmp := g.cmp }, seq := w.cmdSeq, rel := rel
    fenced := false, phase := .waiting, met := false }

/-- Must a part of a store of thread `t` wait for a store at its store path (R200, R202)? -/
def segWaits (w : World) (t : Nat) (sp : Space) (k : Touch) (rel : Bool) (g : Seg) (bs : List Byte) : Bool :=
  (w.thread t).path.any ((pathStore w sp k rel g bs).waitsFor w)

/-- One checked part of a thread's store of `n` bytes, from byte `o` of it on, enters the store path (R196, R200, R202).
DEDUCED: log 12. -/
def storeSeg (w : World) (t : Nat) (sp : Space) (k : Touch) (rel : Bool) (n o : Nat) (g : Seg) (bs : List Byte) : World :=
  let y := { pathStore w sp k rel g bs with size := n, off := o }
  if segWaits w t sp k rel g bs then addPath w t y else dueSeg w t sp k g y bs

/-- Store the bytes of a store of `n` from byte `o` on over the parts that are left, in order. -/
def storeParted (w : World) (t : Nat) (sp : Space) (k : Touch) (rel : Bool) (n o : Nat) : List Seg → List Byte → World
  | [], _ => w
  | g :: rest, bs => storeParted (storeSeg w t sp k rel n o g (bs.take g.len)) t sp k rel n (o + g.len) rest (bs.drop g.len)

/-- Store a byte string over the parts of a checked store, in order. -/
def storeSegs (w : World) (t : Nat) (sp : Space) (k : Touch) (rel : Bool) (gs : List Seg) (bs : List Byte) : World :=
  storeParted w t sp k rel bs.length 0 gs bs

/-- The error response that a store at a store path meets (R261). -/
def noAnswer (w : World) (x : PathStore) : MemFault := { kind := 7, lvl := 3, fpa := homeOf w x.pa, va := x.va }

/-- The record of a store at the path of thread `t` that cannot be performed (R260, R261). -/
def pathRecord (t : Nat) (x : PathStore) (f : MemFault) : FaultRec := faultRecord (coreOf t) x.sp 1 (min 7 (Nat.log2 x.size)) 6 f

/-- A store at the path of thread `t` cannot be performed: it stalls in its place under a record; an uncorrectable error that it meets
again is fatal to the task (R260, R264). -/
def stallStore (w : World) (t : Nat) (x : PathStore) (f : MemFault) : World :=
  let p := poisonKind f.kind
  let w := recordAndRaise (addPath w t { x with phase := .stalled, met := x.met || p }) t (pathRecord t x f) false
  if p && x.met then declareFatal w (w.thread t).task 8 else w

/-- The error that a node meets at the physical bytes of one part, if any (R261, R264): an error response where nothing
serves the address, or a poisoned granule on a read. A register takes loads and stores of 4 or 8 bytes; `reg` says that the access is one
(R283). DESIGN CHOICE: log 97. -/
def physError (w : World) (who : Reach) (acc : Acc) (reg : Bool) (g : Seg) : Option MemFault :=
  if isMmio w g.pa && reg && (acc == .load || acc == .store) then none
  else if !served w who g.pa then some { kind := 7, lvl := 3, fpa := homeOf w g.pa, va := g.va }
  else if acc = .store then none
  else match findUp (fun i => poisoned w (g.pa + i)) g.len 0 with
    | some i => some { kind := 5, lvl := 3, fpa := homeOf w (g.pa + i), va := g.va + i }
    | none => none

/-- The part that an entry of a store path stores. -/
def PathStore.seg (x : PathStore) : Seg := { va := x.va, pa := x.pa, len := x.len, cmp := x.touch.cmp }

/-- A store of a store path goes its way, unless an earlier one holds it, an error meets it, or a budget holds it (R141, R200, R260). -/
def startStore (t : Nat) (w : World) (x : PathStore) : World :=
  if (w.thread t).path.any (x.waitsFor w) then addPath w t x
  else
    let w' := match physError w (.word (coreOf t)) .store (wordSized x.va x.len) x.seg with
      | some f => stallStore w t x f
      | none => dueSeg w t x.sp x.touch x.seg x (leBytes x.len x.val)
    if w.overrun w w' then addPath w t x else w'

/-- One entry of a store path, those before it having been dealt with: a store on its way has its answer and is performed, or stalls
where no routing ID reaches its peer; one issued again takes a new walk; one that need no longer wait goes its way; and one that a
budget holds waits (R141, R196, R260, R263, R371). -/
def settleStore (t : Nat) (w : World) (x : PathStore) : World :=
  match x.phase with
  | .stalled => addPath w t x
  | .sent =>
    let w' := if served w (.word (coreOf t)) x.pa then performSeg w t x.sp x.touch x.size x.seg (leBytes x.len x.val)
      else stallStore w t x (noAnswer w x)
    if w.overrun w w' then addPath w t x else w'
  | .waiting => startStore t w x
  | .again =>
    match locate w (.word (coreOf t)) x.sp .store x.va with
    | (w', .error f) => let w' := stallStore w' t x f
                        if w.overrun w w' then addPath w t x else w'
    | (w', .ok (pa, cmp)) =>
      if w.overrun w w' then addPath w t x
      else startStore t w' { x with pa := pa, touch := { x.touch with cmp := cmp }, phase := .waiting }

/-- The store path of thread `t` goes on. -/
def settlePath (w : World) (t : Nat) : World :=
  (w.thread t).path.foldl (settleStore t) (w.setThread t { w.thread t with path := [] })

/-- Every store path goes on. A store that has met no error response by now is performed (R196). DEDUCED: log 27. -/
def settlePaths (w : World) : World :=
  w.threads.foldl (fun w (t, th) => if th.path.isEmpty then w else settlePath w t) w

/-- Does a word of a list, from one that is no extension word, hold a fence (R202)? -/
def holdsFence : List W32 → Bool → Bool
  | [], _ => false
  | _ :: rest, true => holdsFence rest false
  | x :: rest, false => (match decode x 0 with
    | .ok i => i.isFence
    | .error _ => false) || holdsFence rest (isLong x)

/-- Must the stores of the block in hand wait for every store ahead of them: the block holds a fence, which puts them behind the accesses
of earlier blocks (R202)? -/
def blockFenced (s : State) : Bool :=
  match s.txn with
  | some x => !(x.saved.thread s.turn).path.isEmpty && holdsFence x.words false
  | none => false

/-- A fence of the block in hand has run: later accesses wait for the stores at the store path (R202). DEDUCED: log 12. -/
def fencePath (s : State) : State :=
  { s.setThr { s.thr with path := s.thr.path.map fun x => { x with fenced := true } } with
    txn := s.txn.map fun x => { x with fenced := true } }

/-- Memory without the block's indivisible words takes the block's stores too (R205). -/
def storePlain (w : World) (m : List Host.Cell) : List Seg → List Byte → List Host.Cell
  | [], _ => m
  | g :: rest, bs =>
    storePlain w (if isMmio w g.pa then m else setBytes m (homeOf w g.pa) (bs.take g.len)) rest (bs.drop g.len)

/-- A word's store of the low `n` bytes of `v` at `va` (R196 to R198). DEDUCED: log 12. -/
def storeNum (s : State) (o : Order) (k : Touch) (va : Word) (n v : Nat) : State × Except Trap Unit :=
  let sp := wordSpace s
  match checkAccess s.w s.core sp .store o va.toNat n with
  | (w, .error t) => ({ s with w := w }, .error t)
  | (w, .ok gs) =>
    let bs := leBytes n v
    ({ s with w := storeSegs w s.turn sp k (o == .acqRel || blockFenced s) gs bs,
              txn := s.txn.map fun x => { x with plain := x.plain.map fun m => storePlain w m gs bs } }, .ok ())

/-! ### Fetching a block -/

/-- A block as the fetch read it: lines and words 1 to `NWRD` (R166). -/
structure Fetched where
  lines : Nat
  nwrd : Nat
  words : List W32
  deriving DecidableEq, Repr

/-- Why a block is not begun: cause, tidx and tval (R167). -/
structure FetchFail where
  code : Nat
  idx : Nat
  val : Word
  deriving DecidableEq, Repr

/-- The 32 words of 128 bytes in memory. -/
def lineWords (m : List Host.Cell) (a : Nat) : List W32 :=
  (List.range 32).map fun i => BitVec.ofNat 32 (numAt m (a + 4 * i) 4)

/-- Fetch one line as thread `t`: ordinary reads, with the line's address in tval when it faults, or the lowest byte that met an
uncorrectable error (R167, R178, R258). The peer window, which is open to loads and stores of words and to copies (R282), answers no fetch.
DEDUCED: log 122. -/
def fetchLine (w : World) (t : Nat) (va : Nat) : World × Except FetchFail (List W32) :=
  let th := w.thread t
  let c := coreOf t
  let fail (code a : Nat) : Except FetchFail (List W32) := .error { code := code, idx := 0, val := BitVec.ofNat 64 a }
  match locate w (.word c) th.space .load va with
  | (w, .error f) => (w, fail (faultCause f) va)
  | (w, .ok (pa, cmp)) =>
    if isMmio w pa then (w, fail 0x0A va)
    else if !served w (.engine c) pa then (w, fail 0x0B va)
    else match [0, 32, 64, 96].find? (fun i => poisoned w (pa + i)) with
    | some i => (w, fail 0x0B (va + i))
    | none => (w.touch (dieOf c) th.task pa 128 { Touch.load with cmp := cmp }, .ok (lineWords w.mem (homeOf w pa)))

/-- Fetch `n` lines from `va`. -/
def fetchLines (w : World) (t va : Nat) : Nat → World × Except FetchFail (List W32)
  | 0 => (w, .ok [])
  | n + 1 =>
    match fetchLine w t va with
    | (w, .error f) => (w, .error f)
    | (w, .ok ws) =>
      match fetchLines w t (va + 128) n with
      | (w, .ok rest) => (w, .ok (ws ++ rest))
      | (w, .error f) => (w, .error f)

/-- The indices of the exits among words `i` on, and the first long form whose extension word lies outside (R167).
DEDUCED: log 14. -/
def scanWords : List W32 → Nat → Bool → List Nat × Option (Nat × W32)
  | [], _, _ => ([], none)
  | _ :: rest, i, true => scanWords rest (i + 1) false
  | x :: rest, i, false =>
    let (es, l) := scanWords rest (i + 1) (isLong x)
    let es := match decode x 0 with
      | .ok ins => if ins.isExit then i :: es else es
      | .error _ => es
    (es, if isLong x && rest.isEmpty then some (i, x) else l)

/-- The first nonzero word from index `i` on (R167). -/
def firstNonzero : List W32 → Nat → Option (Nat × W32)
  | [], _ => none
  | x :: rest, i => if x != 0 then some (i, x) else firstNonzero rest (i + 1)

/-- Fetch the block at the thread's block counter and check it (R166, R167). Where several rows of R167's table hold, the header comes first,
then `NWRD`, a fault of a later line, the padding, the ninth exit, and the long form. DESIGN CHOICE: log 123. -/
def fetchBlock (w : World) (t : Nat) : World × Except FetchFail Fetched :=
  let pc := (w.thread t).pc.toNat
  match fetchLine w t pc with
  | (w, .error f) => (w, .error f)
  | (w, .ok line0) =>
    let h := (line0.headD 0)
    let lines := bits h.toNat 15 14 + 1
    let nwrd := bits h.toNat 6 0
    let ill (i : Nat) (x : W32) : Except FetchFail Fetched := .error { code := 0x01, idx := i, val := x.setWidth 64 }
    if bits h.toNat 31 24 != 0xA5 || bits h.toNat 23 16 != 0 || bits h.toNat 13 7 != 0 then (w, ill 0 h)
    else if nwrd = 0 ∨ 32 * lines - 1 < nwrd then (w, ill 0 h)
    else
      match fetchLines w t (pc + 128) (lines - 1) with
      | (w, .error f) => (w, .error f)
      | (w, .ok more) =>
        let all := line0.tail ++ more
        let words := all.take nwrd
        match firstNonzero (all.drop nwrd) (nwrd + 1) with
        | some (i, x) => (w, ill i x)
        | none =>
          let (exits, long) := scanWords words 1 false
          match exits[8]? with
          | some i => (w, ill i (words.getD (i - 1) 0))
          | none =>
            match long with
            | some (i, x) => (w, ill i x)
            | none => (w, .ok { lines := lines, nwrd := nwrd, words := words })

/-- Begin a fetched block of the thread whose turn it is (R130). DEDUCED: log 7. -/
def beginBlock (s : State) (w : World) (b : Fetched) : State :=
  { s with w := w, txn := some { saved := w, base := (w.thread s.turn).pc, lines := b.lines, nwrd := b.nwrd, words := b.words, idx := 1,
                                 depG := 0, depP := 0, cres := 0, plain := none, sev := false, fenced := false, held := none, wakes := 0 } }

/-- Take a trap between blocks, for a block that is not begun (R131, R134, R167). -/
def trapUnbegun (s : State) (w : World) (t : Nat) (f : FetchFail) : State :=
  let w := trapInto w t f.code f.val (w.thread t).pc f.idx
  { s with w := w, turn := nextTurn w t }

end Sys2Proof.Machine
end

