-- ==== Sys2Proof/Machine/Fire.lean ====
section
/-! DEFINITION. How an element fires a handler: which one, what it takes, and what it emits (R64 to R67, R86 to R88, R91). -/

namespace Sys2Proof.Machine

/-- Is the handler the element's control reader (R67)? -/
def controlReader (pl : Tab Nat) (h : Nat) : Bool := bits (field pl 10) 5 4 == h && bits (field pl 10) 2 0 != 0

/-- Does the handler feed the control output (R91)? -/
def feedsControl (pl : Tab Nat) (h : Nat) : Bool := bit (field pl 11) 6 && bits (field pl 11) 5 4 == h

/-- Is an operation a compare (R91)? -/
def isCompare (op : Nat) : Bool := [0x11, 0x12, 0x13, 0x28, 0x29, 0x45].contains op

/-- Is an operand code a port? -/
def isPort (c : Nat) : Bool := decide (c < 4)

/-- The `MODE` bits an operation names, and the `AUX` bits (R90 to R108); the bits below reserve everything else. -/
def modeMask (op mode : Nat) : Nat × Nat :=
  if op = 0x03 then (4, 0)
  else if op = 0x11 ∨ op = 0x12 ∨ op = 0x13 then (8, 0)
  else if op < 0x20 then (0, 0)
  else if op = 0x28 ∨ op = 0x29 then (11, 0)
  else if op = 0x30 ∨ op = 0x31 then (7, 0)
  else if op < 0x40 then (3, 0)
  else if op = 0x42 then (1, if bit mode 0 then 0 else 0xFF)
  else if op = 0x45 then (8, 0)
  else if op = 0x49 then (1, 0)
  else if op = 0x4A then (7, 0)
  else if op < 0x60 then (0, 0)
  else if op = 0x60 then (15, 0)
  else if op = 0x61 then (12, 0)
  else if op = 0x62 ∨ op = 0x63 then (8, 0)
  else if op = 0x64 then (1, 0)
  else if op = 0x65 then (3, 0)
  else (0, 0)

/-- Is an operation one that uses the group bank (R106)? -/
def usesBank (op : Nat) : Bool := decide (0x60 ≤ op ∧ op ≤ 0x63)

/-- Does an enabled handler break R88: a reserved `MODE` or `AUX` bit, a register where a port is required, a control
consumer that is not the control reader, a second user of the group bank? -/
def fieldBad (pl : Tab Nat) (h : Nat) : Bool :=
  let x := handler pl h
  if 0x80 ≤ x.op then edgeFieldBad x
  else
    let (mm, am) := modeMask x.op x.mode
    let aPort := [0x42, 0x43, 0x44, 0x46, 0x47, 0x48, 0x60, 0x61, 0x62, 0x63, 0x65, 0x66].contains x.op
    let bPort := x.op == 0x43 || x.op == 0x44 || (x.op == 0x42 && bit x.mode 0)
    let ctl := x.op == 0x43 || x.op == 0x46 || x.op == 0x47 || (x.op == 0x42 && !bit x.mode 0)
    (x.mode &&& (15 - mm)) != 0 || (x.aux &&& (1023 - am)) != 0
      || (aPort && !isPort x.opa) || (bPort && !isPort x.opb) || (x.op == 0x43 && x.opa == x.opb)
      || (ctl && !controlReader pl h)
      || (usesBank x.op && (handlersOf pl).any fun g => g != h && usesBank (handler pl g).op)

/-- Does a plane hold an unmasked handler that breaks R88 when it becomes active? -/
def planeBad (pl : Tab Nat) : Bool := (handlersOf pl).any fun h => !(handler pl h).mask && fieldBad pl h

/-- Is an operation a source whose issue a pre-emption stops (R270)? -/
def isSource (x : Handler) : Bool := x.qreq == 0 || [0x80, 0x88, 0x89, 0xA2].contains x.op

/-! ### Whose marker is due (R265) -/

/-- Does an element emit its marker by itself: no active queue, and an `ldst` or a handler that requires no port? -/
def sourceElement (x : Elem) : Bool :=
  (activeQueues x.act).isEmpty && (handlersOf x.act).any fun h => (handler x.act h).op == 0x80 || (handler x.act h).qreq == 0

/-- Is an element one whose handlers all are `ldst`, one of them with a feedback port: the marker that it would wait for comes back to it only
behind its own (R69, R115, R265, R330)? DEDUCED: log 68. -/
def feedsBack (x : Elem) : Bool :=
  (handlersOf x.act).any (fun h => (handler x.act h).qreq != 0) && (handlersOf x.act).all fun h => (handler x.act h).op == 0x80

/-- Has an element still to emit, by itself, its marker of the cut in progress? -/
def markerDue (w : World) (r : Nat) (x : Elem) : Bool :=
  (w.region r).cutting && x.snap.isNone && planeConfigured x.act && (sourceElement x || (feedsBack x && x.early.isNone))

/-- May the handlers of an element fire at all: its core is on; its region runs, is not frozen, faulted, held by a budget or gated; the element
has not fired or flipped in this cycle; and no result of it stands before a marker that it has to emit (R61, R64, R65, R70, R141, R228, R265,
R266, R295)? DEDUCED: log 68. -/
def mayFire (w : World) (e h : Nat) : Bool :=
  match regionOf w e with
  | none => false
  | some r =>
    let g := w.region r
    let x := w.elem e
    powered w (eCore e) && g.running && !g.starting && !g.frozen && g.fault.isNone && !x.gated && decide (x.wake ≤ w.cycle) && w.admitted g.task 1
      && !(markerDue w r x && !x.acc.isEmpty)
      && !(g.draining && isSource (handler x.act h)) && (sectorAccepts w e).isSome

/-- Is a closing word of `cntr` or `grpc` due in a firing of its own: its run or group has ended in an earlier one (R104, R108)? -/
def closingDue (x : Elem) (h : Nat) : Bool :=
  let hd := handler x.act h
  (hd.op == 0x4A || hd.op == 0x66) && tabGet 0 h x.aux == 1

/-- The ports that a handler requires and that neither its operand a nor, but for a `dup`, which has none, its operand b names: triggers, of
each of which a firing takes a token (R86, R103). DEDUCED: log 130. -/
def triggers (hd : Handler) : List Nat := (portsOf hd.qreq).filter fun p => p != hd.opa && (p != hd.opb || hd.op == 0x48)

/-- Does every trigger of a handler hold a token? -/
def Elem.triggered (x : Elem) (h : Nat) : Bool := (triggers (handler x.act h)).all fun p => (x.seen p h).isSome

/-- May a `carry` fire: one of the four steps of R102 applies? -/
def carryReady (x : Elem) (h : Nat) : Bool :=
  let hd := handler x.act h
  let isData (t : Option Token) := match t with
    | some t => t.isData
    | none => false
  let b := x.seen hd.opb h
  let a := x.seen hd.opa h
  let reader := controlReader x.act h
  b.isSome || (reader && !x.cq.isEmpty)
    || (isData a && (x.kreg h 0 == 0 || decide ((x.kreg h 1).toNat < (x.kreg h 0).toNat)))
    || (a.isSome && !isData a && x.kreg h 1 == 0 && (x.part hd.opb h).isEmpty)

/-- May a `merge` fire (R100)? -/
def mergeReady (x : Elem) (h : Nat) : Bool :=
  let hd := handler x.act h
  let data (p : Nat) := match x.seen p h with
    | some t => t.isData
    | none => false
  let ctl (p : Nat) := match x.seen p h with
    | some t => t.isCtl
    | none => false
  (ctl hd.opa && ctl hd.opb) ||
    (match x.cq with
     | c :: _ => data (if c.b then hd.opa else hd.opb)
     | [] => false)

/-- Results that wait and need no access. -/
def Elem.pureWaiting (x : Elem) : Nat := (x.acc.filter fun a => a.op == .none).length

/-- Is a handler runnable (R64, R82, R91)? A compare that feeds the control output needs room there for a bit.
DEDUCED: log 61. -/
def runnable (w : World) (e h : Nat) : Bool :=
  let x := w.elem e
  let hd := handler x.act h
  let a := x.seen hd.opa h
  mayFire w e h && enabled x.act h && !hd.mask && decide (x.out.length + x.pureWaiting < 2)
    && !x.swtHead h
    && (!(isCompare hd.op && feedsControl x.act h) || decide (x.cout.length < 2))
    && (if hd.op = 0x43 then mergeReady x h && x.triggered h
        else if hd.op = 0x44 then carryReady x h && x.triggered h
        else if hd.op = 0x4B then !(x.heads h).isEmpty
        else if closingDue x h then true
        else if hd.op = 0x4A then x.allHeads h && !bit x.stopped h
        else if hd.op = 0x46 ∨ hd.op = 0x47 ∨ (hd.op = 0x42 ∧ bit hd.mode 0 = false) then
          x.allHeads h && (match a with
            | some t => t.isCtl || !x.cq.isEmpty
            | none => false)
        else if 0x80 ≤ hd.op then edgeReady w e h
        else x.allHeads h)

/-- The handler an element fires: highest priority, then the first from the context counter (R65). -/
def selected (w : World) (e : Nat) : Option Nat :=
  let x := w.elem e
  let order := (List.range 4).map fun i => (x.ctx + i) % 4
  let rs := order.filter (runnable w e)
  let top := rs.foldl (fun m h => max m (handler x.act h).prio) 0
  rs.find? fun h => (handler x.act h).prio == top

/-! ### Taking and emitting -/

/-- The value of an operand code (R86). -/
def operand (x : Elem) (h c : Nat) : W32 :=
  if c < 4 then (match x.seen c h with
    | some t => t.pay
    | none => 0) else x.kreg h (c - 4)

/-- The element with the head of partition (p, h) taken: what stands behind it is the head from the next cycle on, and so is the room (R63). -/
def Elem.take (x : Elem) (p h : Nat) : Elem :=
  { x.setPart p h (x.part p h).tail with freed := x.freed ||| 2 ^ (4 * p + h) }

/-- The element with one token taken from each required partition (R86). -/
def Elem.takeAll (x : Elem) (h : Nat) : Elem := (portsOf (handler x.act h).qreq).foldl (fun x p => x.take p h) x

/-- The element with one token taken from each trigger (R86). DEDUCED: log 130. -/
def Elem.takeTriggers (x : Elem) (h : Nat) : Elem := (triggers (handler x.act h)).foldl (fun x p => x.take p h) x

/-- The element with its first control bit taken (R63, R67). -/
def Elem.takeBit (x : Elem) : Elem := { x with cq := x.cq.tail, freed := x.freed ||| 2 ^ 20 }

/-- An entry of an element's order that needs no access: tokens of handler `h` that wait behind earlier accesses. -/
def pureEntry (h : Nat) (outs : List Out) : Access :=
  { h := h, ord := 0, nth := 0, op := .none, va := 0, len := 0, fmt := 0, val := 0, link := 0, hint := 0, pa := 0, cmp := false, outs := outs, slot := none
    phase := .done, epoch := 0, logged := none, met := false }

/-- The element with a result appended to its output buffer, never ahead of an earlier one (R63, R87). -/
def Elem.putOut (x : Elem) (o : Out) : Elem :=
  let last := match x.out.getLast? with
    | some y => y.ready
    | none => 0
  { x with out := x.out ++ [{ o with ready := max last o.ready }] }

/-- The element with a token appended to its output, `lat` cycles after `now`: behind the results of earlier firings,
those of its accesses included (R63, R87, R114). -/
def Elem.emitOn (x : Elem) (now lat lanes : Nat) (t : Token) : Elem :=
  let o : Out := { tok := t, lanes := lanes, ready := now + lat }
  if x.acc.isEmpty then x.putOut o else { x with acc := x.acc ++ [pureEntry 0 [o]] }

/-- Results of accesses that are done enter the output buffer in firing order, while it has room (R63, R114). -/
def Elem.flush (x : Elem) : Nat → Elem
  | 0 => x
  | n + 1 =>
    match x.acc with
    | a :: rest =>
      if a.phase = .done then
        match a.outs with
        | [] => Elem.flush { x with acc := rest } n
        | o :: os =>
          if x.out.length < 2 then Elem.flush ({ x with acc := { a with outs := os } :: rest }.putOut o) n else x
      else x
    | [] => x

/-- The element with every result delivered that may be. -/
def Elem.deliver (x : Elem) : Elem := x.flush (2 * x.acc.length + 4)

/-- The lanes an element's output feeds (R75). -/
def outl (x : Elem) : Nat := bits (field x.act 1) 7 0

/-- Both sets of handler `h`'s own `steer`: `OUTL`, and the lanes of `AUX` in binary mode (R99). -/
def steerLanes (x : Elem) (h : Nat) : Nat :=
  let hd := handler x.act h
  if bit hd.mode 0 then outl x else outl x ||| bits hd.aux 7 0

/-- Emit a data token of handler `h` (R87). -/
def Elem.emitData (x : Elem) (now lat h : Nat) (v : W32) : Elem :=
  x.emitOn now lat (outl x) { kind := 0, chan := (handler x.act h).och, pay := v }

/-- Emit a control word of handler `h`, one cycle after the firing (R66, R87). -/
def Elem.emitCtl (x : Elem) (now h : Nat) (t : Token) : Elem :=
  x.emitOn now 1 (outl x) { t with chan := (handler x.act h).och }

/-- OR flags into the numeric flag word of an element's region (R92). -/
def raiseNfl (w : World) (e : Nat) (f : Flags) : World :=
  match regionOf w e with
  | some r => if f = 0 then w else w.setRegion r { w.region r with nfl := (w.region r).nfl ||| f }
  | none => w

/-- After any firing of handler `h`, the one of its cycle: the context counter, the budget, and movement in the region (R65, R141, R267). -/
def fired (w : World) (e h : Nat) (x : Elem) : World :=
  let w := w.setElem e { x with ctx := (h + 1) % 4, busyAt := w.cycle, wake := w.cycle + 1 }
  let w := w.charge ((regionOf w e).bind fun r => (w.region r).task) 1 1
  moved w e

/-- A firing of handler `h` of element `e`, which must hold operation `op` and be the one the element fires now. -/
def fire (op e h : Nat) (body : World → Elem → Handler → World) (s : State) : Outcome :=
  event (fun w =>
    let x := w.elem e
    let hd := handler x.act h
    if selected w e == some h && hd.op == op then
      if fieldBad x.act h then elemFault w e 0x08
      else if (x.heads h).any Token.badCtl then elemFault w e 0x02
      else body w x hd
    else w) s

/-- R66: control words of one code at every required head pass, one taken from each and one copy emitted; heads that do
not match are an alignment fault; all data runs the operation. -/
def passOr (w : World) (e h : Nat) (x : Elem) (run : Unit → World) : World :=
  let ts := x.heads h
  match ts.find? Token.isCtl with
  | none => run ()
  | some t =>
    if ts.all (fun u => u.isCtl && u.code == t.code) then fired w e h ((x.takeAll h).emitCtl w.cycle h t)
    else elemFault w e 0x05

/-- A firing whose result is a function of its operands, with flags (R86, R87, R92). -/
def fireResult (op lat : Nat) (f : Nat → W32 → W32 → W32 → W32 × Flags) (e h : Nat) (s : State) : Outcome :=
  fire op e h (fun w x hd => passOr w e h x fun _ =>
    let (v, fl) := f hd.mode (operand x h hd.opa) (operand x h hd.opb) (operand x h hd.opc)
    raiseNfl (fired w e h ((x.takeAll h).emitData w.cycle lat h v)) e fl) s

/-- A compare: the bit goes out as data unless `MODE` bit 3 is set, and onto the control output if the handler feeds
it (R91). -/
def fireCompare (op : Nat) (f : W32 → W32 → Bool × Flags) (e h : Nat) (s : State) : Outcome :=
  fire op e h (fun w x hd => passOr w e h x fun _ =>
    let (b, fl) := f (operand x h hd.opa) (operand x h hd.opb)
    let y := x.takeAll h
    let y := if bit hd.mode 3 then y else y.emitData w.cycle 1 h (if b then 1 else 0)
    let y := if feedsControl x.act h then { y with cout := y.cout ++ [({ b := b, epoch := x.epoch, due := w.cycle + 1 }, bits (field x.act 11) 3 0)] } else y
    raiseNfl (fired w e h y) e fl) s

end Sys2Proof.Machine
end

