-- ==== Sys2Proof/Machine/FabricAlu.lean ====
section
/-! DEFINITION. The integer and fw32 operations of the fabric (R90 to R97). -/

namespace Sys2Proof.Machine

/-- An integer operation of two operands, one cycle to the output (R87, R90). -/
def fireInt (op : Nat) (f : W32 → W32 → W32) (e h : Nat) (s : State) : Outcome :=
  fireResult op 1 (fun _ a b _ => (f a b, 0)) e h s

def execIadd (e h : Nat) (s : State) : Outcome := fireInt 0x00 (· + ·) e h s
def execIsub (e h : Nat) (s : State) : Outcome := fireInt 0x01 (· - ·) e h s
def execImul (e h : Nat) (s : State) : Outcome := fireResult 0x02 2 (fun _ a b _ => (a * b, 0)) e h s
def execImulh (e h : Nat) (s : State) : Outcome :=
  fireResult 0x03 2 (fun m a b _ =>
    (if bit m 2 then BitVec.ofNat 32 (a.toNat * b.toNat / 2 ^ 32) else BitVec.ofInt 32 (a.toInt * b.toInt / 2 ^ 32), 0)) e h s
def execIand (e h : Nat) (s : State) : Outcome := fireInt 0x04 (· &&& ·) e h s
def execIor (e h : Nat) (s : State) : Outcome := fireInt 0x05 (· ||| ·) e h s
def execIxor (e h : Nat) (s : State) : Outcome := fireInt 0x06 (· ^^^ ·) e h s
def execIshl (e h : Nat) (s : State) : Outcome := fireInt 0x07 (fun a b => if 32 ≤ b.toNat then 0 else a <<< b.toNat) e h s
def execIshr (e h : Nat) (s : State) : Outcome := fireInt 0x08 (fun a b => a >>> b.toNat) e h s
def execIsra (e h : Nat) (s : State) : Outcome := fireInt 0x09 (fun a b => a.sshiftRight (min b.toNat 31)) e h s
def execImin (e h : Nat) (s : State) : Outcome := fireInt 0x0A (fun a b => if a.toInt ≤ b.toInt then a else b) e h s
def execImax (e h : Nat) (s : State) : Outcome := fireInt 0x0B (fun a b => if a.toInt ≤ b.toInt then b else a) e h s
def execIminn (e h : Nat) (s : State) : Outcome := fireInt 0x0C (fun a b => if a.toNat ≤ b.toNat then a else b) e h s
def execImaxn (e h : Nat) (s : State) : Outcome := fireInt 0x0D (fun a b => if a.toNat ≤ b.toNat then b else a) e h s
def execIabs (e h : Nat) (s : State) : Outcome := fireInt 0x0E (fun a _ => if a.toInt < 0 then -a else a) e h s
def execIaddsat (e h : Nat) (s : State) : Outcome :=
  fireInt 0x0F (fun a b => BitVec.ofNat 32 (saturate 32 true (a.toInt + b.toInt))) e h s
def execIclamp (e h : Nat) (s : State) : Outcome :=
  fireResult 0x10 1 (fun _ a b c => (BitVec.ofInt 32 (min (max a.toInt b.toInt) c.toInt), 0)) e h s
def execIceq (e h : Nat) (s : State) : Outcome := fireCompare 0x11 (fun a b => (a == b, 0)) e h s
def execIclt (e h : Nat) (s : State) : Outcome := fireCompare 0x12 (fun a b => (decide (a.toInt < b.toInt), 0)) e h s
def execIcltn (e h : Nat) (s : State) : Outcome := fireCompare 0x13 (fun a b => (decide (a.toNat < b.toNat), 0)) e h s

/-- The rounding mode of `MODE` bits 1..0 (R92). -/
def rmOf (m : Nat) : Nat := bits m 1 0

def execFabricFadd (e h : Nat) (s : State) : Outcome := fireResult 0x20 3 (fun m a b _ => fwAdd (rmOf m) a b) e h s
def execFabricFsub (e h : Nat) (s : State) : Outcome := fireResult 0x21 3 (fun m a b _ => fwSub (rmOf m) a b) e h s
def execFabricFmul (e h : Nat) (s : State) : Outcome := fireResult 0x22 3 (fun m a b _ => fwMul (rmOf m) a b) e h s
def execFabricFfma (e h : Nat) (s : State) : Outcome := fireResult 0x23 3 (fun m a b c => fwFma (rmOf m) a b c) e h s
def execFabricFmin (e h : Nat) (s : State) : Outcome := fireInt 0x24 fwMin e h s
def execFabricFmax (e h : Nat) (s : State) : Outcome := fireInt 0x25 fwMax e h s
def execFabricFabs (e h : Nat) (s : State) : Outcome := fireInt 0x26 (fun a _ => fwAbs a) e h s
def execFabricFneg (e h : Nat) (s : State) : Outcome := fireInt 0x27 (fun a _ => fwNeg a) e h s
def execFabricFceq (e h : Nat) (s : State) : Outcome := fireCompare 0x28 (fun a b => (fwEq a b, 0)) e h s
def execFabricFclt (e h : Nat) (s : State) : Outcome := fireCompare 0x29 fwLt e h s
def execFrcp (e h : Nat) (s : State) : Outcome := fireResult 0x2A 6 (fun m a _ _ => fwRcp (rmOf m) a) e h s
def execFrsq (e h : Nat) (s : State) : Outcome := fireResult 0x2B 6 (fun m a _ _ => fwRsq (rmOf m) a) e h s
def execFexp2 (e h : Nat) (s : State) : Outcome := fireResult 0x2C 6 (fun m a _ _ => fwExp2 (rmOf m) a) e h s
def execFlog2 (e h : Nat) (s : State) : Outcome := fireResult 0x2D 6 (fun m a _ _ => fwLog2 (rmOf m) a) e h s
def execFabricFscale (e h : Nat) (s : State) : Outcome :=
  fireResult 0x2E 1 (fun m a b _ => fwScale (rmOf m) a b.toInt) e h s
def execFabricFxexp (e h : Nat) (s : State) : Outcome := fireInt 0x2F (fun a _ => fwExp a) e h s

/-- fw32 to i32, or to n32 with `MODE` bit 2 (R97). -/
def fabricToInt (m : Nat) (a : W32) : W32 × Flags :=
  let (x, f) := if bit m 2 then fwToInt (rmOf m) 0 (2 ^ 32 - 1) a else fwToInt (rmOf m) (-2 ^ 31) (2 ^ 31 - 1) a
  (BitVec.ofInt 32 x, f)

def execFabricFcvti (e h : Nat) (s : State) : Outcome := fireResult 0x30 2 (fun m a _ _ => fabricToInt m a) e h s
def execFabricFcvtf (e h : Nat) (s : State) : Outcome :=
  fireResult 0x31 2 (fun m a _ _ => roundFw (.ofInt (if bit m 2 then (a.toNat : Int) else a.toInt)) (rmOf m)) e h s

end Sys2Proof.Machine
end

