-- ==== Sys2Proof/Machine/FabricFlow.lean ====
section
/-! DEFINITION. The flow operations of the fabric (R98 to R105). -/

namespace Sys2Proof.Machine

/-- mov: its operand, unchanged (R98). -/
def execFabricMov (e h : Nat) (s : State) : Outcome := fireResult 0x40 1 (fun _ a _ _ => (a, 0)) e h s

def execFabricSel (e h : Nat) (s : State) : Outcome := fireResult 0x41 1 (fun _ a b c => (if c ≠ 0 then a else b, 0)) e h s

/-- The control bit at the head of the control queue. -/
def Elem.bitHead (x : Elem) : Bool := match x.cq with
  | c :: _ => c.b
  | [] => false

/-- steer: binary by a control bit, on `OUTL` or on the lanes of `AUX`; indexed by u(b) mod 8, on one lane of `OUTL`.
A control word leaves on every lane of both sets and takes no bit (R99). -/
def execSteer (e h : Nat) (s : State) : Outcome :=
  fire 0x42 e h (fun w x hd =>
    let ts := x.heads h
    let y := x.takeAll h
    let out (y : Elem) (lanes : Nat) (t : Token) := fired w e h (y.emitOn w.cycle 1 lanes { t with chan := hd.och })
    match ts.find? Token.isCtl with
    | some t =>
      if ts.all (fun u => u.isCtl && u.code == t.code) then out y (steerLanes x h) t else elemFault w e 0x05
    | none =>
      let t : Token := { kind := 0, chan := 0, pay := operand x h hd.opa }
      if bit hd.mode 0 then
        let l := (operand x h hd.opb).toNat % 8
        if bit (outl x) l then out y (2 ^ l) t else elemFault w e 0x06
      else out y.takeBit (if x.bitHead then outl x else bits hd.aux 7 0) t) s

/-- merge: the data token of the arm that the control bit selects, or one control word for the two that match; a trigger's token goes with
either (R86, R100). -/
def execMerge (e h : Nat) (s : State) : Outcome :=
  fire 0x43 e h (fun w x hd =>
    let y := x.takeTriggers h
    match x.seen hd.opa h, x.seen hd.opb h with
    | some ta, some tb =>
      if ta.isCtl && tb.isCtl then
        if ta.code = tb.code then fired w e h (((y.take hd.opa h).take hd.opb h).emitCtl w.cycle h ta) else elemFault w e 0x05
      else
        let p := if x.bitHead then hd.opa else hd.opb
        fired w e h ((y.take p h).takeBit.emitData w.cycle 1 h (operand x h p))
    | _, _ =>
      let p := if x.bitHead then hd.opa else hd.opb
      fired w e h ((y.take p h).takeBit.emitData w.cycle 1 h (operand x h p))) s

/-- carry: the first of its four steps that applies; a control word that comes back is discarded, and a trigger's token goes with any step
(R86, R102). -/
def execCarry (e h : Nat) (s : State) : Outcome :=
  fire 0x44 e h (fun w x hd =>
    let x := x.takeTriggers h
    let reader := controlReader x.act h
    let k1 := x.kreg h 1
    let fromA (_ : Unit) : World :=
      match x.seen hd.opa h with
      | some t =>
        let y := x.take hd.opa h
        if t.isData then
          fired w e h ((if reader then y.setK h 1 (k1 + 1) else y).emitData w.cycle 1 h t.pay)
        else fired w e h (y.emitCtl w.cycle h t)
      | none => w
    let fromBit (_ : Unit) : World :=
      if reader && !x.cq.isEmpty then
        if x.bitHead then fired w e h x.takeBit
        else if k1 = 0 then elemFault w e 0x05
        else fired w e h (x.takeBit.setK h 1 (k1 - 1))
      else fromA ()
    match x.seen hd.opb h with
    | some t =>
      let y := x.take hd.opb h
      if t.isData then fired w e h (y.emitData w.cycle 1 h t.pay) else fired w e h y
    | none => fromBit ()) s

/-- inv: a compare with zero (R98). -/
def execInv (e h : Nat) (s : State) : Outcome := fireCompare 0x45 (fun a _ => (a == 0, 0)) e h s

/-- gate: a on a control bit of 1, else b (R101). -/
def execGate (e h : Nat) (s : State) : Outcome :=
  fire 0x46 e h (fun w x hd => passOr w e h x fun _ =>
    fired w e h ((x.takeAll h).takeBit.emitData w.cycle 1 h (operand x h (if x.bitHead then hd.opa else hd.opb)))) s

/-- filt: a on a control bit of 1, else nothing (R101). -/
def execFilt (e h : Nat) (s : State) : Outcome :=
  fire 0x47 e h (fun w x hd => passOr w e h x fun _ =>
    let y := (x.takeAll h).takeBit
    fired w e h (if x.bitHead then y.emitData w.cycle 1 h (operand x h hd.opa) else y)) s

/-- dup: one copy of the head; k1 counts the copies, and the token goes with the last of them, a trigger's with each (R86, R103). -/
def execDup (e h : Nat) (s : State) : Outcome :=
  fire 0x48 e h (fun w x hd => passOr w e h x fun _ =>
    let k1 := x.kreg h 1 + 1
    let v := operand x h hd.opa
    if x.kreg h 0 = 0 then fired w e h (x.takeAll h)
    else if k1 = x.kreg h 0 then fired w e h (((x.takeAll h).setK h 1 0).emitData w.cycle 1 h v)
    else fired w e h (((x.takeTriggers h).setK h 1 k1).emitData w.cycle 1 h v)) s

/-- drop: nothing for a data token; control words pass, or with `MODE` bit 0 are discarded as well, whatever stands at the other heads (R98).
DESIGN CHOICE: log 117. -/
def execDrop (e h : Nat) (s : State) : Outcome :=
  fire 0x49 e h (fun w x hd =>
    if bit hd.mode 0 then fired w e h (x.takeAll h)
    else passOr w e h x fun _ => fired w e h (x.takeAll h)) s

/-- The counter's registers after a run: k1 as the handler word gives it, k3 zero (R104). -/
def Elem.endRun (x : Elem) (h : Nat) : Elem := (x.setK h 1 (initK x.act h 1)).setK h 3 0

/-- The counter after a run and its closing word: stopped under `MODE` bit 2 (R104). DEDUCED: log 118. -/
def Elem.stopRun (x : Elem) (h mode : Nat) : Elem := if bit mode 2 then { x with stopped := x.stopped ||| 2 ^ h } else x

/-- cntr: the count and its step; a run that closes with a control word takes a firing of its own for it, and a counter that stops does so
with that firing, which it has still to make (R104). DEDUCED: log 118. -/
def execCntr (e h : Nat) (s : State) : Outcome :=
  fire 0x4A e h (fun w x hd =>
    if closingDue x h then
      fired w e h (({ x with aux := tabDel h x.aux }.stopRun h hd.mode).emitCtl w.cycle h (ctlWord (bits hd.mode 1 0) 0))
    else passOr w e h x fun _ =>
      let k1 := x.kreg h 1
      let k3 := x.kreg h 3 + 1
      let y := (((x.takeAll h).setK h 1 (k1 + x.kreg h 2)).setK h 3 k3).emitData w.cycle 1 h k1
      fired w e h (if x.kreg h 0 = 0 ∨ k3 ≠ x.kreg h 0 then y
        else if bits hd.mode 1 0 = 0 then (y.endRun h).stopRun h hd.mode else { y.endRun h with aux := tabSet h 1 y.aux })) s

/-- sink: the head of the lowest-numbered port that has one; an EOS counts in k1, and the sink reports once, when k1
first equals a nonzero k0 (R105). -/
def execSink (e h : Nat) (s : State) : Outcome :=
  fire 0x4B e h (fun w x hd =>
    match (portsOf hd.qreq).find? fun p => (x.seen p h).isSome with
    | none => w
    | some p =>
      let y := x.take p h
      match x.seen p h with
      | some t =>
        if t.isCtl && t.code == 3 then
          let k1 := if x.kreg h 1 = BitVec.allOnes 32 then x.kreg h 1 else x.kreg h 1 + 1
          let y := y.setK h 1 k1
          fired w e h (if x.kreg h 0 ≠ 0 ∧ k1 = x.kreg h 0 then { y with reported := y.reported ||| 2 ^ h } else y)
        else fired w e h y
      | none => w) s

end Sys2Proof.Machine
end

