-- ==== Sys2Proof/Machine/FabricGroup.lean ====
section
/-! DEFINITION. The group and header operations of the fabric (R106 to R108). -/

namespace Sys2Proof.Machine

/-- The element with an empty group bank and k1, k2 and k3 of handler `h` zero, as after a closing word (R107). -/
def Elem.closeGroup (x : Elem) (h : Nat) : Elem := (({ x with bank := [] }.setK h 1 0).setK h 2 0).setK h 3 0

/-- A group operation: `add` takes a data token into lane k1 of the bank, `res` is result i at a closing word (R106, R107).
`n` is the number of lanes, none when k0 is out of its range. -/
def fireGroup (op : Nat) (lanes : Elem → Nat → Option Nat) (add : Elem → Nat → Nat → W32 → Tab W32 × Flags)
    (res : Elem → Nat → Nat → W32) (e h : Nat) (s : State) : Outcome :=
  fire op e h (fun w x hd =>
    match lanes x h, x.seen hd.opa h with
    | none, _ => elemFault w e 0x08
    | _, none => w
    | some n, some t =>
      if t.isCtl then
        let closing := t.code == (if bit hd.mode 3 then 1 else 2)
        if !(x.heads h).all (fun u => u.isCtl && u.code == t.code) then elemFault w e 0x05
        else if closing || (t.code == 3 && x.kreg h 2 != 0) then
          if (x.kreg h 3).toNat < n then
            fired w e h ((x.setK h 3 (x.kreg h 3 + 1)).emitData w.cycle 1 h (res x h (x.kreg h 3).toNat))
          else fired w e h (((x.takeAll h).closeGroup h).emitCtl w.cycle h t)
        else fired w e h ((x.takeAll h).emitCtl w.cycle h t)
      else if (x.heads h).any Token.isCtl then elemFault w e 0x05
      else
        let j := (x.kreg h 1).toNat % n
        let (bank, fl) := add x h j t.pay
        let y := { x.takeAll h with bank := bank }
        let y := y.setK h 1 (BitVec.ofNat 32 ((j + 1) % n))
        let y := y.setK h 2 (if x.kreg h 2 = BitVec.allOnes 32 then x.kreg h 2 else x.kreg h 2 + 1)
        raiseNfl (fired w e h y) e fl) s

/-- The lanes of accg and maxg: k0, from 1 to 4 (R107). -/
def groupLanes (x : Elem) (h : Nat) : Option Nat :=
  let n := (x.kreg h 0).toNat
  if 1 ≤ n ∧ n ≤ 4 then some n else none

/-- Keep `f old x` in lane j, or x in an empty lane. -/
def intoLane (f : Nat → W32 → W32 → W32 × Flags) (x : Elem) (h j : Nat) (v : W32) : Tab W32 × Flags :=
  if tabHas j x.bank then
    let (y, fl) := f (handler x.act h).mode (tabGet 0 j x.bank) v
    (tabSet j y x.bank, fl)
  else (tabSet j v x.bank, 0)

/-- The result of a lane: its value, or zero when it is empty (R107). -/
def laneResult (x : Elem) (_ i : Nat) : W32 := tabGet 0 i x.bank

def execAccg (e h : Nat) (s : State) : Outcome :=
  fireGroup 0x60 groupLanes
    (intoLane fun m a b => if bit m 2 then (BitVec.ofNat 32 (saturate 32 true (a.toInt + b.toInt)), 0) else fwAdd (bits m 1 0) a b)
    laneResult e h s

def execMaxg (e h : Nat) (s : State) : Outcome :=
  fireGroup 0x61 groupLanes
    (intoLane fun m a b => (if bit m 2 then (if a.toInt ≤ b.toInt then b else a) else fwMax a b, 0)) laneResult e h s

/-- argmx: lane 0 holds the best value and lane 1 its index; the first index is kept on equal values (R107). -/
def execArgmx (e h : Nat) (s : State) : Outcome :=
  fireGroup 0x62 (fun _ _ => some 1)
    (fun x h _ v =>
      if isNaN v || (tabHas 0 x.bank && !(fwLt (tabGet 0 0 x.bank) v).1) then (x.bank, 0)
      else (tabSet 0 v (tabSet 1 (x.kreg h 2) x.bank), 0))
    (fun x _ _ => tabGet (BitVec.allOnes 32) 1 x.bank) e h s

def execCntg (e h : Nat) (s : State) : Outcome :=
  fireGroup 0x63 (fun _ _ => some 1) (fun x _ _ _ => (x.bank, 0)) (fun x h _ => x.kreg h 2) e h s

/-- hdrw: a header token, or an element fault for a word that breaks R58 (R108). -/
def execHdrw (e h : Nat) (s : State) : Outcome :=
  fire 0x64 e h (fun w x hd => passOr w e h x fun _ =>
    let a := operand x h hd.opa
    let t : Token := { kind := 1, chan := hd.och
                       pay := if bit hd.mode 0 then a else (x.kreg h 0 &&& 0xFFFFFF00) ||| (a &&& 0xFF) }
    if t.badHeader then elemFault w e 0x03 else fired w e h ((x.takeAll h).emitOn w.cycle 1 (outl x) t)) s

/-- a scaled by the latched block scale, computed and rounded: a zero has fraction 0 (R108, R302). DEDUCED: log 19. -/
def scaleBy (rm : Nat) (latch a : W32) : W32 × Flags :=
  let sc := latch.toNat % 256
  match fw a with
  | .nan => (fwNaN, 0)
  | .zero s => if sc = 255 then (fwNaN, fNV) else roundFw (.zero s) rm
  | _ => if sc = 255 then (fwNaN, fNV) else fwScale rm a ((sc : Int) - 127)

/-- DEDUCED: log 19. -/
def execScal (e h : Nat) (s : State) : Outcome :=
  fire 0x65 e h (fun w x hd => passOr w e h x fun _ =>
    let (v, fl) := scaleBy (bits hd.mode 1 0) (x.latchOf h hd.opa) (operand x h hd.opa)
    raiseNfl (fired w e h ((x.takeAll h).emitData w.cycle 1 h v)) e fl) s

/-- grpc: every data token passes, and an EOG follows each group in a firing of its own (R106, R108). -/
def execGrpc (e h : Nat) (s : State) : Outcome :=
  fire 0x66 e h (fun w x hd =>
    if closingDue x h then fired w e h ({ x with aux := tabDel h x.aux }.emitCtl w.cycle h (ctlWord 2 0))
    else match (x.heads h).find? Token.isCtl with
      | some t =>
        passOr w e h (if t.code = 2 ∨ t.code = 3 then x.setK h 1 0 else x) fun _ => w
      | none =>
        let k0 := (x.kreg h 0).toNat
        let g := if k0 = 0 then bits (x.latchOf h hd.opa).toNat 15 8 + 1 else k0
        let k1 := x.kreg h 1 + 1
        let y := (x.takeAll h).emitData w.cycle 1 h (operand x h hd.opa)
        fired w e h (if g ≤ k1.toNat then { y.setK h 1 0 with aux := tabSet h 1 y.aux } else y.setK h 1 k1)) s

end Sys2Proof.Machine
end

