-- ==== Sys2Proof/Machine/Node.lean ====
section
/-! DEFINITION. The accesses of memory nodes: translation, errors, and the records of their faults (R254, R260 to R264). -/

namespace Sys2Proof.Machine

/-- The parts of an access of `n` bytes at `va`, one for each page it touches. -/
def partsOf (va n : Nat) : Nat → List (Nat × Nat)
  | 0 => []
  | k + 1 =>
    let first := 2 ^ 17 - va % 2 ^ 17
    if n = 0 then [] else if n ≤ first then [(va, n)] else (va, first) :: partsOf (va + first) (n - first) k

/-- Translate and check the parts of a node's access, lowest byte first. -/
def nodeSegs (w : World) (who : Reach) (sp : Space) (acc : Acc) (reg : Bool) : List (Nat × Nat) → World × Except MemFault (List Seg)
  | [] => (w, .ok [])
  | (va, len) :: rest =>
    match locate w who sp acc va with
    | (w, .error f) => (w, .error f)
    | (w, .ok (pa, cmp)) =>
      let g : Seg := { va := va, pa := pa, len := len, cmp := cmp }
      match physError w who acc reg g with
      | some f => (w, .error f)
      | none =>
        match nodeSegs w who sp acc reg rest with
        | (w, .ok gs) => (w, .ok (g :: gs))
        | (w, .error f) => (w, .error f)

/-- The checked parts of a node's access of `n` bytes at `va`. -/
def nodeAccess (w : World) (who : Reach) (sp : Space) (acc : Acc) (va n : Nat) : World × Except MemFault (List Seg) :=
  nodeSegs w who sp acc (wordSized va n) (partsOf va n (n / 2 ^ 17 + 2))

/-- The bytes of checked parts. -/
def segBytes (w : World) (gs : List Seg) : List Byte := loadSegs w w.mem gs

/-- The caches after an access to checked parts. -/
def touchParts (w : World) (who : Reach) (task : Option Nat) (k : Touch) (gs : List Seg) : World :=
  gs.foldl (fun w g => w.touch who.die task g.pa g.len { k with cmp := g.cmp }) w

/-- A node's load of `n` bytes at `va`. -/
def nodeLoad (w : World) (who : Reach) (task : Option Nat) (sp : Space) (k : Touch) (va n : Nat) :
    World × Except MemFault (List Byte) :=
  match nodeAccess w who sp .load va n with
  | (w, .error f) => (w, .error f)
  | (w, .ok gs) => (touchParts w who task k gs, .ok (segBytes w gs))

/-- Store bytes over one checked part, a register's through the aperture (R283); answers the lowest byte that poison discarded (R264). -/
def storePart (w : World) (who : Reach) (task : Option Nat) (k : Touch) (g : Seg) (bs : List Byte) : World × Option Nat :=
  if isMmio w g.pa then (mmioWrite w g.pa g.len (leNat bs), none) else storeMem w who task g.pa { k with cmp := g.cmp } bs

/-- Store bytes over checked parts; answers the parts in which poison discarded some of them, each from the lowest byte discarded (R261,
R264). -/
def storeParts (w : World) (who : Reach) (task : Option Nat) (k : Touch) : List Seg → List Byte → World × List Seg
  | [], _ => (w, [])
  | g :: rest, bs =>
    let r := storePart w who task k g (bs.take g.len)
    let (w, more) := storeParts r.1 who task k rest (bs.drop g.len)
    (w, match r.2 with
      | some i => { g with va := g.va + i, pa := g.pa + i } :: more
      | none => more)

/-- A node's store of bytes at `va`: the machine after it, and the parts that poison discarded. -/
def nodeStore (w : World) (who : Reach) (task : Option Nat) (sp : Space) (k : Touch) (va : Nat) (bs : List Byte) :
    World × Except MemFault (List Seg) :=
  match nodeAccess w who sp .store va bs.length with
  | (w, .error f) => (w, .error f)
  | (w, .ok gs) => let (w, lost) := storeParts w who task k gs bs; (w, .ok lost)

/-! ### Records -/

/-- The task an access of a region is charged to. -/
def World.taskOf (w : World) (r : Nat) : Option Nat := (w.region r).task

/-- A task's entry. -/
def World.task? (w : World) (k : Nat) : Option Task := (w.tasks.find? (·.1 == k)).map (·.2)

/-- Write a record to the ring of a task with no thread, when it has one (R260). -/
def writeTaskRecord (w : World) (c k : Nat) (r : FaultRec) : World :=
  match w.task? k with
  | none => w
  | some x =>
    if x.fring = 0 then w
    else
      let w := { w with tasks := tabSet k { x with frecs := x.frecs + 1 } w.tasks }
      match nodeStore w (.engine c) (some k) { x.space with user := false } Touch.store (x.fring + 64 * (x.frecs % 64)) r.bytes with
      | (w, _) => w

/-- A record of region `r`, and the event of `code` where one is raised, go to the region's owner, setting its event flag; with no owner
the record goes to its task's ring (R217, R260, R266). -/
def regionRecord (w : World) (r : Nat) (rec : FaultRec) (code : Option Nat) : World :=
  match (w.region r).owner, (w.region r).task with
  | some t, _ => match code with
    | some c => send w { rcv := t, record := some rec, code := c, val := 0, flag := true }
    | none => setFlag (writeRecord w t rec).1 t
  | none, some k => writeTaskRecord w (r / 4) k rec
  | none, none => w

/-- Can region `r` take a record now: its owner is no saved thread (R262)? -/
def regionCanReceive (w : World) (r : Nat) : Bool :=
  match (w.region r).owner with
  | some t => decide (t < threadCount)
  | none => true

/-- The records of the parts of a node's stores of 2^`szl` bytes that poison discarded, with their events: the node carries on (R261,
R264). -/
def noteLost (w : World) (t core : Nat) (sp : Space) (agt unit ord szl : Nat) (lost : List Seg) : World :=
  lost.foldl (fun w g =>
    recordAndRaise w t { discardRecord core agt sp g.va (homeOf w g.pa) szl with unit := unit, ord := ord } false) w

/-- The same for a node that works for region `r`, the element's record among them: to its owner, or to its task's ring. -/
def noteLostIn (w : World) (r agt unit ord strm szl : Nat) (sp : Space) (lost : List Seg) : World :=
  lost.foldl (fun w g =>
    regionRecord w r { discardRecord (r / 4) agt sp g.va (homeOf w g.pa) szl with
      unit := unit, ord := ord, strm := strm, rgn := if agt = 0 then r % 4 else 0 } (some 0x25)) w

end Sys2Proof.Machine
end

