-- ==== Sys2Proof/Machine/EdgeAccess.lean ====
section
/-! DEFINITION. The accesses of edge elements: conversions between storage and tokens, and how an access is performed
(R112, R114, R118 to R120, R124). -/

namespace Sys2Proof.Machine

/-! ### Conversions (R112) -/

/-- The token of a stored element, with the flags of a rounding load (R112, R309). -/
def loadToken (fmt x : Nat) : W32 × Flags :=
  match intFmt fmt with
  | some (wd, sgd) => (BitVec.ofInt 32 (if sgd then sgn wd x else (x % 2 ^ wd : Nat)), 0)
  | none => if fmt = 0x0B then (BitVec.ofNat 32 x, 0) else roundFw (fmtVal fmt x) 0

/-- The stored element of a token, and its flags (R112, R300, R308). -/
def storeToken (fmt : Nat) (t : W32) : Nat × Flags :=
  match intFmt fmt, floatFmt fmt with
  | some (wd, sgd), _ => (saturate wd sgd (if sgd then t.toInt else t.toNat), 0)
  | none, some f => if fmt = 0x0B then (t.toNat, 0) else roundTo (fw t) f 0
  | none, none => toE8m0 (fw t) 0

/-- A sum in fp32 or fw32 rounded once, to nearest even, in the format (R118, R120). -/
def addIn (fmt old : Nat) (b : W32) : Nat × Flags :=
  let (v, f1) := addVal 0 (fmtVal fmt old) (fw b)
  match floatFmt fmt with
  | some f => let (x, f2) := roundTo v f 0; (x, f1 ||| f2)
  | none => (0, 0)

/-- The new value of an `amo`, by its `MODE` (R118). -/
def amoNew (mode fmt old : Nat) (b c : W32) : Nat × Flags :=
  let o := BitVec.ofNat 32 old
  let r (x : W32) : Nat × Flags := (x.toNat, 0)
  match mode with
  | 0 => r (o + b)
  | 1 => r (o &&& b)
  | 2 => r (o ||| b)
  | 3 => r (o ^^^ b)
  | 4 => r (if o.toInt ≤ b.toInt then o else b)
  | 5 => r (if o.toInt ≤ b.toInt then b else o)
  | 6 => r (if o.toNat ≤ b.toNat then o else b)
  | 7 => r (if o.toNat ≤ b.toNat then b else o)
  | 8 => r b
  | 9 => r (if o = c then b else o)
  | _ => addIn fmt old b

/-- The stored value of a `chadd` (R120): modulo 2^32, once rounded, or bf16 through fw32. -/
def chainAdd (fmt old : Nat) (b : W32) : Nat × Flags :=
  if (intFmt fmt).isSome then ((BitVec.ofNat 32 old + b).toNat, 0)
  else if fmt = 0x08 then
    let (s, f1) := fwAdd 0 (loadToken fmt old).1 b
    let (x, f2) := storeToken fmt s
    (x, f1 ||| f2)
  else addIn fmt old b

/-! ### Performing an access -/

/-- The agent an edge element reaches memory as. -/
def edgeReach (e : Nat) : Reach := .engine (eCore e)

/-- The space of the accesses of an element's region (R254). -/
def edgeSpace (w : World) (e : Nat) : Space :=
  match regionOf w e with
  | some r => (w.region r).space
  | none => Region.reset.space

/-- The task an element works for. -/
def edgeTask (w : World) (e : Nat) : Option Nat := (regionOf w e).bind fun r => (w.region r).task

/-- What comes of performing an access: done with a value, its first step done and another access due in its place, a memory fault, or an
element fault. -/
inductive Performed where
  | done (w : World) (v : Nat) (f : Flags)
  | goesOn (w : World) (slot : Nat) (b : Access)
  | stalls (w : World) (f : MemFault)
  | bad (w : World) (cause : Nat)
  deriving DecidableEq, Repr

def AccessOp.acc : AccessOp → Acc
  | .none | .load => .load
  | .store | .entry .. => .store
  | .amo .. | .orWord | .append => .atomic
  | .chainLoad | .chainStore | .chainAdd => .chain

def AccessOp.isChain : AccessOp → Bool
  | .chainLoad | .chainStore | .chainAdd => true
  | _ => false

def AccessOp.isEntry : AccessOp → Bool
  | .entry .. => true
  | _ => false

def AccessOp.writes : AccessOp → Bool
  | .none | .load | .chainLoad => false
  | _ => true

/-- The cache hints of an access. -/
def Access.touch (a : Access) : Touch :=
  { write := a.op.writes, atomic := a.op.isChain || (match a.op with
      | .amo .. | .orWord | .append => true
      | _ => false), na := bit a.hint 1, evf := bit a.hint 0, cmp := false }

/-- Does a physical address lie where an indivisible or chain access has no home (R118, R349)? -/
def noHome (pa : Nat) : Bool :=
  match windowOf pa with
  | .host | .peer .. | .aperture => true
  | _ => false

/-- Translate an indivisible or chain access, which never crosses a page: the part, or the fault. DEDUCED: log 26. -/
def locateWord (w : World) (e : Nat) (a : Access) : World × Except (Except Nat MemFault) Seg :=
  match locate w (edgeReach e) (edgeSpace w e) a.op.acc a.va with
  | (w, .error f) => (w, .error (.ok f))
  | (w, .ok (pa, cmp)) =>
    if noHome pa then (w, .error (.error 0x07))
    else
      let g : Seg := { va := a.va, pa := pa, len := a.len, cmp := cmp }
      match physError w (edgeReach e) a.op.acc false g with
      | some f => (w, .error (.ok f))
      | none => (w, .ok g)

/-- The bytes stored for an access of an element, with the records of those that poison discarded (R264). -/
def edgeStore (w : World) (e : Nat) (a : Access) (gs : List Seg) (bs : List Byte) : World :=
  let (w, lost) := storeParts w (edgeReach e) (edgeTask w e) a.touch gs bs
  match regionOf w e with
  | some r => noteLostIn w r 0 (relCol w r e * 256 + relRow w r e) a.ord (streamKey w e a.h % 64) (Nat.log2 a.len) (edgeSpace w e) lost
  | none => w

/-- The `QBASE` of the refresh queue descriptor whose counts an append's access stands at (R48). -/
def queueBase (w : World) (g : Seg) : Nat := leNat (segBytes w [{ g with pa := g.pa - 8, len := 8 }])

/-- The first step of an append to the refresh queue whose descriptor holds its counts at offset 8 (R48, R49): one fused
read-modify-write, which takes a slot or, when the queue is full, sets `OVF` and returns all ones. A queue descriptor whose `QBASE` is not
a multiple of 8 is a descriptor fault like one whose `QCAP` is wrong; its reserved bits are not looked at.
DESIGN CHOICE: log 98. -/
def appendEntry (w : World) (e : Nat) (a : Access) : Performed :=
  match locateWord w e a with
  | (w, .error (.ok f)) => .stalls w f
  | (w, .error (.error c)) => .bad w c
  | (w, .ok g) =>
    let at_ (o n : Nat) : Nat := leNat (segBytes w [{ g with pa := g.pa - 8 + o, len := n }])
    let qbase := queueBase w g
    let head := at_ 8 4
    let tail := at_ 12 4
    let cap := at_ 16 4
    let put (o n v : Nat) : World := edgeStore w e a [{ g with pa := g.pa - 8 + o, len := n }] (leBytes n v)
    if qbase % 8 != 0 || cap = 0 || decide (2 ^ 24 < cap) || cap &&& (cap - 1) != 0 then .bad w 0x07
    else if (tail + 2 ^ 32 - head) % 2 ^ 32 < cap then
      let slot := tail % cap
      .goesOn (put 12 4 ((tail + 1) % 2 ^ 32)) slot { a with op := .entry slot (some (exactAddr (qbase + 8 * slot))) }
    else .done (put 0x14 1 (at_ 0x14 1 ||| 1)) 0xFFFFFFFF 0

/-- A store of an access of an element at `va`; `v` is the value that the access returns. -/
def edgeWrite (w : World) (e : Nat) (a : Access) (va v : Nat) : Performed :=
  match nodeAccess w (edgeReach e) (edgeSpace w e) .store va a.len with
  | (w, .error f) => .stalls w f
  | (w, .ok gs) => .done (edgeStore w e a gs (leBytes a.len a.val)) v 0

/-- The second step of an append: the entry, stored whole in the slot taken, at the address that the first step gave it or, in a replay, that
the descriptor gives (R49, R119). -/
def storeEntry (w : World) (e : Nat) (a : Access) (slot : Nat) : Option Nat → Performed
  | some va => edgeWrite w e a va slot
  | none =>
  match locateWord w e { a with op := .append } with
  | (w, .error (.ok f)) => .stalls w f
  | (w, .error (.error c)) => .bad w c
  | (w, .ok g) => edgeWrite w e a (exactAddr (queueBase w g + 8 * slot)) slot

/-- Perform an access other than a chain access at its home (R49, R114, R118). DEDUCED: log 26. -/
def performAccess (w : World) (e : Nat) (a : Access) : Performed :=
  let task := edgeTask w e
  match a.op with
  | .none => .done w 0 0
  | .load =>
    match nodeLoad w (edgeReach e) task (edgeSpace w e) a.touch a.va a.len with
    | (w, .error f) => .stalls w f
    | (w, .ok bs) => .done w (leNat bs) 0
  | .store => edgeWrite w e a a.va 0
  | .entry slot va => storeEntry w e a slot va
  | .amo mode cmp =>
    match locateWord w e a with
    | (w, .error (.ok f)) => .stalls w f
    | (w, .error (.error c)) => .bad w c
    | (w, .ok g) =>
      let old := leNat (segBytes w [g])
      let (v, f) := amoNew mode a.fmt old (BitVec.ofNat 32 a.val) (BitVec.ofNat 32 cmp)
      .done (edgeStore w e a [g] (leBytes a.len v)) old f
  | .orWord =>
    match locateWord w e a with
    | (w, .error (.ok f)) => .stalls w f
    | (w, .error (.error c)) => .bad w c
    | (w, .ok g) =>
      let old := leNat (segBytes w [g])
      .done (edgeStore w e a [g] (leBytes a.len (old ||| a.val))) old 0
  | .append => appendEntry w e a
  | .chainLoad | .chainStore | .chainAdd => .done w 0 0

/-- Perform a chain access that its unit takes, at the physical address it was sent with (R120, R351). -/
def performChain (w : World) (e : Nat) (a : Access) : World × Nat × Flags :=
  let g : Seg := { va := a.va, pa := a.pa, len := a.len, cmp := a.cmp }
  let old := leNat (segBytes w [g])
  let put (v : Nat) (f : Flags) := (edgeStore w e a [g] (leBytes a.len v), old, f)
  match a.op with
  | .chainStore => put a.val 0
  | .chainAdd => let (v, f) := chainAdd a.fmt old (BitVec.ofNat 32 a.val); put v f
  | _ => (touchParts w (edgeReach e) (edgeTask w e) a.touch [g], old, 0)

/-! ### The element's slots -/

/-- The format of a block header's scale byte: its value goes into the low bits of the header word (R111). -/
def headerFmt : Nat := 0x40

/-- The payload that a value gives the token of its access, and flags. -/
def returned (a : Access) (pay : W32) (v : Nat) : W32 × Flags :=
  if a.fmt = headerFmt then (pay ||| BitVec.ofNat 32 v, 0) else loadToken a.fmt v

/-- Access `a` with the value it returns in its token. -/
def Access.complete (a : Access) (v : Nat) : Access × Flags :=
  match a.slot with
  | none => ({ a with phase := .done }, 0)
  | some i =>
    match a.outs[i]? with
    | none => ({ a with phase := .done }, 0)
    | some o =>
      let (p, f) := returned a o.tok.pay v
      ({ a with phase := .done, outs := listSet a.outs i { o with tok := { o.tok with pay := p } } }, f)

/-- Request a cut: it begins a new epoch, or joins the one being taken (R265). -/
def requestCut (w : World) (r : Nat) : World :=
  let g := w.region r
  if !g.running || g.starting || g.frozen || g.cutting then w
  else w.setRegion r { g with epoch := (g.epoch + 1) % 2 ^ 16, cutting := true }

/-- The element of a full replay log requests a cut (R119). DEDUCED: log 69. -/
def logFull (w : World) (e : Nat) : World :=
  match regionOf w e with
  | some r => if 16 ≤ (w.elem e).logged ∧ (w.region r).fault.isNone then requestCut w r else w
  | none => w

/-- What stands in the replay log for an append that has taken its slot and not yet stored its entry: a replay stores the entry, and takes
no second slot (R49, R119). -/
def slotTaken (slot : Nat) : Nat := 2 ^ 32 + slot

/-- The replay log with an access performed that returned `v`: one entry for each `amo`, `chadd` and append (R119). -/
def Elem.logWith (x : Elem) (a : Access) (v : Nat) : List (Nat × Nat × Nat × Nat) :=
  match a.op with
  | .entry .. => x.log.map fun (h, o, u, n) => if h = a.h ∧ o = a.nth then (h, o, v, n) else (h, o, u, n)
  | _ => if a.op.logs && a.logged.isNone then x.log ++ [(a.h, a.nth, v, a.epoch)] else x.log

/-- Entry `i` of an element's slots has done its first step, and `b` is due in its place; the append's log entry stands (R49, R119). -/
def goOnAccess (w : World) (e i slot : Nat) (b : Access) : World :=
  let x := w.elem e
  moved (w.setElem e { x with acc := listSet x.acc i b, log := x.logWith { b with op := .append } (slotTaken slot), busyAt := w.cycle }) e

/-- An element's access that is an element of its stream is counted once it is done (R233). -/
def countElem (w : World) (e : Nat) (a : Access) : World :=
  if a.op = .none ∨ headerFmt ≤ a.fmt then w
  else
    let k := streamKey w e a.h
    let st := w.stream k
    w.setStream k { st with cnt := min (st.cnt + 1) 0xFFFFFFFF }

/-- Entry `i` of an element's slots is done with value `v`: its token, its log entry, the stream's count, and the
results that may now leave (R114, R119, R233). -/
def finishAccess (w : World) (e i v : Nat) : World :=
  let x := w.elem e
  match x.acc[i]? with
  | none => w
  | some a =>
    let (b, f) := a.complete v
    let w := countElem w e a
    logFull (raiseNfl (moved (w.setElem e { x with acc := listSet x.acc i b, log := x.logWith a v, busyAt := w.cycle }.deliver) e) e f) e

/-- The bytes that an access names, first and how many: those of an append's entry once its slot is taken; none stands for an append
whose entry has no address yet (R49). -/
def Access.span (a : Access) : Option (Nat × Nat) :=
  match a.op with
  | .append | .entry _ none => none
  | .entry _ (some va) => some (va, 8)
  | _ => some (a.va, a.len)

/-- May two accesses name a byte in common, of which either writes one (R124)? An append that has yet to find the place of its entry may
name any byte. -/
def conflicts (a b : Access) : Bool :=
  (a.op.writes || b.op.writes) && match a.span, b.span with
    | some (va, n), some (vb, m) => decide (va < vb + m ∧ vb < va + n)
    | _, _ => true

/-- Must entry `i` wait for an earlier access of the element to the same bytes (R124), or, as an append, which begins after the
element's earlier writes and ends with a release, for every one of those (R49)? -/
def mustWait (x : Elem) (i : Nat) : Bool :=
  match x.acc[i]? with
  | none => true
  | some a =>
    let appends := a.op == .append || a.op.isEntry
    (x.acc.take i).any fun b => b.phase != .done && (conflicts b a || (appends && b.op.writes))

/-- Is an access of a region outstanding: issued and not performed, or stalled (R145, R272)? -/
def Elem.outstanding (x : Elem) : Bool := x.acc.any fun a => a.phase != .done

/-- Does an element hold an access stalled under a fault record? -/
def Elem.hasStalled (x : Elem) : Bool := x.acc.any fun a => a.phase == .stalled

/-- Perform an issued access, both steps of an append; one that a replay returns from the log is not performed again (R119). -/
def performWhole (w : World) (e : Nat) (a : Access) : Nat → World
  | 0 => w
  | k + 1 =>
    let done (w : World) (v : Nat) (f : Flags) : World :=
      countElem (raiseNfl (w.setElem e { w.elem e with log := (w.elem e).logWith a v }) e f) e a
    match a.logged with
    | some v => done w v 0
    | none =>
      match performAccess w e a with
      | .done w v f => done w v f
      | .goesOn w slot b =>
        performWhole (w.setElem e { w.elem e with log := (w.elem e).logWith a (slotTaken slot) }) e b k
      | .stalls w _ | .bad w _ => w

/-- Perform, in order, what an element has issued, where that is possible, and abandon the rest (R228, R266). Chain
accesses that wait at their unit are abandoned with it. -/
def performIssued (w : World) (e : Nat) : World :=
  let w := ((w.elem e).acc.filter fun a => a.phase == .issued && !a.op.isChain).foldl (fun w a => performWhole w e a 2) w
  w.setElem e { w.elem e with acc := [] }

end Sys2Proof.Machine
end

