-- ==== Sys2Proof/Machine/Plane.lean ====
section
/-! DEFINITION. Configuration commands, and the checks on a plane (R74 to R79). -/

namespace Sys2Proof.Machine

/-- The fields of a configuration command (R74). -/
structure Command where
  row : Nat
  col : Nat
  fld : Nat
  val : Nat
  deriving DecidableEq, Repr

/-- A command's fields (R74). -/
def commandOf (x : W32) : Command :=
  { row := bits x.toNat 31 26, col := bits x.toNat 25 20, fld := bits x.toNat 19 14, val := bits x.toNat 13 0 }

/-- Is an operation code assigned (R77)? -/
def opAssigned (op : Nat) : Bool :=
  let p := op % 32
  match op / 32 with
  | 0 => decide (p ≤ 0x13)
  | 1 => decide (p ≤ 0x11)
  | 2 => decide (p ≤ 0x0B)
  | 3 => decide (p ≤ 0x06)
  | 4 => decide (p ≤ 0x0A)
  | 5 => decide (p ≤ 0x03)
  | _ => false

/-- The bits of a field's value that are not reserved (R75); every bit of a handler slice. -/
def fieldBits (f : Nat) : Nat :=
  if f = 0 then 0xF
  else if f = 1 then 0xFF
  else if f < 6 then 0x3F
  else if f < 10 then 0x7
  else if f = 10 then 0x37
  else if f = 11 then 0x7F
  else if f = 12 then 0x7F
  else if f = 13 then 1
  else if f < 16 then 0
  else 0x3FFF

/-- Does a value break check 0x05: a reserved bit, or a reserved code of `XPS`, `QSRC`, `CIS`, `CPS` or `OP` (R79)? -/
def valueBad (f v : Nat) : Bool :=
  (v &&& (0x3FFF - fieldBits f)) != 0
    || (decide (2 ≤ f ∧ f < 6) && decide (4 < v % 8))
    || (decide (6 ≤ f ∧ f < 10) && decide (5 < v % 8))
    || ((f == 10 || f == 12) && decide (4 < v % 8))
    || (decide (16 ≤ f) && (f - 16) % 12 == 11 && !opAssigned (bits v 13 6))

/-- Checks 0x04 and 0x05 of a command for a region of `shh` by `shw` sectors: 0 when it passes (R79). -/
def commandCause (shh shw : Nat) (c : Command) : Nat :=
  if !(c.row == 63 || decide (c.row < 16 * shh)) || !decide (c.col < 16 * shw) then 0x04
  else if valueBad c.fld c.val then 0x05
  else 0

/-- A plane with field `f` set; an unlisted field is 0. -/
def setField (pl : Tab Nat) (f v : Nat) : Tab Nat := if v = 0 then tabDel f pl else tabSet f v pl

/-- Apply a command to the shadow planes of a region; row 63 names every row (R74). An element that it leaves configured has been so ever
after (R84). -/
def applyCommand (w : World) (r : Nat) (c : Command) : World :=
  let (shh, _) := (w.region r).shape
  let rows := if c.row = 63 then List.range (16 * shh) else [c.row]
  rows.foldl (fun w row =>
    let e := regionElem w r row c.col
    let x := w.elem e
    let pl := setField x.shd c.fld c.val
    w.setElem e { x with shd := pl, known := x.known || planeConfigured pl }) w

/-! ### Checks of a sealed shadow (R79) -/

/-- Is an operation of a class allowed on an element of a kind (R53)? -/
def classAllowed (edge : Bool) (op : Nat) : Bool :=
  if edge then [2, 4, 5].contains (op / 32) else [0, 1, 2, 3].contains (op / 32)

/-- Which of a, b and c an operation uses (R86, R89 and the entries); an operand that a form may omit is not counted,
but for the feedback port of an `ldst` that requires a port (R115). -/
def operandsUsed (x : Handler) : Bool × Bool × Bool :=
  let op := x.op
  if op = 0x0E then (true, false, false)
  else if op = 0x10 then (true, true, true)
  else if op < 0x20 then (true, true, false)
  else if op = 0x23 then (true, true, true)
  else if [0x26, 0x27, 0x2A, 0x2B, 0x2C, 0x2D, 0x2F, 0x30, 0x31].contains op then (true, false, false)
  else if op < 0x40 then (true, true, false)
  else if op = 0x41 then (true, true, true)
  else if op = 0x42 then (true, bit x.mode 0, false)
  else if [0x43, 0x44, 0x46].contains op then (true, true, false)
  else if op = 0x4A ∨ op = 0x4B then (false, false, false)
  else if op < 0x80 then (true, false, false)
  else if op = 0x80 then (x.qreq != 0, false, false)
  else if op = 0x81 ∨ op = 0x82 then (true, false, false)
  else if op = 0x83 ∨ op = 0x8A then (true, true, false)
  else if op = 0x84 then (true, true, x.mode == 9)
  else if op = 0x85 then (true, false, true)
  else if op = 0x86 ∨ op = 0x87 then (true, true, true)
  else if op = 0xA0 ∨ op = 0xA1 ∨ op = 0xA3 then (true, false, false)
  else (false, false, false)

/-- The outgoing lanes that an element's output feeds: `OUTL`, and the second set of a binary `steer` (R79, R99). -/
def fedLanes (pl : Tab Nat) : Nat := wideLanes pl

/-- How many crossbar directions pass to outgoing lane b of a direction. -/
def passesTo (pl : Tab Nat) (dir : Nat) : Nat :=
  ([0, 1, 2, 3].filter fun i => bits (field pl (2 + i)) 2 0 == dir + 1).length

/-- How many crossbar directions drop into a port. -/
def dropsInto (pl : Tab Nat) (p : Nat) : Nat :=
  ([0, 1, 2, 3].filter fun i => bit (field pl (2 + i)) 3 && bits (field pl (2 + i)) 5 4 == p).length

/-- Check 0x08: `outside d` says that direction d leads out of the region or the grid. -/
def lanesBad (pl : Tab Nat) (outside : Nat → Bool) : Bool :=
  let l := fedLanes pl
  let dirs := [0, 1, 2, 3]
  let from_ (c : Nat) : Bool := decide (1 ≤ c ∧ c ≤ 4) && outside (c - 1)
  dirs.any (fun d => (bits l (2 * d + 1) (2 * d) != 0 && outside d)
      || decide (1 < passesTo pl d + (if bit l (2 * d + 1) then 1 else 0))
      || decide (1 < dropsInto pl d)
      || from_ (field pl (6 + d) % 8)
      || (bit (field pl 11) d && outside d) || (bit (field pl 12) (3 + d) && outside d))
    || dirs.any (fun i =>
      let f := field pl (2 + i)
      let ps := bits f 2 0
      (ps == i + 1) || from_ ps || ((ps != 0 || bit f 3) && outside i)
        || (bit f 3 && field pl (6 + bits f 5 4) % 8 != 5))
    || from_ (bits (field pl 10) 2 0) || from_ (bits (field pl 12) 2 0)

/-- Does a handler's operation consume control tokens (R67, R102)? -/
def consumesControl (x : Handler) : Bool :=
  (x.op == 0x42 && !bit x.mode 0) || [0x43, 0x44, 0x46, 0x47].contains x.op

/-- Check 0x09: the control reader is enabled and consumes control tokens, and `COH` names an enabled handler when `COE` is set.
DEDUCED: log 60. -/
def controlBad (pl : Tab Nat) : Bool :=
  (bits (field pl 10) 2 0 != 0 &&
      (let h := bits (field pl 10) 5 4
       !(enabled pl h && consumesControl (handler pl h))))
    || (bit (field pl 11) 6 && !enabled pl (bits (field pl 11) 5 4))

/-- Check 0x0A: required ports have sources, and operands that name ports name required ones. DEDUCED: log 60. -/
def portsBad (pl : Tab Nat) : Bool :=
  (handlersOf pl).any fun h =>
    let x := handler pl h
    let (a, b, c) := operandsUsed x
    let missing (use : Bool) (code : Nat) : Bool := use && isPort code && !bit x.qreq code
    [0, 1, 2, 3].any (fun p => bit x.qreq p &&
        (field pl (6 + p) % 8 == 0 || (field pl (6 + p) % 8 == 5 && dropsInto pl p == 0)))
      || missing a x.opa || missing b x.opb || missing c x.opc

/-- The first of checks 0x07 to 0x0A that a plane of an element fails, 0 when it passes them. -/
def planeCause (pl : Tab Nat) (edge : Bool) (outside : Nat → Bool) : Nat :=
  if !planeConfigured pl then 0
  else if (handlersOf pl).any (fun h => !classAllowed edge (handler pl h).op) || (bit (field pl 13) 0 && !edge) then 0x07
  else if lanesBad pl outside then 0x08
  else if controlBad pl then 0x09
  else if portsBad pl then 0x0A
  else 0

/-- Does direction `dir` of an element lead out of its region? -/
def leaves (w : World) (r e dir : Nat) : Bool :=
  match neighbour e dir with
  | none => true
  | some n => !bit (w.region r).mask (eSector n)

/-- Checks 0x07 to 0x0A over the shadow planes of a region, in the order of the table: the least cause, 0 when all pass. -/
def shadowCause (w : World) (r : Nat) : Nat :=
  (regionElems w r).foldl (fun m e =>
    let c := planeCause (w.elem e).shd (isEdge e) (leaves w r e)
    if c = 0 then m else if m = 0 then c else min m c) 0

end Sys2Proof.Machine
end

