-- ==== Sys2Proof/Machine/Region.lean ====
section
/-! DEFINITION. What happens to a region as a whole: the flip of its elements, the release of a switch, its start and
stop, snapshot cuts and rollback (R81 to R85, R228, R265, R266, R350, R356 to R358). -/

namespace Sys2Proof.Machine

/-! ### Chains of a region (R350, R356 to R358) -/

def World.chain (w : World) (k : Nat) : Chain := tabGet Chain.reset k w.chains
def World.setChain (w : World) (k : Nat) (x : Chain) : World := { w with chains := tabSet k x w.chains }

/-- Every unit without the entries of region `r`. -/
def withdrawEntries (w : World) (r : Nat) : World :=
  { w with units := tabMap (fun _ es => es.filter fun x => x.region != r) w.units }

/-- Does a chain hold a buffered entry? -/
def chainBuffered (w : World) (k : Nat) : Bool := w.units.any fun (_, es) => es.any fun x => x.chain == k

/-- The chains that region `r` owned become free, once empty (R350). -/
def freeChains (w : World) (r : Nat) : World :=
  { w with chains := tabMap (fun k (x : Chain) =>
      if x.owner == some r && !chainBuffered w k then { x with owner := none, inInterval := false, inNext := false } else x) w.chains }

/-- Each chain that region `r` owns takes its present state as its restore point, with no interval before it (R265, R356, R358). -/
def rebaseChains (w : World) (r : Nat) : World :=
  { w with chains := tabMap (fun _ (x : Chain) =>
      if x.owner == some r then { x with inInterval := false, inNext := false } else x) w.chains }

/-- At a complete cut the restore point of each chain the region owns becomes the state before the first access of the
interval that the cut opens, or the present state when there is none (R356). DEDUCED: log 70. -/
def cutChains (w : World) (r : Nat) : World :=
  { w with chains := tabMap (fun _ (x : Chain) =>
      if x.owner == some r then
        { x with restoreLast := x.nextLast, restoreNxt := x.nextNxt, inInterval := x.inNext, inNext := false }
      else x) w.chains }

/-- At a rollback each chain of the region returns to its restore point (R357). -/
def rollChains (w : World) (r : Nat) : World :=
  let w := withdrawEntries w r
  { w with chains := tabMap (fun _ (x : Chain) =>
      if x.owner == some r then
        { x with last := if x.inInterval then x.restoreLast else x.last, nxt := if x.inInterval then x.restoreNxt else x.nxt
                 inInterval := false, inNext := false, gap := 0 }
      else x) w.chains }

/-! ### Elements -/

/-- k0 to k3 of every handler as a plane's handler words give them; an unlisted register is zero. -/
def planeRegs (pl : Tab Nat) : Tab W32 :=
  ((List.range 16).map fun i => (i, initK pl (i / 4) (i % 4))).filter fun kv => kv.2 != 0

/-- The handlers' registers, header latches, group bank and context counter as a flip leaves them (R83, R228). -/
def Elem.renew (x : Elem) : Elem :=
  { x with k := planeRegs x.act, latch := [], bank := [], ctx := 0, stopped := 0, reported := 0, spos := [], aux := [] }

/-- An element with every token it holds discarded, with its stalled accesses (R228, R266). -/
def Elem.empty (x : Elem) : Elem :=
  { x with parts := [], arriving := [], freed := 0, xb := [], out := [], cq := [], ctlIn := [], cout := [], acc := [], heldSwt := false
           sentSwt := false, oldXb := [], snap := none, early := none }

/-- Take the switch token from every active queue (R83). -/
def Elem.takeSwt (x : Elem) : Elem :=
  (activeQueues x.act).foldl (fun x (p, h) => match x.head p h with
    | some t => if t.isSwt then x.take p h else x
    | none => x) x

/-- A switch token behind every earlier result, on every lane of the plane `pl` (R81, R83, R99). -/
def Elem.emitSwt (x : Elem) (now : Nat) (pl : Tab Nat) : Elem :=
  if wideLanes pl = 0 then x else x.emitOn now 0 (wideLanes pl) (ctlWord 4 0)

/-- An element with active queues sends the switch token that it held under `EOSW`; it flips later, when its turn comes, and sends no other
then (R81, R83). DEDUCED: log 62. -/
def sendHeld (w : World) (e : Nat) : World :=
  let x := w.elem e
  if x.heldSwt && !x.flipped && !(activeQueues x.act).isEmpty then
    moved (w.setElem e { x.emitSwt w.cycle x.act with heldSwt := false, sentSwt := true, busyAt := w.cycle }) e
  else w

/-- The crossbar settings that stand after a flip: a direction whose old setting passes or drops keeps it until a
switch token has gone through, unless one already has (R83). -/
def Elem.keepXb (x : Elem) : Tab Nat :=
  [0, 1, 2, 3].foldl (fun t d =>
    let old := field x.act (2 + d)
    if tabHas d x.oldXb then t
    else if bits old 2 0 = 0 ∧ bit old 3 = false then t
    else tabSet d old t) []

/-- The streams of an element's handlers end: a binding that waited takes effect when they begin anew (R231). -/
def endStreams (w : World) (e : Nat) : World :=
  let pl := (w.elem e).act
  (handlersOf pl).foldl (fun w h =>
    if usesStream (handler pl h).op then
      let k := streamKey w e h
      let st := w.stream k
      match st.next with
      | some (b, p, blk) => w.setStream k { st with bound := b, port := p, blk := blk, next := none, begun := false }
      | none => if st.begun then w.setStream k { st with begun := false } else w
    else w) w

/-- An element flips (R83, R84). A handler that breaks its form faults at once in a region that runs, and at the start of another (R88).
DESIGN CHOICE: log 112. -/
def flipElem (w : World) (e : Nat) : World :=
  let w := endStreams w e
  let x := w.elem e
  let known := x.known || planeConfigured x.act || planeConfigured x.shd
  let x' := { x.takeSwt with
    act := x.shd, shd := x.act, actCid := x.shdCid, shdCid := x.actCid, oldXb := x.keepXb, flipped := true
    side := !x.side, known := known
    flipCycle := if known then w.cycle else x.flipCycle
    flipId := if known then (if planeConfigured x.shd then x.shdCid else 0) else x.flipId
    heldSwt := false, sentSwt := false, gated := false, busyAt := w.cycle, wake := w.cycle + 1 }
  let y := x'.renew
  let w := w.setElem e (if x.sentSwt then y else y.emitSwt w.cycle x.act)
  match regionOf w e with
  | some r =>
    let g := w.region r
    let w := moved w e
    if g.running && !g.starting && planeBad (w.elem e).act then elemFault w e 0x08 else w
  | none => w

/-- Does a handler generate a stream that ends by itself (R81)? -/
def makesStream (x : Handler) : Bool := (x.op == 0x80) || [0x88, 0x89, 0xA2].contains x.op

/-- Has an edge element a stream that is still running: a handler that generates one, whose end-of-stream has not been sent (R81)? One
whose stream is unbound, or has not begun, counts as running. DESIGN CHOICE: log 99. -/
def streamRunning (x : Elem) : Bool :=
  (handlersOf x.act).any fun h =>
    makesStream (handler x.act h) && !(handler x.act h).mask && (!bit x.stopped h || !x.acc.isEmpty || !x.out.isEmpty)

/-- Does an element flip without a switch token of another: it has no active queue (R81)? -/
def flipsAlone (x : Elem) : Bool := (activeQueues x.act).isEmpty

/-! ### Snapshot cuts (R265) -/

/-- The handlers of an element that use a stream. -/
def streamsOf (x : Elem) : List Nat := (handlersOf x.act).filter fun h => usesStream (handler x.act h).op

/-- The `CNT` of each handler's stream once the accesses it has issued are performed: what a rollback returns the count to (R233, R266).
DEDUCED: log 100. -/
def countsAt (w : World) (e : Nat) : Tab Nat :=
  let x := w.elem e
  (streamsOf x).map fun h =>
    let due := (x.acc.filter fun a => a.h == h && a.op != .none && decide (a.fmt < headerFmt) && a.phase != .done).length
    (h, min ((w.stream (streamKey w e h)).cnt + due) 0xFFFFFFFF)

/-- What element `e` records for a cut. -/
def recordOf (w : World) (e epoch : Nat) : Snap :=
  let x := w.elem e
  { k := x.k, latch := x.latch, bank := x.bank, ctx := x.ctx, stopped := x.stopped, reported := x.reported
    flipCycle := x.flipCycle, flipId := x.flipId, side := x.side, oldXb := x.oldXb, spos := x.spos
    cnts := countsAt w e, aux := x.aux, issued := x.issued
    heldSwt := x.heldSwt, sentSwt := x.sentSwt, cq := (x.cq ++ x.ctlIn).filter fun c => c.epoch != epoch }

/-- A cut of epoch `n` of region `r` that is complete at once, as `rgstart` and a restore take it (R265, R279): a cut that was being taken is
dropped, and each chain's restore point is its present state. -/
def cutNow (w : World) (r n : Nat) : World :=
  let w := (regionElems w r).foldl (fun w e =>
    let x := w.elem e
    w.setElem e { x with epoch := n, snap := none, early := none, log := [], replay := [], cut := some { recordOf w e n with cq := x.cq } }) w
  let w := rebaseChains w r
  w.setRegion r { w.region r with epoch := n, cutting := false, cutDue := false, cutOld := false, faulted := false, wdFaulted := false }

/-! ### Start (R228) -/

/-- The handlers of a region may fire: its elements are renewed, and the cut of epoch 0 is complete at once.
DESIGN CHOICE: log 112. -/
def startNow (w : World) (r : Nat) : World :=
  let es := regionElems w r
  let w := es.foldl (fun w e => let w := endStreams w e; w.setElem e { (w.elem e).renew with acc := [], busyAt := w.cycle }) w
  let w := w.setRegion r { w.region r with starting := false, fault := none, movedAt := w.cycle, still := 0 }
  let w := cutNow w r 0
  es.foldl (fun w e => if planeBad (w.elem e).act then elemFault w e 0x08 else w) w

/-! ### The switch (R81, R83) -/

/-- Are the stores of the thread that owns a region performed, which its commands' reads and its elements' accesses must see (R124, R223)?
DEDUCED: log 54. -/
def ownerStoresDone (w : World) (r : Nat) : Bool :=
  match (w.region r).owner with
  | some t => (w.thread t).path.isEmpty
  | none => true

/-- Does a region that waits to start start now: the core has power, and its owner's stores are performed (R124, R228, R295)?
DEDUCED: log 57. -/
def startDue (w : World) (r : Nat) : Bool :=
  (w.region r).running && (w.region r).starting && ownerStoresDone w r && powered w (r / 4)

/-- Once every element of the region has flipped the wavefront is complete: the old planes are an unsealed shadow, a
cut is requested, and a region that waits to start starts (R78, R83, R228, R265). A cut that was being taken takes the request in, and is no
cut after the switch for a load; in a region in which nothing fires the cut is complete at once. DEDUCED: log 119. -/
def waveDone (w : World) (r : Nat) : World :=
  let g := w.region r
  if g.shadow = .wave ∧ (regionElems w r).all (fun e => (w.elem e).flipped) then
    let w := (regionElems w r).foldl (fun w e => w.setElem e { w.elem e with flipped := false }) w
    let w := w.setRegion r { g with shadow := .none, scid := 0, actChanged := g.shdChanged, shdChanged := false }
    if startDue w r then startNow w r
    else if g.running && !g.starting then
      let w := requestCut w r
      w.setRegion r { w.region r with cutDue := (w.region r).cutting, cutOld := g.cutting }
    else cutNow w r ((g.epoch + 1) % 2 ^ 16)
  else w

/-- Release a switch: the elements that flip without a switch token flip, but for those whose stream still runs, and the others send the
switch tokens that they held (R81). -/
def releaseSwitch (w : World) (r : Nat) : World :=
  let g := w.region r
  let w := w.setRegion r { g with shadow := .wave, armedSwitch := false, load := none }
  let es := regionElems w r
  let w := es.foldl (fun w e => w.setElem e { w.elem e with flipped := false }) w
  let w := es.foldl (fun w e =>
    let x := w.elem e
    if !planeConfigured x.act then flipElem w e
    else if flipsAlone x then
      (if isEdge e && g.running && !g.starting && streamRunning x then w else flipElem w e)
    else sendHeld w e) w
  waveDone w r

/-- Does an element of region `r` hold a switch token under `EOSW`? DEDUCED: log 62. -/
def holdsSwt (w : World) (r : Nat) : Bool := (regionElems w r).any fun e => (w.elem e).heldSwt

/-- Release a sealed shadow's switch if one is armed or held (R81). DEDUCED: log 62. -/
def releaseIfDue (w : World) (r : Nat) : World :=
  let g := w.region r
  if g.shadow = .sealed ∧ !g.frozen ∧ (g.armedSwitch || holdsSwt w r) then releaseSwitch w r else w

/-- Discard a region's shadow, with an armed switch and every held switch token (R79, R85). Up to the first cut after a wavefront the
old planes are kept, for a rollback to the cut before it. -/
def dropShadow (w : World) (r : Nat) : World :=
  let keeps := (w.region r).cutDue
  let w := (regionElems w r).foldl (fun w e =>
    let x := w.elem e
    let x := { x with heldSwt := false, known := x.known || planeConfigured x.shd }
    w.setElem e (if keeps then x else { x with shd := [], shdCid := 0 })) w
  w.setRegion r { w.region r with shadow := .none, scid := 0, shdChanged := false, armedSwitch := false, load := none }

/-- The commands behind a refused load, without the switches that were armed for it: those before the next load, or the next write of a
shadow (R79). -/
def withoutSwitches : List (CfgCmd × Space) → List (CfgCmd × Space)
  | [] => []
  | (.switch, _) :: rest => withoutSwitches rest
  | (.load va d, k) :: rest => (.load va d, k) :: rest
  | (.write c, k) :: rest => (.write c, k) :: rest
  | x :: rest => x :: withoutSwitches rest

/-- Refuse a load (R79). DEDUCED: log 56. -/
def refuseLoad (w : World) (r cause idx : Nat) : World :=
  let w := dropShadow w r
  let g := w.region r
  w.setRegion r { g with cause := cause, cidx := idx, refused := true, cq := withoutSwitches g.cq }

/-- Is a command one that `cfgdrop` and `rgstop` discard (R372)? -/
def CfgCmd.dropped : CfgCmd → Bool
  | .load .. | .write _ | .switch => true
  | .status _ | .save _ | .restore _ => false

/-- The load stops, and the commands behind it that are discarded with it (R85, R372). -/
def dropLoad (w : World) (r : Nat) : World :=
  let g := w.region r
  let w := if g.shadow = .wave then w else dropShadow w r
  let stays := g.saveAt.isSome || (g.cq.head?.any fun c => !c.1.dropped)
  w.setRegion r { w.region r with cq := g.cq.filter fun c => !c.1.dropped, cqStalled := g.cqStalled && stays, met := g.met && stays }

/-! ### Stop (R228) -/

/-- `rgstop`: a wavefront completes at once, issued accesses are performed, every token is discarded, the load ends. A save that `rgsave`
has begun goes on (R372). DEDUCED: log 59. -/
def stopRegion (w : World) (r : Nat) (keepChains : Bool := false) : World :=
  let es := regionElems w r
  let w := w.setRegion r { w.region r with running := false, starting := false }
  let w := if (w.region r).shadow = .wave then
      waveDone (es.foldl (fun w e => if (w.elem e).flipped then w else flipElem w e) w) r
    else w
  let w := es.foldl (fun w e => performIssued w e) w
  let w := es.foldl (fun w e => w.setElem e { (w.elem e).empty with cut := none, log := [], replay := [], busyAt := w.cycle }) w
  let w := if keepChains then rebaseChains (withdrawEntries w r) r else freeChains (withdrawEntries w r) r
  let w := dropLoad w r
  w.setRegion r { w.region r with
    running := false, starting := false, frozen := (w.region r).saveAt.isSome, draining := false, armed := none, complStalled := false
    complMet := false, cutting := false, cutDue := false, cutOld := false, fault := none, faulted := false, wdFaulted := false, forced := false }

/-- Is a region frozen for a `DREAD` only, to go on in the same state (R294)? -/
def readFrozen (w : World) (r : Nat) : Bool := w.jibor.reading.any fun x => x.region == r && x.before.isSome

/-- The streams of a region, unbound, with its thread ports (R225). DEDUCED: log 59. -/
def unbindStreams (w : World) (r : Nat) : World :=
  { w with streams := w.streams.filter fun (k, _) => !(k / 64 == r / 4 && k % 64 / 16 == r % 4) }

/-- The region whose stream a command names. -/
def StreamCmd.region : StreamCmd → Option Nat
  | .bind k .. | .reissue k | .stop k => some (4 * (k / 64) + k % 64 / 16)
  | .chain .. => none

/-- A stream command of a saved region, for the same stream of region `r`. -/
def StreamCmd.onto (r : Nat) (c : StreamCmd) : StreamCmd :=
  let at_ (k : Nat) : Nat := 64 * (r / 4) + 16 * (r % 4) + k % 16
  match c with
  | .bind k b p blk => .bind (at_ k) b p blk
  | .reissue k => .reissue (at_ k)
  | .stop k => .stop (at_ k)
  | .chain k l p => .chain k l p

/-- The stream and chain commands that wait at core `c`. -/
def World.streamQueue (w : World) (c : Nat) : List StreamCmd := tabGet [] c w.scq
def World.setStreamQueue (w : World) (c : Nat) (l : List StreamCmd) : World :=
  { w with scq := if l.isEmpty then tabDel c w.scq else tabSet c l w.scq }

/-- The stream commands of a region that its core's queue still holds are discarded. DEDUCED: log 76. -/
def dropStreamCmds (w : World) (r : Nat) : World :=
  w.setStreamQueue (r / 4) ((w.streamQueue (r / 4)).filter fun c => c.region != some r)

/-- `rgfree`: stopped, its queue and bindings gone, the handle free; the active planes remain (R225, R372). -/
def freeRegion (w : World) (r : Nat) : World :=
  dropStreamCmds (unbindStreams ((stopRegion w r).setRegion r Region.reset) r) r

/-- An element is empty and unconfigured in both planes; its flip status stays (R84, R148, R226). -/
def clearElem (w : World) (e : Nat) : World :=
  let x := w.elem e
  if x.flipCycle = 0 ∧ x.flipId = 0 ∧ x.known = false ∧ x.busyAt = 0 then { w with elems := tabDel e w.elems }
  else w.setElem e { Elem.reset with flipCycle := x.flipCycle, flipId := x.flipId, known := x.known, busyAt := x.busyAt }

/-- Free a region and discard its configuration (R143, R148). -/
def discardRegion (w : World) (r : Nat) : World :=
  let es := regionElems w r
  es.foldl clearElem (freeRegion w r)

/-! ### Rollback (R266) -/

/-- The handlers of a plane whose `cntr` stops after its run: they run again after a rollback (R104). -/
def stopsOnce (pl : Tab Nat) : Nat :=
  (handlersOf pl).foldl (fun m h => if (handler pl h).op = 0x4A then m ||| 2 ^ h else m) 0

/-- An element restored from the last complete cut, with the plane that was active then (R85, R104, R266); before any cut is complete it is
emptied, and keeps its plane and its flip. DESIGN CHOICE: log 69. DEDUCED: log 131. -/
def restoreElem (w : World) (e : Nat) : World :=
  let x := w.elem e
  let replay := x.log.map (fun (h, o, v, _) => (h, o, v)) ++ x.replay.filter fun (h, o, _) => !x.log.any fun (g, q, _) => g == h && q == o
  match x.cut with
  | none => w.setElem e { x.empty with busyAt := w.cycle }
  | some n =>
    let y := if n.side != x.side then { x with act := x.shd, shd := x.act, actCid := x.shdCid, shdCid := x.actCid } else x
    let w := w.setElem e { y.empty with
      k := n.k, latch := n.latch, bank := n.bank, ctx := n.ctx, stopped := n.stopped &&& (15 - stopsOnce y.act), reported := n.reported
      flipped := x.flipped && n.side == x.side, flipCycle := n.flipCycle, flipId := n.flipId, side := n.side, oldXb := n.oldXb, spos := n.spos
      aux := n.aux, issued := n.issued, cq := n.cq, heldSwt := n.heldSwt, sentSwt := n.sentSwt, replay := replay, busyAt := w.cycle }
    n.cnts.foldl (fun w (h, c) => w.setStream (streamKey w e h) { w.stream (streamKey w e h) with cnt := c }) w

/-- Has an element flipped since its last complete cut? -/
def flippedSince (x : Elem) : Bool :=
  match x.cut with
  | some n => n.side != x.side
  | none => false

/-- A wavefront resumes: the elements that need no switch token of another flip at once, and held switch tokens go out (R81, R85). -/
def resumeWave (w : World) (r : Nat) : World :=
  waveDone ((regionElems w r).foldl (fun w e =>
    let x := w.elem e
    if x.flipped then w
    else if !planeConfigured x.act then flipElem w e
    else if flipsAlone x then (if isEdge e && streamRunning x then w else flipElem w e)
    else sendHeld w e) w) r

/-- Roll a region back to its last complete cut. A switch stays released: an element restored to the plane before its
flip keeps the plane it had flipped to as its sealed shadow, and the wavefront resumes; an element that had recorded the cut behind its flip
keeps the new plane, and has flipped (R85, R266). A plane that breaks R88 and stays active through the rollback faults again when a handler
of it fires. DESIGN CHOICE: log 112. -/
def rollBack (w : World) (r : Nat) : World :=
  let es := regionElems w r
  let w := es.foldl (fun w e => performIssued w e) w
  let again := es.any fun e => flippedSince (w.elem e)
  let w := if again && (w.region r).shadow != .wave then es.foldl (fun w e => w.setElem e { w.elem e with flipped := true }) w else w
  let w := rollChains (es.foldl (fun w e => restoreElem w e) w) r
  let g := w.region r
  let n := if g.cutting then (g.epoch + 2 ^ 16 - 1) % 2 ^ 16 else g.epoch
  let wave := g.shadow == .wave || again
  let w := w.setRegion r { g with
    fault := none, faulted := true, movedAt := w.cycle, still := 0, cutting := false, cutOld := false, epoch := n
    shadow := if wave then .wave else g.shadow
    shdChanged := if g.shadow != .wave && again then g.actChanged else g.shdChanged }
  let w := es.foldl (fun w e =>
    let x := w.elem e
    w.setElem e { x with epoch := n, flipped := x.flipped && wave }) w
  if wave then resumeWave w r
  else if g.cutDue && g.cutting then requestCut w r else w

/-- Is a switch pending in a region (R228)? -/
def switchPending (g : Region) : Bool := g.armedSwitch || g.shadow == .wave || g.cq.any fun c => c.1 == .switch

/-- Release a switch that is due, and start a region that waited for one no longer pending (R81, R228). DEDUCED: log 57. -/
def settle (w : World) (r : Nat) : World :=
  let w := releaseIfDue w r
  let g := w.region r
  if startDue w r && !switchPending g then startNow w r else w

end Sys2Proof.Machine
end

