-- ==== Sys2Proof/Machine/Units.lean ====
section
/-! DEFINITION. The Confluence units (R120, R347 to R358). -/

namespace Sys2Proof.Machine

/-- The die and the number of a chain, and the key of its home unit (R347). -/
def chainUnit (k : Nat) : Nat :=
  let c := k % 4096
  16 * (k / 4096) + (bits c 3 0 ^^^ bits c 7 4 ^^^ bits c 11 8)

def World.unit (w : World) (u : Nat) : List ChainEntry := tabGet [] u w.units
def World.setUnit (w : World) (u : Nat) (es : List ChainEntry) : World := { w with units := tabSet u es w.units }

/-- The chain that an access names. -/
def chainKey (e : Nat) (a : Access) : Nat := 4096 * dieOf (eCore e) + bits a.link 43 32

/-- The sequence number, the predecessor and the successor of a link word; none is the wildcard (R120). -/
def linkNumbers (link : Nat) : Nat × Option Nat × Option Nat :=
  let q := bits link 15 0 % 65535
  let back := bits link 23 16
  let fore := bits link 31 24
  (q, if back = 0 then none else some ((q + 65535 - back) % 65535), if fore = 0 then none else some ((q + fore) % 65535))

/-- Is an entry performable in a chain's state (R351)? -/
def performable (x : Chain) (en : ChainEntry) : Bool :=
  match x.nxt with
  | some n => en.q == n
  | none => en.pred == some x.last

/-- The entries of a chain, in order of acceptance. -/
def chainEntries (w : World) (k : Nat) : List ChainEntry := (w.unit (chainUnit k)).filter (·.chain == k)

/-- Does a chain stall: an entry buffered and none performable (R354)? -/
def chainStalls (w : World) (k : Nat) : Bool :=
  let es := chainEntries w k
  !es.isEmpty && !es.any (performable (w.chain k))

/-- The entry a unit takes next for a chain: the least distance from `LAST`, then the one accepted first (R351). -/
def nextEntry (x : Chain) (es : List ChainEntry) : Option ChainEntry :=
  let ps := es.filter (performable x)
  let dist (en : ChainEntry) : Nat := (en.q + 65535 - x.last % 65535) % 65535
  let least := ps.foldl (fun m en => min m (dist en)) 65535
  ps.find? fun en => dist en == least

/-- The place in its element's order of the access that an entry stands for. -/
def entryIndex (w : World) (en : ChainEntry) : Option Nat :=
  (w.elem en.elem).acc.findIdx? fun a => a.phase == .atUnit && a.h == en.h && a.nth == en.nth && a.op.isChain

/-- Must a chain access wait in its slot: an earlier chain access of the element not yet sent, or an earlier plain
access to the same bytes not yet performed (R114, R124)? -/
def chainWaits (x : Elem) (i : Nat) (a : Access) : Bool :=
  (x.acc.take i).any fun b => if b.op.isChain then b.phase == .issued else b.phase != .done && conflicts b a

/-- Must an access that was issued after a `chainset` of its chain wait for it, while that stands in its core's queue (R234)? -/
def behindChainset (w : World) (e : Nat) (a : Access) : Bool :=
  w.scq.any fun (_, l) => l.any fun c => match c with
    | .chain k _ prior => k == chainKey e a && !prior.contains (e, a.h, a.nth)
    | _ => false

/-- The home unit accepts an access of an element, which has translated it (R234, R349 to R351, R355). DEDUCED: log 31. -/
def execChainAccept (e i : Nat) (s : State) : Outcome :=
  event (fun w =>
    let x := w.elem e
    match x.acc[i]?, regionOf w e with
    | some a, some r =>
      if a.phase != .issued || !a.op.isChain || chainWaits x i a || behindChainset w e a || (w.region r).frozen || !powered w (eCore e) then w
      else
        let located : World × Except (Except Nat MemFault) (Nat × Bool) :=
          if a.logged.isSome then (w, .ok (0, false))
          else match locateWord w e a with
            | (w, .ok g) => (w, .ok (g.pa, g.cmp))
            | (w, .error f) => (w, .error f)
        match located with
        | (_, .error (.ok _)) => w
        | (w, .error (.error c)) => elemFault w e c
        | (w, .ok (pa, cmp)) =>
          let k := chainKey e a
          let ch := w.chain k
          let u := chainUnit k
          if 256 ≤ (w.unit u).length then w
          else if ch.owner.isSome && ch.owner != some r then elemFault w e 0x07
          else
            let (q, pred, succ) := linkNumbers a.link
            let en : ChainEntry := { chain := k, q := q, pred := pred, succ := succ, region := r, elem := e, h := a.h, nth := a.nth
                                     epoch := a.epoch, ghost := a.logged.isSome }
            let w := w.setUnit u (w.unit u ++ [en])
            let w := w.setChain k { ch with owner := some r }
            w.setElem e { w.elem e with acc := listSet x.acc i { a with phase := .atUnit, pa := pa, cmp := cmp } }
    | _, _ => w) s

/-- A chain after an access of its owner: the state, and the points that a rollback and the next cut return to (R351,
R354, R356). -/
def Chain.step (x : Chain) (en : ChainEntry) (opens : Bool) : Chain :=
  { x with
    restoreLast := if x.inInterval then x.restoreLast else x.last
    restoreNxt := if x.inInterval then x.restoreNxt else x.nxt
    inInterval := true
    nextLast := if opens && !x.inNext then x.last else x.nextLast
    nextNxt := if opens && !x.inNext then x.nxt else x.nextNxt
    inNext := x.inNext || opens
    last := en.q, nxt := en.succ, gap := 0 }

/-- A unit performs the next access of a chain at its home; a ghost performs nothing (R351, R357). DEDUCED: log 31. -/
def execChainPerform (k : Nat) (s : State) : Outcome :=
  event (budgeted fun w =>
    let ch := w.chain k
    match nextEntry ch (chainEntries w k) with
    | none => w
    | some en =>
      if !powered w (eCore en.elem) then w else
      match entryIndex w en with
      | none => w
      | some i =>
        match (w.elem en.elem).acc[i]? with
        | none => w
        | some a =>
          let g := w.region en.region
          let u := chainUnit k
          let w := w.setUnit u ((w.unit u).erase en)
          let w := w.setChain k (ch.step en (g.cutting && en.epoch == g.epoch))
          match a.logged with
          | some v => finishAccess w en.elem i v
          | none =>
            let (w, v, f) := performChain w en.elem a
            raiseNfl (finishAccess w en.elem i v) en.elem f) s

/-- A chain that has stalled for `2^GAPL` cycles: an element fault where its oldest entry came from (R354). -/
def execChainGap (k : Nat) (s : State) : Outcome :=
  event (fun w =>
    if chainStalls w k ∧ 2 ^ (w.die (k / 4096)).gapl ≤ (w.chain k).gap then
      match chainEntries w k with
      | en :: _ => elemFault w en.elem 0x0B
      | [] => w
    else w) s

/-- The chain with the most entries of a full unit, the lowest identifier on a tie (R355). -/
def fullestChain (es : List ChainEntry) : Option Nat :=
  let count (k : Nat) : Nat := (es.filter (·.chain == k)).length
  es.foldl (fun m en =>
    match m with
    | none => some en.chain
    | some k => if count k < count en.chain ∨ (count k = count en.chain ∧ en.chain < k) then some en.chain else some k) none

/-- A full unit with nothing performable: chain overflow (R355). -/
def execChainOverflow (u : Nat) (s : State) : Outcome :=
  event (fun w =>
    let es := w.unit u
    if es.length < 256 || es.any (fun en => performable (w.chain en.chain) en) then w
    else match fullestChain es with
      | none => w
      | some k => match es.find? (·.chain == k) with
        | some en => elemFault w en.elem 0x0A
        | none => w) s

/-! ### chainset and chainst (R234) -/

/-- Set a chain's state as if the access of a link word had just been performed (R234, R356). -/
def setChainState (w : World) (k link : Nat) : World :=
  let (q, _, succ) := linkNumbers link
  w.setChain k { w.chain k with last := q, nxt := succ, gap := 0, inInterval := false, inNext := false }

/-- What `chainst` returns for a chain (R234). -/
def chainStatus (w : World) (k : Nat) : Nat :=
  let x := w.chain k
  let off := match x.nxt with
    | some n => (n + 65535 - x.last) % 65535
    | none => 0
  (if chainStalls w k then 2 ^ 48 else 0) + (chainEntries w k).length * 2 ^ 32 + off % 256 * 2 ^ 16 + x.last

end Sys2Proof.Machine
end

