-- ==== Sys2Proof/Machine/Task.lean ====
section
/-! DEFINITION. How a task ends: completion, failure and fault domains (R145, R148, R235, R315). -/

namespace Sys2Proof.Machine

/-- The key of the task with a tag on a die. -/
def taskKey (d tag : Nat) : Nat := 2 ^ 32 * d + tag

/-- The die whose table holds a task, and the task's tag. -/
def taskDie (k : Nat) : Nat := k / 2 ^ 32
def taskTag (k : Nat) : Nat := k % 2 ^ 32

def World.setTask (w : World) (k : Nat) (x : Task) : World := { w with tasks := tabSet k x w.tasks }

/-- The agent that stores to a task's completion address: its region's controller, or the dispatcher. -/
def Task.storer (x : Task) (k : Nat) : Reach :=
  match x.region with
  | some r => .engine (r / 4)
  | none => .dieAgent (taskDie k)

/-- Store `v` to a task's completion address, in its source space (R138, R145, R148). Answers whether it was performed; the region's
controller records what poison discarded of it (R264). -/
def storeCompletion (w : World) (k : Nat) (x : Task) (v : Nat) : World × Bool :=
  match nodeStore w (x.storer k) (some k) x.src Touch.store x.caddr (leBytes 8 v) with
  | (w, .ok lost) => (match x.region with
      | some r => noteLostIn w r 7 0 0 0xFF 3 x.src lost
      | none => w, true)
  | (w, .error _) => (w, false)

/-- One task fewer holds the nodes of a path; a node that none holds is tracked no more (R140). -/
def dropNodes (w : World) (path : List Nat) : World :=
  { w with nodes := path.foldl (fun t n =>
      let x := tabGet Node.free n t
      if x.refs ≤ 1 then tabDel n t else tabSet n { x with refs := x.refs - 1 } t) w.nodes }

/-- A thread holds its slots no longer; each becomes clearing once the commands of the thread up to now that name it have completed (R235,
R315). -/
def releaseSlots (w : World) (t : Nat) : World :=
  { w with
    cmdSeq := w.cmdSeq + 1
    slotsOp := tabMap (fun _ (x : Slot) =>
      if x.phase = .claimed t then { x with phase := .leaving t, release := some (x.release.getD (w.cmdSeq + 1)) } else x) w.slotsOp }

/-- A task's thread halts and returns to the pool (R145, R148). DEDUCED: log 49. -/
def freeThread (w : World) (t : Nat) : World :=
  releaseSlots (w.setThread t { w.thread t with phase := .halted, wait := none, task := none }) t

/-- The name under which what a saved thread leaves on its core stands (R272). -/
def residentName (k : Nat) : Nat := 2 ^ 20 + k

/-- The task's entry is removed, which satisfies every slot that names its tag; a task with no slot left is ready (R136, R143, R145,
R148). -/
def removeTask (w : World) (k : Nat) : World :=
  match w.task? k with
  | none => w
  | some x =>
    let w := dropNodes w x.path
    let free (y : Task) : Task :=
      let y := { y with deps := y.deps.filter (· != .tag (taskTag k)) }
      if y.phase = .waiting ∧ y.deps.isEmpty then { y with phase := .ready, readyAt := w.periods } else y
    { w with tasks := tabMap (fun j (y : Task) => if taskDie j = taskDie k then free y else y) (tabDel k w.tasks) }

/-- Steps 1 and 2 of R148 for one task; `store` is clear when its completion store could not be performed. DEDUCED: log 49. -/
def failStored (w : World) (k code : Nat) (store : Bool) : World :=
  match w.task? k with
  | none => w
  | some x =>
    let w := match x.region with
      | some r => discardRegion w r
      | none => w
    let w := match x.thread with
      | some t => freeThread w t
      | none => if x.phase = .saved ∨ x.phase = .loading then releaseSlots (freeChains w (residentName k)) (residentName k) else w
    if store then (storeCompletion w k x (2 ^ 63 + code)).1 else w

/-- Steps 1 to 3 of R148 for one task. DEDUCED: log 49. -/
def failOne (w : World) (k code : Nat) (store : Bool) : World := removeTask (failStored w k code store) k

/-- Does a budget that has been reached hold what the failure of task `k` with a code performs: the accesses that its region has issued, and
its completion store (R141)? -/
def failHeld (w : World) (k code : Nat) : Bool := w.overrun w (failStored w k code true)

/-- The tasks that fail because task `x` of key `k` has: those that name its tag, and those of its domain (R148). -/
def fallout (w : World) (k : Nat) (x : Task) : List (Nat × Nat) :=
  w.tasks.filterMap fun (j, y) =>
    if j = k ∨ taskDie j != taskDie k then none
    else if y.deps.any (· == .tag (taskTag k)) then some (j, 6)
    else if x.fdom != 0 && y.fdom == x.fdom then some (j, 7)
    else none

/-- Tasks fail, and with them, round by round, the tasks that fail because they have (R148). A task whose failure a budget holds
fails when the budget admits it (R141). DEDUCED: log 45. -/
def failRounds : Nat → World → List (Nat × Nat) → Bool → World
  | 0, w, _, _ => w
  | n + 1, w, ks, store =>
    let (w, more) := ks.foldl (fun (acc : World × List (Nat × Nat)) (k, code) =>
      match acc.1.task? k with
      | none => acc
      | some x =>
        if store && failHeld acc.1 k code then (declareFatal acc.1 (some k) code, acc.2)
        else (failOne acc.1 k code store, acc.2 ++ fallout acc.1 k x)) (w, [])
    if more.isEmpty then w else failRounds n w more true

/-- A task fails with a code (R148). -/
def failTask (w : World) (k code : Nat) : World := failRounds (w.tasks.length + 1) w [(k, code)] true

/-- A task fails with code 7 as its own domain (R144). -/
def failAlone (w : World) (k : Nat) : World :=
  match w.task? k with
  | none => w
  | some x => failTask (w.setTask k { x with fdom := 0 }) k 7

/-- The tasks to which a fault has been declared fatal fail (R148). -/
def failDying (w : World) : World :=
  w.tasks.foldl (fun w (k, x) =>
    match x.dying with
    | some code => failTask w k code
    | none => w) w

/-- A task's region becomes reusable: its planes stay in place, and the dispatcher holds it (R145). Stream commands of the task that its
core's queue still holds go with it. DEDUCED: log 76. -/
def keepRegion (w : World) (r : Nat) : World :=
  let w := dropStreamCmds (stopRegion w r) r
  w.setRegion r { w.region r with owner := none, task := none, reusable := true }

/-- A task completes (R145 steps 2 to 4), or fails with code 4 when its completion store cannot be performed; a budget that has been reached
holds that store, and the completion with it (R141). -/
def completeTask (w : World) (k : Nat) : World :=
  match w.task? k with
  | none => w
  | some x =>
    let (w', done) := storeCompletion w k x x.cval
    if w.overrun w w' then w
    else if !done then failRounds (w'.tasks.length + 1) w' [(k, 4)] false
    else
      let w := removeTask w' k
      let w := match x.region with
        | some r => keepRegion w r
        | none => w
      match x.thread with
      | some t => freeThread w t
      | none => w

end Sys2Proof.Machine
end

