-- ==== Sys2Proof/Machine/Time.lean ====
section
/-! DEFINITION. What a cycle that goes by counts: the cycle counter, the watchdogs and the gap timers (R215, R267, R354). -/

namespace Sys2Proof.Machine

/-- Does an element hold a token (R267)? -/
def Elem.holds (x : Elem) : Bool :=
  x.parts.any (fun kv => !kv.2.isEmpty) || !x.arriving.isEmpty || !x.out.isEmpty || !x.xb.isEmpty || !x.cq.isEmpty || !x.ctlIn.isEmpty
    || !x.cout.isEmpty

/-- Does an element of region `r` meet `f`? -/
def someElem (w : World) (r : Nat) (f : Elem → Bool) : Bool := w.elems.any fun kv => f kv.2 && regionOf w kv.1 == some r

/-- Does the handler that an element would fire now read memory in its firing: a walker, or a video operation? -/
def readsNow (w : World) (e : Nat) : Bool :=
  (selected w e).any fun h =>
    let op := (handler (w.elem e).act h).op
    op == 0x88 || op == 0x89 || decide (0xA0 ≤ op)

/-- Does a budget hold a region: its firings, an access of it that has been issued, or a firing that reads memory (R141)? -/
def budgetHeld (w : World) (r : Nat) : Bool :=
  let t := (w.region r).task
  !w.admitted t 1 || ((!w.admitted t 2 || !w.admitted t 3)
    && ((someElem w r fun x => x.acc.any fun a => a.phase == .issued || a.phase == .atUnit) || (regionElems w r).any (readsNow w)))

/-- Does the watchdog leave the present cycle out: the region held by a budget, an access of it stalled, a switch token
waiting for a seal (R267)? -/
def watchdogHeld (w : World) (r : Nat) : Bool :=
  budgetHeld w r || someElem w r Elem.hasStalled || (someElem w r (·.heldSwt) && (w.region r).shadow != .wave)

/-- May tokens move in a region: its handlers fire, or a switch travels through it (R83, R228)? -/
def Region.flows (g : Region) : Bool := (g.running && !g.starting) || g.shadow == .wave

/-- Does the watchdog count the present cycle for a region: a token held, none that moved in this cycle, and the cycle not left out? A
token that moves sets the count back. DEDUCED: log 71. -/
def countsStill (w : World) (r : Nat) (g : Region) : Bool :=
  g.flows && !g.frozen && g.fault.isNone && g.movedAt != w.cycle && someElem w r Elem.holds && !watchdogHeld w r

/-- Does the gap timer of a chain count the present cycle (R354)? DEDUCED: log 71. -/
def countsGap (w : World) (k : Nat) (x : Chain) : Bool :=
  chainStalls w k && (match x.owner with
    | some r => !someElem w r Elem.hasStalled && !budgetHeld w r && !(w.region r).frozen
    | none => true)

/-- What is on its way to an element stands there; a bad control word that is then a head is an element fault (R57, R61). -/
def arriveAll (w : World) : World :=
  let w := { w with elems := tabMap (fun _ x => x.arrive) w.elems }
  w.elems.foldl (fun w kv => if kv.2.badHead then elemFault w kv.1 0x02 else w) w

/-- One cycle goes by. DESIGN CHOICE: log 9. -/
def passCycle (w : World) : World :=
  arriveAll { w with
    cycle := w.cycle + 1
    regions := tabMap (fun r (g : Region) => if countsStill w r g then { g with still := g.still + 1 } else g) w.regions
    chains := tabMap (fun k (x : Chain) => if countsGap w k x then { x with gap := x.gap + 1 } else x) w.chains }

end Sys2Proof.Machine
end

