-- ==== Sys2Proof/Machine/Tokens.lean ====
section
/-! DEFINITION. The steps of elements and regions that no handler takes: headers, tokens on their way, cuts, flips, power
states and the watchdog (R59, R61, R63, R67, R70, R71, R83, R265 to R267). -/

namespace Sys2Proof.Machine

/-- May the tokens of an element's region move: the core has power, the region is not frozen, and no fault waits for its rollback? -/
def flowing (w : World) (e : Nat) : Bool :=
  match regionOf w e with
  | some r => powered w (eCore e) && !(w.region r).frozen && (w.region r).fault.isNone
  | none => false

/-- The lanes on which a handler forwards the headers taken on a port, if it does (R98, R99, R101). -/
def forwardsOn (x : Elem) (h q : Nat) : Option Nat :=
  let hd := handler x.act h
  if [0x40, 0x46, 0x47, 0x48].contains hd.op && hd.opa == q then some (outl x)
  else if hd.op = 0x42 ∧ hd.opa = q then some (steerLanes x h)
  else none

/-- A header at the head of partition (q, h) goes into the handler's latch for the port, and on where the operation
forwards it; it fires nothing, and takes no firing of its cycle away (R58, R59). -/
def latchHeader (w : World) (e q h : Nat) : World :=
  let x := w.elem e
  match x.head q h with
  | none => w
  | some t =>
    if !t.isHeader || !flowing w e || x.gated || !enabled x.act h || !bit (handler x.act h).qreq q then w
    else if t.badHeader then elemFault w e 0x03
    else
      let y := { x.take q h with latch := tabSet (4 * h + q) t.pay x.latch, busyAt := w.cycle }
      match forwardsOn x h q with
      | none => moved (w.setElem e y) e
      | some lanes =>
        if x.out.length + x.pureWaiting < 2 then
          moved (w.setElem e (y.emitOn w.cycle 1 lanes { t with chan := (handler x.act h).och })) e
        else w

/-- HEADER_LATCH (R59). -/
def execHeaderLatch (e q h : Nat) (s : State) : Outcome := event (latchHeader · e q h) s

/-- Does a switch token follow, in the output buffer or behind accesses, what an element sends (R83)? -/
def Elem.swtBehind (x : Elem) : Bool := x.out.any (·.tok.isSwt) || x.acc.any fun a => a.outs.any (·.tok.isSwt)

/-- The head of the output buffer goes onto its lanes, all or none, one in a cycle (R61, R63); behind an end-of-stream of the active plane
of an element with `EOSW` a switch token is held for the seal (R81), or sent where the switch is released already. DEDUCED: log 62. -/
def sendOutput (w : World) (e : Nat) : World :=
  let x := w.elem e
  match x.out with
  | [] => w
  | o :: rest =>
    if w.cycle < o.ready || w.cycle < x.sendAt then w
    else match toLanes w e o.tok (lanesOf o.lanes) with
      | .held => w
      | .fault e' c => elemFault w e' c
      | .taken w =>
        let x := w.elem e
        let y := { x with out := rest, busyAt := w.cycle, sendAt := w.cycle + 1 }
        let eosw := isEdge e && bit (field x.act 13) 0 && o.tok.isCtl && o.tok.code == 3 && !y.swtBehind
        let w := moved (w.setElem e { y.deliver with heldSwt := x.heldSwt || eosw }) e
        match regionOf w e with
        | some r => if eosw then (if (w.region r).shadow = .wave then sendHeld w e else settle w r) else w
        | none => w

/-- Behind a switch token that has gone through, a crossbar direction takes the plane of the source: the new one (R83). -/
def xbSwitched (w : World) (e dir : Nat) : World :=
  let x := w.elem e
  if x.flipped || !waving w e then w.setElem e { x with oldXb := tabDel dir x.oldXb }
  else w.setElem e { x with oldXb := tabSet dir (field x.shd (2 + dir)) x.oldXb }

/-- The token held from direction `dir` in an element's crossbar, since an earlier cycle, goes on: passed, dropped, or both at once. A hold
that stood still takes the next token a cycle later (R61, R63). -/
def sendCrossbar (w : World) (e dir : Nat) : World :=
  let x := w.elem e
  let t := tabGet { kind := 0, chan := 0, pay := 0 } dir x.xb
  if !tabHas dir x.xb || w.cycle < t.due then w
  else
    let f := xbField x dir
    let on := { t with due := 0 }
    let pass := bits f 2 0
    let drop := bit f 3
    let fin (w : World) : World :=
      let y := w.elem e
      let late := if t.due < w.cycle then 2 ^ (16 + dir) else 0
      let w := moved (w.setElem e { y with xb := tabDel dir y.xb, freed := y.freed ||| late, busyAt := w.cycle }) e
      if t.isSwt then xbSwitched w e dir else w
    let dropTo (w : World) : Handed :=
      let p := bits f 5 4
      if field (w.elem e).act (6 + p) % 8 = 5 then toPort w e p true on
      else if waving w e then .held else .fault e 0x06
    if pass = 0 ∧ drop = false then (if waving w e then w else elemFault w ((neighbour e dir).getD e) 0x06)
    else
      let passed : Handed := if pass = 0 then .taken w else toLane w e (pass - 1) 1 on
      match passed with
      | .held => w
      | .fault e' c => elemFault w e' c
      | .taken w' =>
        if !drop then fin w'
        else match dropTo w' with
          | .held => w
          | .fault e' c => elemFault w e' c
          | .taken w'' => fin w''

/-- The head of the control output goes to its destinations, all or none, one hop in a cycle (R67). DEDUCED: log 61. -/
def sendControl (w : World) (e : Nat) : World :=
  match (w.elem e).cout with
  | [] => w
  | (b, m) :: rest =>
    if w.cycle < (w.elem e).ctlAt || w.cycle < b.due then w
    else match toCtl w e b ([0, 1, 2, 3].filter (bit m ·)) with
    | .held => w
    | .fault e' c => elemFault w e' c
    | .taken w => moved (w.setElem e { w.elem e with cout := rest, busyAt := w.cycle, ctlAt := w.cycle + 1 }) e

/-- A token leaves: from the output buffer (0), from the crossbar hold of north, east, south or west (1 to 4), or from
the control output (5). -/
def sendToken (w : World) (e src : Nat) : World :=
  if !flowing w e || (w.elem e).gated then w
  else if src = 0 then sendOutput w e
  else if src ≤ 4 then sendCrossbar w e (src - 1)
  else if src = 5 then sendControl w e
  else w

/-- TOKEN_SEND (R61, R63, R67). -/
def execTokenSend (e src : Nat) (s : State) : Outcome := event (sendToken · e src) s

/-! ### Cuts (R265) -/

/-- Do markers of epoch `n` stand at the head of every active queue, of which there is one? -/
def markersHead (x : Elem) (n : Nat) : Bool :=
  let qs := activeQueues x.act
  !qs.isEmpty && qs.all fun (p, h) => match x.head p h with
    | some t => t.isMrk && bits t.pay.toNat 23 8 == n
    | none => false

/-- The element with a marker taken from every active queue. -/
def Elem.takeHeads (x : Elem) : Elem := (activeQueues x.act).foldl (fun y (p, h) => y.take p h) x

/-- What an `ldst` whose marker had gone out at the cut's request records when that marker has come back: its streams as they stood behind
the marker, with the feedback taken up to its return (R69, R115, R265). DEDUCED: log 68. -/
def Elem.backSnap (x : Elem) (n : Snap) : Snap := { n with aux := x.aux }

/-- An element records its snapshot of the cut in progress and sends one marker on: a source element behind every result that it has fired,
when the marker enters its output buffer; any other in the first cycle in which markers stand at all its heads. An `ldst` with a feedback
port sends its marker as a source does, and records when it has come back (R265). DEDUCED: log 68. -/
def recordCut (w : World) (e : Nat) : World :=
  match regionOf w e with
  | none => w
  | some r =>
    let g := w.region r
    let x := w.elem e
    if !g.cutting || !flowing w e || x.snap.isSome || x.gated || !planeConfigured x.act then w
    else
      let put (y : Elem) : World := moved (w.setElem e { y with epoch := g.epoch, busyAt := w.cycle }) e
      let mark (y : Elem) : Elem := y.emitOn w.cycle 0 (wideLanes x.act) (mrkWord g.epoch)
      let now := recordOf w e g.epoch
      if markerDue w r x then
        if x.acc.isEmpty && decide (x.out.length < 2) then
          put (if feedsBack x then { mark x with early := some now } else { mark x with snap := some now })
        else w
      else match x.early with
        | some n => if markersHead x g.epoch then put { x.takeHeads with snap := some (x.backSnap n), early := none } else w
        | none =>
          if (activeQueues x.act).isEmpty then put { x with snap := some now }
          else if markersHead x g.epoch then put { mark x.takeHeads with snap := some now }
          else w

/-- SNAPSHOT_RECORD (R265). -/
def execSnapshotRecord (e : Nat) (s : State) : Outcome := event (recordCut · e) s

/-- Has every chain access issued before its element recorded the cut been performed (R356)? -/
def chainsSettled (x : Elem) (n : Nat) : Bool :=
  x.acc.all fun a => !(a.op.isChain && a.phase != .done && a.epoch != n)

/-- May the cut of a region be completed: every configured element has recorded it, and the chain accesses issued before are performed
(R265, R356)? -/
def cutReady (w : World) (r : Nat) : Bool :=
  let g := w.region r
  g.cutting && powered w (r / 4) && !g.frozen && g.fault.isNone
    && (regionElems w r).all fun e => let x := w.elem e; (!planeConfigured x.act || x.snap.isSome) && chainsSettled x g.epoch

/-- An element's part in the completion: its replay log keeps what it logged after recording, and what a replay of the cut's interval has
still to find (R119). DEDUCED: log 120. -/
def Elem.keepCut (x : Elem) (n : Nat) (cut : Snap) : Elem :=
  { x with cut := some cut, snap := none, early := none, epoch := n
           log := x.log.filter fun (h, o, _, m) => m == n || decide (tabGet 0 h cut.issued ≤ o) }

/-- The cut is complete: the recorded snapshots become the last complete cut. A load that waits for the first cut after a switch may begin,
unless the cut was begun before the switch was complete (R78, R119, R265, R356). DEDUCED: log 119. -/
def completeCut (w : World) (r : Nat) : World :=
  if !cutReady w r then w
  else
    let g := w.region r
    let w := (regionElems w r).foldl (fun w e =>
      let x := w.elem e
      w.setElem e (x.keepCut g.epoch (x.snap.getD (recordOf w e g.epoch)))) w
    (cutChains w r).setRegion r { g with
      cutting := false, cutDue := g.cutDue && g.cutOld, cutOld := false, faulted := false, wdFaulted := false }

/-- CUT_COMPLETE (R265). -/
def execCutComplete (r : Nat) (s : State) : Outcome := event (completeCut · r) s

/-! ### Flip (R83) -/

/-- The element that sources the control input of an element through pass-throughs, as its old plane has it (R83).
DEDUCED: log 61. -/
def ctlSource (w : World) (r e dir : Nat) : Nat → Option Nat
  | 0 => none
  | k + 1 =>
    match neighbour e dir with
    | none => none
    | some n =>
      if regionOf w n != some r then none
      else
        let x := w.elem n
        let pl := if x.flipped then x.shd else x.act
        let back := opposite dir
        if bit (field pl 11) 6 && bit (field pl 11) back then some n
        else if bits (field pl 12) 2 0 != 0 && bit (field pl 12) (3 + back) then ctlSource w r n (bits (field pl 12) 2 0 - 1) k
        else none

/-- Is the control input of an element ready for its flip (R83)? -/
def ctlReady (w : World) (r e : Nat) : Bool :=
  let x := w.elem e
  let cis := bits (field x.act 10) 2 0
  cis == 0 || (x.cq.isEmpty && match ctlSource w r e (cis - 1) 3072 with
    | some n => (w.elem n).flipped
    | none => true)

/-- Does a switch token stand at the head of every active queue, of which there is one? -/
def swtHeads (x : Elem) : Bool :=
  let qs := activeQueues x.act
  !qs.isEmpty && qs.all fun (p, h) => match x.head p h with
    | some t => t.isSwt
    | none => false

/-- May an element flip now (R81, R83)? -/
def flipReady (w : World) (r e : Nat) : Bool :=
  let g := w.region r
  let x := w.elem e
  g.shadow == .wave && powered w (r / 4) && !x.flipped && !g.frozen && g.fault.isNone
    && ((swtHeads x && decide (x.wake ≤ w.cycle) && ctlReady w r e)
        || (flipsAlone x && !(isEdge e && g.running && !g.starting && streamRunning x)))

/-- An element whose turn in the wavefront has come flips; with the last one the wavefront is complete (R83). -/
def flipDue (w : World) (e : Nat) : World :=
  match regionOf w e with
  | none => w
  | some r => if flipReady w r e then waveDone (flipElem w e) r else w

/-- FLIP (R83). -/
def execFlip (e : Nat) (s : State) : Outcome := event (flipDue · e) s

/-! ### Power states (R70, R71) -/

/-- Has an element nothing in it (R70)? DEDUCED: log 63. -/
def Elem.idle (x : Elem) : Bool :=
  x.parts.all (fun kv => kv.2.isEmpty) && x.arriving.isEmpty && x.out.isEmpty && x.acc.isEmpty && x.cq.isEmpty && x.ctlIn.isEmpty && x.cout.isEmpty
    && x.xb.isEmpty

/-- An element with nothing in it for 1,024 cycles gates its clock, but for a load or a switch in its region (R70).
DEDUCED: log 63. -/
def execElementClockGate (e : Nat) (s : State) : Outcome :=
  event (fun w =>
    let x := w.elem e
    let free := match regionOf w e with
      | some r => ((w.region r).shadow != .wave || x.flipped) && (w.region r).load.isNone && !(w.region r).cq.any fun c => match c.1 with
          | .load .. => true
          | _ => false
      | none => true
    if x.idle && free && decide (x.busyAt + 1024 ≤ w.cycle) then w.setElem e { x with gated := true } else w) s

/-- A gated element resumes when a token reaches it (R70). -/
def execElementWake (e : Nat) (s : State) : Outcome :=
  event (fun w =>
    let x := w.elem e
    if x.gated then w.setElem e { x with gated := false, busyAt := w.cycle } else w) s

/-- A waking sector accepts what is held for it, at the latest 1,320 cycles after it was woken (R71). -/
def execSectorWake (c x : Nat) (s : State) : Outcome :=
  event (fun w =>
    let k := 12 * c + x
    if tabHas k w.sectors && decide (w.cycle < tabGet 0 k w.sectors) then { w with sectors := tabSet k w.cycle w.sectors } else w) s

/-- The elements of a sector. -/
def sectorElems (c x : Nat) : List Nat :=
  (List.range 16).flatMap fun i => (List.range 16).map fun j => eKey c (16 * (x / 4) + i) (16 * (x % 4) + j)

/-- A sector with no configured element and no region is powered off (R71). -/
def execSectorPowerOff (c x : Nat) (s : State) : Outcome :=
  event (fun w =>
    let free := [0, 1, 2, 3].all fun h => !bit (w.region (4 * c + h)).mask x
    if free && (sectorElems c x).all (fun e => !planeConfigured (w.elem e).act) then
      { w with sectors := tabDel (12 * c + x) w.sectors }
    else w) s

/-! ### Watchdog (R267) -/

/-- After `2^WDL` counted cycles with a token held and none moving, the lowest element that holds one faults (R267).
DEDUCED: log 40. -/
def execWatchdog (r : Nat) (s : State) : Outcome :=
  event (fun w =>
    let g := w.region r
    if !g.flows || g.frozen || g.fault.isSome || decide (g.still < 2 ^ (w.die (dieOf (r / 4))).wdl) then w
    else match w.elems.find? fun kv => regionOf w kv.1 == some r && kv.2.holds with
      | some kv => elemFault w kv.1 0x09
      | none => w) s

end Sys2Proof.Machine
end

