-- ==== Sys2Proof/Machine/Cycle.lean ====
section
/-! DEFINITION. What the fabric does by the end of every cycle: what an element can do in a cycle it does in that cycle, and the cycle then
goes by (R51, R59, R61, R63 to R65, R67, R83, R265). -/

namespace Sys2Proof.Machine

/-- The firing of an operation of classes 0 to 3, whose result and time are the element's own; those of the edge classes wait for memory
(R87). -/
def computeFiring : Nat → Option (Nat → Nat → State → Outcome)
  | 0x00 => some execIadd
  | 0x01 => some execIsub
  | 0x02 => some execImul
  | 0x03 => some execImulh
  | 0x04 => some execIand
  | 0x05 => some execIor
  | 0x06 => some execIxor
  | 0x07 => some execIshl
  | 0x08 => some execIshr
  | 0x09 => some execIsra
  | 0x0A => some execImin
  | 0x0B => some execImax
  | 0x0C => some execIminn
  | 0x0D => some execImaxn
  | 0x0E => some execIabs
  | 0x0F => some execIaddsat
  | 0x10 => some execIclamp
  | 0x11 => some execIceq
  | 0x12 => some execIclt
  | 0x13 => some execIcltn
  | 0x20 => some execFabricFadd
  | 0x21 => some execFabricFsub
  | 0x22 => some execFabricFmul
  | 0x23 => some execFabricFfma
  | 0x24 => some execFabricFmin
  | 0x25 => some execFabricFmax
  | 0x26 => some execFabricFabs
  | 0x27 => some execFabricFneg
  | 0x28 => some execFabricFceq
  | 0x29 => some execFabricFclt
  | 0x2A => some execFrcp
  | 0x2B => some execFrsq
  | 0x2C => some execFexp2
  | 0x2D => some execFlog2
  | 0x2E => some execFabricFscale
  | 0x2F => some execFabricFxexp
  | 0x30 => some execFabricFcvti
  | 0x31 => some execFabricFcvtf
  | 0x40 => some execFabricMov
  | 0x41 => some execFabricSel
  | 0x42 => some execSteer
  | 0x43 => some execMerge
  | 0x44 => some execCarry
  | 0x45 => some execInv
  | 0x46 => some execGate
  | 0x47 => some execFilt
  | 0x48 => some execDup
  | 0x49 => some execDrop
  | 0x4A => some execCntr
  | 0x4B => some execSink
  | 0x60 => some execAccg
  | 0x61 => some execMaxg
  | 0x62 => some execArgmx
  | 0x63 => some execCntg
  | 0x64 => some execHdrw
  | 0x65 => some execScal
  | 0x66 => some execGrpc
  | _ => none

/-- The world after a step of an agent. -/
def worldAfter (f : State → Outcome) (w : World) : World :=
  match f { w := w, txn := none, turn := 0, agenda := [] } with
  | .next t => t.w
  | .fault _ | .refused _ => w

/-- The element fires the handler that it has to fire in this cycle (R65). -/
def fireDue (w : World) (e : Nat) : World :=
  match (selected w e).bind fun h => (computeFiring (handler (w.elem e).act h).op).map fun f => f e h with
  | some f => worldAfter f w
  | none => w

/-- The token held from direction `dir` in the crossbar of `e` goes on, those that stand in its way first, at most `k` hops on (R61). -/
def hopDue (w : World) (e dir : Nat) : Nat → World
  | 0 => w
  | k + 1 =>
    if tabHas dir (w.elem e).xb then
      let p := bits (xbField (w.elem e) dir) 2 0
      let w := match (if p = 0 then none else neighbour e (p - 1)) with
        | some n => hopDue w n (opposite (p - 1)) k
        | none => w
      sendToken w e (dir + 1)
    else w

/-- The headers that have come to the heads of an element's partitions are taken (R59). -/
def latchDue (w : World) (e : Nat) : World :=
  (List.range 16).foldl (fun w i =>
    if ((w.elem e).head (i / 4) (i % 4)).any Token.isHeader then latchHeader w e (i / 4) (i % 4) else w) w

/-- The elements that may have something to do. -/
def fabricElems (w : World) : List Nat := (w.elems.filter fun kv => kv.2.holds || planeConfigured kv.2.act).map (·.1)

/-- `f` for every element that may have something to do. -/
def eachElem (f : World → Nat → World) (w : World) : World := (fabricElems w).foldl f w

/-- What is due in the cycle in hand is done: hops, tokens and control bits sent, flips with the switch tokens that they send, snapshots and
cuts, headers, and firings. An element's first token in a cycle goes before its flip and its firing, which may put another behind it.
DESIGN CHOICE: log 9. -/
def fabricCycle (w : World) : World :=
  let w := eachElem (fun w e => ([0, 1, 2, 3].foldl (fun w d => hopDue w e d 112) w)) w
  let w := eachElem (fun w e => sendToken (sendToken w e 0) e 5) w
  let w := eachElem (fun w e => let v := flipDue w e; sendToken v e 0) w
  let w := eachElem (fun w e => let v := recordCut w e; sendToken v e 0) w
  let w := (w.regions.filter fun kv => kv.2.cutting).foldl (fun w kv => completeCut w kv.1) w
  eachElem fireDue (eachElem latchDue w)

end Sys2Proof.Machine
end

