-- ==== Sys2Proof/Machine/Flags.lean ====
section
/-! DEFINITION. The sticky flags of a thread's float work, and the rounding mode and binary8 format that govern it
(R189, R194, R215). -/

namespace Sys2Proof.Machine

/-- The rounding mode of frm bits 1..0 (R189). -/
def Thread.rm (th : Thread) : Nat := bits th.frm.toNat 1 0

/-- The bits U, F, PPP of frm 12..8 (R194). -/
def Thread.b8f (th : Thread) : Nat := bits th.frm.toNat 12 8

/-- OR raised flags into fflags bits 4..0 (R189). -/
def Thread.raiseFlags (th : Thread) (f : Flags) : Thread := { th with fflags := th.fflags ||| f.setWidth 64 }

/-- A fw32 result, zero-extended into gD, with its flags (R189). -/
def State.writeFw (s : State) (d : Reg) (r : W32 × Flags) : State :=
  s.setThr ((s.thr.raiseFlags r.2).writeG d (r.1.setWidth 64))

/-- A float compare's bit into pD, with its flags (R190). -/
def State.writeFwP (s : State) (d : PReg) (r : Bool × Flags) : State :=
  s.setThr ((s.thr.raiseFlags r.2).writeP d r.1)

end Sys2Proof.Machine
end

