-- ==== Sys2Proof/Machine/Operands.lean ====
section
/-! DEFINITION. The operand forms of the words: what a word of each shape reads, writes and does (R170, R171, R179,
R184, R205). -/

namespace Sys2Proof.Machine

/-- What a word of class `c` reads and writes; those that may not stand behind an indivisible word make accesses or give commands, but for
those of `quiet`. -/
def use (c : Cls) (gs : List Reg) (dg : List Reg) : Use :=
  { gs := gs, ps := [], dg := dg, dp := [], cls := c, ind := false, cres := false, acc := c == .other }

/-- What a word that makes no access, or that stores, reads and writes: a store waits at the store path, not in its block (R202). -/
def quiet (u : Use) : Use := { u with acc := false }

/-- A scalar word `gD := f gA gB`. -/
def regOp2 (f : Word → Word → Word) (p : Pr) (d a b : Reg) (s : State) : Outcome :=
  word 1 p (use .scalar [a, b] [d]) (fun s => .ok (s.writeG d (f (s.readG a) (s.readG b)))) s

/-- A scalar word `gD := f gA`. -/
def regOp1 (f : Word → Word) (p : Pr) (d a : Reg) (s : State) : Outcome :=
  word 1 p (use .scalar [a] [d]) (fun s => .ok (s.writeG d (f (s.readG a)))) s

/-- `lo64` of a 10-bit immediate (R171, R184). -/
def imm64 (imm : BitVec 10) : Word := imm.signExtend 64

/-- A scalar word `gD := f gA lo64(i)` (R184). -/
def immOp (f : Word → Word → Word) (p : Pr) (d a : Reg) (imm : BitVec 10) (s : State) : Outcome :=
  word 1 p (use .scalar [a] [d]) (fun s => .ok (s.writeG d (f (s.readG a) (imm64 imm)))) s

/-- A compare `pD := f gA gB` (R185). -/
def cmpOp (f : Word → Word → Bool) (p : Pr) (d : PReg) (a b : Reg) (s : State) : Outcome :=
  word 1 p { use .scalar [a, b] [] with dp := [d] } (fun s => .ok (s.writeP d (f (s.readG a) (s.readG b)))) s

/-- A compare with an immediate (R185). -/
def cmpImm (f : Word → Word → Bool) (p : Pr) (d : PReg) (a : Reg) (imm : BitVec 10) (s : State) : Outcome :=
  word 1 p { use .scalar [a] [] with dp := [d] } (fun s => .ok (s.writeP d (f (s.readG a) (imm64 imm)))) s

/-- A predicate operation `pD := f pA pB` (R186). -/
def predOp2 (f : Bool → Bool → Bool) (p : Pr) (d a b : PReg) (s : State) : Outcome :=
  word 1 p { use .scalar [] [] with ps := [a, b], dp := [d] } (fun s => .ok (s.writeP d (f (s.readP a) (s.readP b)))) s

/-- A fw32 word `gD := f rm gA gB` with its flags (R189, R190). -/
def fwOp2 (f : Nat → W32 → W32 → W32 × Flags) (p : Pr) (d a b : Reg) (s : State) : Outcome :=
  word 1 p (use .scalar [a, b] [d])
    (fun s => .ok (s.writeFw d (f s.thr.rm ((s.readG a).setWidth 32) ((s.readG b).setWidth 32)))) s

/-- A fw32 word `gD := f rm gA` with its flags (R189, R190). -/
def fwOp1 (f : Nat → W32 → W32 × Flags) (p : Pr) (d a : Reg) (s : State) : Outcome :=
  word 1 p (use .scalar [a] [d]) (fun s => .ok (s.writeFw d (f s.thr.rm ((s.readG a).setWidth 32)))) s

/-- A fw32 compare `pD := f gA gB` with its flags (R190). -/
def fwCmp (f : W32 → W32 → Bool × Flags) (p : Pr) (d : PReg) (a b : Reg) (s : State) : Outcome :=
  word 1 p { use .scalar [a, b] [] with dp := [d] }
    (fun s => .ok (s.writeFwP d (f ((s.readG a).setWidth 32) ((s.readG b).setWidth 32)))) s

/-- A conversion `gD := f th gA` with its flags (R194). -/
def convOp (f : Thread → Word → Nat × Flags) (p : Pr) (d a : Reg) (s : State) : Outcome :=
  word 1 p (use .scalar [a] [d]) (fun s =>
    let r := f s.thr (s.readG a)
    .ok (s.setThr ((s.thr.raiseFlags r.2).writeG d (BitVec.ofNat 64 r.1)))) s

/-- The byte offset of an I-form memory operand: the immediate times the access size (R171). -/
def memOffset (imm : BitVec 10) (n : Nat) : Word := imm64 imm * BitVec.ofNat 64 n

/-- A load's value in gD: sign-extended or zero-extended from `n` bytes (R198). -/
def extend (signed : Bool) (n v : Nat) : Word := if signed then sext (8 * n) v else BitVec.ofNat 64 v

/-- Does a load wait: it reads a register, and a store of the thread's own to one is not performed (R361)? -/
def mmioWaits (s : State) (o : Order) (va n : Nat) : Bool :=
  s.thr.path.any (fun x => isMmio s.w x.pa) &&
  match (checkAccess s.w s.core (wordSpace s) .load o va n).2 with
  | .ok gs => gs.any fun g => isMmio s.w g.pa
  | .error _ => false

/-- A load of `n` bytes into gD (R196 to R198). -/
def loadTo (o : Order) (k : Touch) (signed : Bool) (n : Nat) (d : Reg) (va : Word) (s : State) : Res :=
  if mmioWaits s o va.toNat n then .wait .path
  else match loadNum s .load o k va n with
  | (_, .error t) => .trap t.code t.val
  | (s, .ok v) => .ok (s.writeG d (extend signed n v))

/-- A store of the low `n` bytes of gD (R196 to R198). -/
def storeFrom (o : Order) (k : Touch) (n : Nat) (d : Reg) (va : Word) (s : State) : Res :=
  match storeNum s o k va n (s.readG d).toNat with
  | (_, .error t) => .trap t.code t.val
  | (s, .ok _) => .ok s

/-- A load in the I form (R198). -/
def loadI (signed : Bool) (n : Nat) (p : Pr) (d a : Reg) (imm : BitVec 10) (s : State) : Outcome :=
  word 1 p (use .other [a] [d]) (fun s => loadTo .plain Touch.load signed n d (s.readG a + memOffset imm n) s) s

/-- A store in the I form (R198). -/
def storeI (n : Nat) (p : Pr) (d a : Reg) (imm : BitVec 10) (s : State) : Outcome :=
  word 1 p (quiet (use .other [d, a] [])) (fun s => storeFrom .plain Touch.store n d (s.readG a + memOffset imm n) s) s

/-- A load in the indexed form (R198). -/
def loadX (signed : Bool) (n : Nat) (p : Pr) (d a b : Reg) (s : State) : Outcome :=
  word 1 p (use .other [a, b] [d])
    (fun s => loadTo .plain Touch.load signed n d (s.readG a + BitVec.ofNat 64 n * s.readG b) s) s

/-- A store in the indexed form (R198). -/
def storeX (n : Nat) (p : Pr) (d a b : Reg) (s : State) : Outcome :=
  word 1 p (quiet (use .other [d, a, b] []))
    (fun s => storeFrom .plain Touch.store n d (s.readG a + BitVec.ofNat 64 n * s.readG b) s) s

/-- An ordered 8-byte load at gA (R202). -/
def loadAcq (p : Pr) (d a : Reg) (s : State) : Outcome :=
  word 1 p (use .other [a] [d]) (fun s => loadTo .acqRel Touch.load false 8 d (s.readG a) s) s

/-- An ordered 8-byte store at gA (R202). -/
def storeRel (p : Pr) (d a : Reg) (s : State) : Outcome :=
  word 1 p (quiet (use .other [d, a] [])) (fun s => storeFrom .acqRel Touch.store 8 d (s.readG a) s) s

end Sys2Proof.Machine
end

