-- ==== Sys2Proof/Machine/Alu.lean ====
section
/-! DEFINITION. The integer, compare, predicate, move and long-form words (R179 to R188). -/

namespace Sys2Proof.Machine

/-! ### ALU-A (R181) -/

/-- gA shifted left by the whole value of gB. -/
def shl64 (a b : Word) : Word := if 64 ≤ b.toNat then 0 else a <<< b.toNat
/-- gA shifted right logically by the whole value of gB. -/
def shr64 (a b : Word) : Word := a >>> b.toNat
/-- gA shifted right arithmetically by min(gB, 63). -/
def sra64 (a b : Word) : Word := a.sshiftRight (min b.toNat 63)

def execAdd (p : Pr) (d a b : Reg) (s : State) : Outcome := regOp2 (· + ·) p d a b s
def execSub (p : Pr) (d a b : Reg) (s : State) : Outcome := regOp2 (· - ·) p d a b s
def execAnd (p : Pr) (d a b : Reg) (s : State) : Outcome := regOp2 (· &&& ·) p d a b s
def execOr (p : Pr) (d a b : Reg) (s : State) : Outcome := regOp2 (· ||| ·) p d a b s
def execXor (p : Pr) (d a b : Reg) (s : State) : Outcome := regOp2 (· ^^^ ·) p d a b s
def execAndn (p : Pr) (d a b : Reg) (s : State) : Outcome := regOp2 (fun a b => a &&& ~~~b) p d a b s
def execOrn (p : Pr) (d a b : Reg) (s : State) : Outcome := regOp2 (fun a b => a ||| ~~~b) p d a b s
def execShl (p : Pr) (d a b : Reg) (s : State) : Outcome := regOp2 shl64 p d a b s
def execShr (p : Pr) (d a b : Reg) (s : State) : Outcome := regOp2 shr64 p d a b s
def execSra (p : Pr) (d a b : Reg) (s : State) : Outcome := regOp2 sra64 p d a b s
def execRol (p : Pr) (d a b : Reg) (s : State) : Outcome := regOp2 (fun a b => a.rotateLeft (b.toNat % 64)) p d a b s
def execRor (p : Pr) (d a b : Reg) (s : State) : Outcome := regOp2 (fun a b => a.rotateRight (b.toNat % 64)) p d a b s
def execMin (p : Pr) (d a b : Reg) (s : State) : Outcome := regOp2 (fun a b => if a.toInt ≤ b.toInt then a else b) p d a b s
def execMax (p : Pr) (d a b : Reg) (s : State) : Outcome := regOp2 (fun a b => if a.toInt ≤ b.toInt then b else a) p d a b s
def execMinn (p : Pr) (d a b : Reg) (s : State) : Outcome := regOp2 (fun a b => if a.toNat ≤ b.toNat then a else b) p d a b s
def execMaxn (p : Pr) (d a b : Reg) (s : State) : Outcome := regOp2 (fun a b => if a.toNat ≤ b.toNat then b else a) p d a b s

/-! ### ALU-B (R182) -/

/-- The signed quotient, truncated toward zero, with the fixed results of R182. -/
def sdiv64 (a b : Word) : Word :=
  if b = 0 then BitVec.allOnes 64 else lo64 (Int.tdiv a.toInt b.toInt)

/-- The signed remainder, with the sign of the dividend, with the fixed results of R182. -/
def srem64 (a b : Word) : Word :=
  if b = 0 then a else lo64 (a.toInt - b.toInt * Int.tdiv a.toInt b.toInt)

/-- Leading zero bits of the low `n` bits, at most 64. -/
def clzFrom (a : Word) : Nat → Nat
  | 0 => 0
  | n + 1 => if a.getLsbD n then 0 else 1 + clzFrom a n

/-- Trailing zero bits from bit `i` on. -/
def ctzFrom (a : Word) : Nat → Nat → Nat
  | 0, _ => 0
  | n + 1, i => if a.getLsbD i then 0 else 1 + ctzFrom a n (i + 1)

/-- One bits among the low `n`. -/
def popFrom (a : Word) : Nat → Nat
  | 0 => 0
  | n + 1 => (if a.getLsbD n then 1 else 0) + popFrom a n

/-- The bytes of gA in the opposite order. -/
def bswap64 (a : Word) : Word := BitVec.ofNat 64 (leNat (leBytes 8 a.toNat).reverse)

def execMul (p : Pr) (d a b : Reg) (s : State) : Outcome := regOp2 (· * ·) p d a b s
def execMulh (p : Pr) (d a b : Reg) (s : State) : Outcome :=
  regOp2 (fun a b => lo64 (a.toInt * b.toInt / 2 ^ 64)) p d a b s
def execMulhn (p : Pr) (d a b : Reg) (s : State) : Outcome :=
  regOp2 (fun a b => BitVec.ofNat 64 (a.toNat * b.toNat / 2 ^ 64)) p d a b s
def execDiv (p : Pr) (d a b : Reg) (s : State) : Outcome := regOp2 sdiv64 p d a b s
def execDivn (p : Pr) (d a b : Reg) (s : State) : Outcome :=
  regOp2 (fun a b => if b = 0 then BitVec.allOnes 64 else a / b) p d a b s
def execRem (p : Pr) (d a b : Reg) (s : State) : Outcome := regOp2 srem64 p d a b s
def execRemn (p : Pr) (d a b : Reg) (s : State) : Outcome :=
  regOp2 (fun a b => if b = 0 then a else a % b) p d a b s
def execClz (p : Pr) (d a : Reg) (s : State) : Outcome := regOp1 (fun a => BitVec.ofNat 64 (clzFrom a 64)) p d a s
def execCtz (p : Pr) (d a : Reg) (s : State) : Outcome := regOp1 (fun a => BitVec.ofNat 64 (ctzFrom a 64 0)) p d a s
def execPopc (p : Pr) (d a : Reg) (s : State) : Outcome := regOp1 (fun a => BitVec.ofNat 64 (popFrom a 64)) p d a s
def execBrev (p : Pr) (d a : Reg) (s : State) : Outcome := regOp1 BitVec.reverse p d a s
def execBswap (p : Pr) (d a : Reg) (s : State) : Outcome := regOp1 bswap64 p d a s

/-! ### ALU-W (R183) -/

/-- `sx`: the low 32 bits sign-extended. -/
def sx (x : W32) : Word := x.signExtend 64

/-- A signed sum or difference limited to 32 bits, sign-extended. -/
def sat32 (x : Int) : Word := lo64 (if x < -2 ^ 31 then -2 ^ 31 else if 2 ^ 31 - 1 < x then 2 ^ 31 - 1 else x)

/-- The low 32 bits of a register. -/
def lo32 (a : Word) : W32 := a.setWidth 32

def execAddW (p : Pr) (d a b : Reg) (s : State) : Outcome := regOp2 (fun a b => sx (lo32 a + lo32 b)) p d a b s
def execSubW (p : Pr) (d a b : Reg) (s : State) : Outcome := regOp2 (fun a b => sx (lo32 a - lo32 b)) p d a b s
def execMulW (p : Pr) (d a b : Reg) (s : State) : Outcome := regOp2 (fun a b => sx (lo32 a * lo32 b)) p d a b s
def execShlW (p : Pr) (d a b : Reg) (s : State) : Outcome := regOp2 (fun a b => if 32 ≤ b.toNat then 0 else sx (lo32 a <<< b.toNat)) p d a b s
def execShrW (p : Pr) (d a b : Reg) (s : State) : Outcome := regOp2 (fun a b => sx (lo32 a >>> b.toNat)) p d a b s
def execSraW (p : Pr) (d a b : Reg) (s : State) : Outcome :=
  regOp2 (fun a b => sx ((lo32 a).sshiftRight (min b.toNat 31))) p d a b s
def execAddsat (p : Pr) (d a b : Reg) (s : State) : Outcome :=
  regOp2 (fun a b => sat32 ((lo32 a).toInt + (lo32 b).toInt)) p d a b s
def execSubsat (p : Pr) (d a b : Reg) (s : State) : Outcome :=
  regOp2 (fun a b => sat32 ((lo32 a).toInt - (lo32 b).toInt)) p d a b s
def execSextb (p : Pr) (d a : Reg) (s : State) : Outcome := regOp1 (fun a => (a.setWidth 8).signExtend 64) p d a s
def execSexth (p : Pr) (d a : Reg) (s : State) : Outcome := regOp1 (fun a => (a.setWidth 16).signExtend 64) p d a s
def execSextw (p : Pr) (d a : Reg) (s : State) : Outcome := regOp1 (fun a => sx (lo32 a)) p d a s
def execZextw (p : Pr) (d a : Reg) (s : State) : Outcome := regOp1 (fun a => (lo32 a).setWidth 64) p d a s

/-! ### Immediate forms (R184) -/

def execAddi (p : Pr) (d a : Reg) (imm : BitVec 10) (s : State) : Outcome := immOp (· + ·) p d a imm s
def execAndi (p : Pr) (d a : Reg) (imm : BitVec 10) (s : State) : Outcome := immOp (· &&& ·) p d a imm s
def execOri (p : Pr) (d a : Reg) (imm : BitVec 10) (s : State) : Outcome := immOp (· ||| ·) p d a imm s
def execXori (p : Pr) (d a : Reg) (imm : BitVec 10) (s : State) : Outcome := immOp (· ^^^ ·) p d a imm s
def execShli (p : Pr) (d a : Reg) (imm : BitVec 10) (s : State) : Outcome := immOp shl64 p d a imm s
def execShri (p : Pr) (d a : Reg) (imm : BitVec 10) (s : State) : Outcome := immOp shr64 p d a imm s
def execSrai (p : Pr) (d a : Reg) (imm : BitVec 10) (s : State) : Outcome := immOp sra64 p d a imm s

/-! ### Compares and predicates (R185, R186) -/

/-- Bit gB of gA, 0 beyond bit 63. -/
def bitOf (a b : Word) : Bool := a.getLsbD b.toNat

def execCeq (p : Pr) (d : PReg) (a b : Reg) (s : State) : Outcome := cmpOp (fun a b => a == b) p d a b s
def execCne (p : Pr) (d : PReg) (a b : Reg) (s : State) : Outcome := cmpOp (fun a b => a != b) p d a b s
def execClt (p : Pr) (d : PReg) (a b : Reg) (s : State) : Outcome := cmpOp (fun a b => decide (a.toInt < b.toInt)) p d a b s
def execCle (p : Pr) (d : PReg) (a b : Reg) (s : State) : Outcome := cmpOp (fun a b => decide (a.toInt ≤ b.toInt)) p d a b s
def execCltn (p : Pr) (d : PReg) (a b : Reg) (s : State) : Outcome := cmpOp (fun a b => decide (a.toNat < b.toNat)) p d a b s
def execClen (p : Pr) (d : PReg) (a b : Reg) (s : State) : Outcome := cmpOp (fun a b => decide (a.toNat ≤ b.toNat)) p d a b s
def execCbit (p : Pr) (d : PReg) (a b : Reg) (s : State) : Outcome := cmpOp bitOf p d a b s
def execCeqi (p : Pr) (d : PReg) (a : Reg) (imm : BitVec 10) (s : State) : Outcome := cmpImm (fun a b => a == b) p d a imm s
def execClti (p : Pr) (d : PReg) (a : Reg) (imm : BitVec 10) (s : State) : Outcome :=
  cmpImm (fun a b => decide (a.toInt < b.toInt)) p d a imm s
def execCltni (p : Pr) (d : PReg) (a : Reg) (imm : BitVec 10) (s : State) : Outcome :=
  cmpImm (fun a b => decide (a.toNat < b.toNat)) p d a imm s

def execPand (p : Pr) (d a b : PReg) (s : State) : Outcome := predOp2 (· && ·) p d a b s
def execPor (p : Pr) (d a b : PReg) (s : State) : Outcome := predOp2 (· || ·) p d a b s
def execPxor (p : Pr) (d a b : PReg) (s : State) : Outcome := predOp2 (fun a b => a != b) p d a b s
def execPandn (p : Pr) (d a b : PReg) (s : State) : Outcome := predOp2 (fun a b => a && !b) p d a b s
def execPnot (p : Pr) (d a : PReg) (s : State) : Outcome := predOp2 (fun a _ => !a) p d a a s
def execP2g (p : Pr) (d : Reg) (a : PReg) (s : State) : Outcome :=
  word 1 p { use .scalar [] [d] with ps := [a] } (fun s => .ok (s.writeG d (if s.readP a then 1 else 0))) s
def execG2p (p : Pr) (d : PReg) (a : Reg) (s : State) : Outcome :=
  word 1 p { use .scalar [a] [] with dp := [d] } (fun s => .ok (s.writeP d (s.readG a != 0))) s

/-! ### Moves and addresses (R187) -/

/-- gA rounded down to a multiple of 2^gB. -/
def alignDown (a b : Word) : Word := if 64 ≤ b.toNat then 0 else a >>> b.toNat <<< b.toNat

/-- gA rounded up to a multiple of 2^gB. -/
def alignUp (a b : Word) : Word :=
  if 64 ≤ b.toNat then 0 else BitVec.ofNat 64 (ceilDiv a.toNat (2 ^ b.toNat) * 2 ^ b.toNat)

def execMov (p : Pr) (d a : Reg) (s : State) : Outcome := regOp1 id p d a s
/-- sel writes gD whether or not its predicate holds (R173). -/
def execSel (p : Pr) (d a b : Reg) (s : State) : Outcome :=
  word 1 { pr := 0, pn := false } { use .scalar [a, b] [d] with ps := [p.pr] }
    (fun s => .ok (s.writeG d (if s.thr.holds p then s.readG a else s.readG b))) s
def execLea1 (p : Pr) (d a b : Reg) (s : State) : Outcome := regOp2 (fun a b => a + b) p d a b s
def execLea2 (p : Pr) (d a b : Reg) (s : State) : Outcome := regOp2 (fun a b => a + 2 * b) p d a b s
def execLea4 (p : Pr) (d a b : Reg) (s : State) : Outcome := regOp2 (fun a b => a + 4 * b) p d a b s
def execLea8 (p : Pr) (d a b : Reg) (s : State) : Outcome := regOp2 (fun a b => a + 8 * b) p d a b s
def execLea16 (p : Pr) (d a b : Reg) (s : State) : Outcome := regOp2 (fun a b => a + 16 * b) p d a b s
def execAlignd (p : Pr) (d a b : Reg) (s : State) : Outcome := regOp2 alignDown p d a b s
def execAlignn (p : Pr) (d a b : Reg) (s : State) : Outcome := regOp2 alignUp p d a b s

/-! ### Long forms (R172, R188) -/

def execLi (p : Pr) (d : Reg) (imm : BitVec 32) (s : State) : Outcome :=
  word 2 p (use .scalar [] [d]) (fun s => .ok (s.writeG d (sx imm))) s
def execLih (p : Pr) (d : Reg) (imm : BitVec 32) (s : State) : Outcome :=
  word 2 p (use .scalar [d] [d]) (fun s => .ok (s.writeG d (imm ++ lo32 (s.readG d)))) s
def execAddiL (p : Pr) (d a : Reg) (imm : BitVec 32) (s : State) : Outcome :=
  word 2 p (use .scalar [a] [d]) (fun s => .ok (s.writeG d (s.readG a + sx imm))) s

end Sys2Proof.Machine
end

