-- ==== Sys2Proof/Machine/Atom.lean ====
section
/-! DEFINITION. The indivisible words: atomics, barrier arrivals and range units (R149, R150, R204, R205, R208, R209, R211). -/

namespace Sys2Proof.Machine

/-- What an indivisible word reads and writes (R205). -/
def useInd (gs dg : List Reg) : Use := { use .other gs dg with ind := true }

/-- Keep memory as it stands before the block's first indivisible word, for the waits of the block (R205). -/
def keepPlain (s : State) : State :=
  { s with txn := s.txn.map fun x => { x with plain := some (x.plain.getD (ownView s.w s.turn s.w.mem)) } }

/-- How an indivisible access touches the caches. -/
def Touch.rmw : Touch := { Touch.store with atomic := true }

/-- Must an indivisible word that reaches the parts `gs` wait for a store at the thread's store path (R200, R202, R205)? -/
def rmwWaits (w : World) (t : Nat) (sp : Space) (rel : Bool) (gs : List Seg) : Bool :=
  gs.any fun g => segWaits w t sp Touch.rmw rel g []

/-- The machine in which the indivisible word that reaches `gs` acts: the stores that it must wait for have their answers.
DEDUCED: log 27. -/
def rmwReady (w : World) (t : Nat) (sp : Space) (rel : Bool) (gs : List Seg) : World :=
  if rmwWaits w t sp rel gs then (List.range (2 * (w.thread t).path.length)).foldl (fun w _ => settlePath w t) w else w

/-- One indivisible read-modify-write of `n` bytes at `va` (R204): `f` gives the new value, or none to leave memory
unchanged, and `next` goes on with the old value. A release, or a word of a block with a fence, follows every store at the store path
(R202, R209); while a store that it must follow is not performed, the block stops at it (R205). -/
def rmw (s : State) (n : Nat) (va : Word) (rel : Bool) (f : Nat → Option Nat) (next : State → Nat → State) : Res :=
  match checkAccess s.w s.core (wordSpace s) .atomic .atomic va.toNat n with
  | (_, .error t) => .trap t.code t.val
  | (w, .ok gs) =>
    let rel := rel || blockFenced s
    let w' := rmwReady w s.turn (wordSpace s) rel gs
    if rmwWaits w' s.turn (wordSpace s) rel gs then .wait .path
    else
      let old := leNat (loadSegs w' w'.mem gs)
      let s := keepPlain { s with w := touchSegs w' s.turn { Touch.load with atomic := true } gs }
      match f old with
      | none => .ok (next s old)
      | some v => .ok (next { s with w := storeSegs s.w s.turn (wordSpace s) Touch.rmw rel gs (leBytes n v) } old)

/-- An atomic of `n` bytes: gD receives the old value, sign-extended from 4 bytes (R204). -/
def atomic (n : Nat) (f : Nat → Nat → Nat) (p : Pr) (d a b : Reg) (s : State) : Outcome :=
  word 1 p (useInd [a, b] [d]) (fun s =>
    let y := (s.readG b).toNat % 2 ^ (8 * n)
    rmw s n (s.readG a) false (fun old => some (f old y % 2 ^ (8 * n))) (fun s old => s.writeG d (sext (8 * n) old))) s

/-- A compare and swap: gD supplies the expected value and receives the old one (R204). -/
def casWord (n : Nat) (p : Pr) (d a b : Reg) (s : State) : Outcome :=
  word 1 p (useInd [d, a, b] [d]) (fun s =>
    let y := (s.readG b).toNat % 2 ^ (8 * n)
    let e := (s.readG d).toNat % 2 ^ (8 * n)
    rmw s n (s.readG a) false (fun old => if old = e then some y else none) (fun s old => s.writeG d (sext (8 * n) old))) s

def execAmoadd (p : Pr) (d a b : Reg) (s : State) : Outcome := atomic 8 (· + ·) p d a b s
def execAmoand (p : Pr) (d a b : Reg) (s : State) : Outcome := atomic 8 (· &&& ·) p d a b s
def execAmoor (p : Pr) (d a b : Reg) (s : State) : Outcome := atomic 8 (· ||| ·) p d a b s
def execAmoxor (p : Pr) (d a b : Reg) (s : State) : Outcome := atomic 8 (· ^^^ ·) p d a b s
def execAmomin (p : Pr) (d a b : Reg) (s : State) : Outcome :=
  atomic 8 (fun x y => if sgn 64 x ≤ sgn 64 y then x else y) p d a b s
def execAmomax (p : Pr) (d a b : Reg) (s : State) : Outcome :=
  atomic 8 (fun x y => if sgn 64 x ≤ sgn 64 y then y else x) p d a b s
def execAmominn (p : Pr) (d a b : Reg) (s : State) : Outcome := atomic 8 min p d a b s
def execAmomaxn (p : Pr) (d a b : Reg) (s : State) : Outcome := atomic 8 max p d a b s
def execAmoswap (p : Pr) (d a b : Reg) (s : State) : Outcome := atomic 8 (fun _ y => y) p d a b s
def execAmocas (p : Pr) (d a b : Reg) (s : State) : Outcome := casWord 8 p d a b s
def execAmoaddW (p : Pr) (d a b : Reg) (s : State) : Outcome := atomic 4 (· + ·) p d a b s
def execAmoswapW (p : Pr) (d a b : Reg) (s : State) : Outcome := atomic 4 (fun _ y => y) p d a b s
def execAmocasW (p : Pr) (d a b : Reg) (s : State) : Outcome := casWord 4 p d a b s

/-- The barrier word after an arrival, or none when it is malformed or full (R208, R209). -/
def barrierArrive (x : Nat) : Option Nat :=
  let exp := bits x 15 0
  let arr := bits x 31 16
  let ph := bits x 32 32
  if exp = 0 ∨ bits x 63 33 ≠ 0 ∨ exp ≤ arr then none
  else if arr + 1 = exp then some ((1 - ph) * 2 ^ 32 + exp)
  else some (ph * 2 ^ 32 + (arr + 1) * 2 ^ 16 + exp)

/-- barrive, a release: the phase the arrival counts toward, or all ones (R209). -/
def execBarrive (p : Pr) (d a : Reg) (s : State) : Outcome :=
  word 1 p (useInd [a] [d]) (fun s =>
    rmw s 8 (s.readG a) true barrierArrive fun s old =>
      s.writeG d (if (barrierArrive old).isSome then BitVec.ofNat 64 (bits old 32 32) else BitVec.allOnes 64)) s

/-! ### Range units -/

def World.range (w : World) (k : Nat) : RangeUnit := tabGet RangeUnit.reset k w.ranges

/-- The unit a 32-byte descriptor loads, or none when it is invalid (R149). -/
def rangeOf (x : Nat) : Option RangeUnit :=
  let minc := bits x (8 * 0x10 + 31) (8 * 0x10)
  let work := bits x (8 * 0x14 + 31) (8 * 0x14 + 16)
  let fact := bits x (8 * 0x14 + 3) (8 * 0x14)
  if minc = 0 ∨ work = 0 ∨ fact = 0 ∨ 8 < fact ∨ bits x (8 * 0x14 + 15) (8 * 0x14 + 4) ≠ 0 ∨ bits x 255 (8 * 0x18) ≠ 0 then none
  else some { loaded := true, nxt := BitVec.ofNat 64 (bits x 63 0), remain := bits x 127 64, minc := minc, work := work, fact := fact }

/-- rinit: the descriptor is read as a load; the outcome in gD (R211). -/
def execRinit (p : Pr) (d a b : Reg) (s : State) : Outcome :=
  word 1 p (useInd [a, b] [d]) (fun s =>
    match loadNum s .load .plain Touch.load (s.readG b) 32 with
    | (_, .error t) => .trap t.code t.val
    | (s, .ok x) =>
      let u := (s.readG a).toNat
      if 255 < u then .ok (s.writeG d 2)
      else match rangeOf x with
        | none => .ok (s.writeG d 1)
        | some r =>
          let s := keepPlain s
          .ok ({ s with w := { s.w with ranges := tabSet (256 * s.die + u) r s.w.ranges } }.writeG d 0)) s

/-- The chunk one request takes (R150). -/
def chunkOf (r : RangeUnit) : Nat :=
  min (min (max r.minc (ceilDiv r.remain (r.work * r.fact))) r.remain) (2 ^ 32 - 1)

/-- rget, which reaches no memory and is behind no fence: the start to gD and the count to gB (R150, R211). Where both are one register, the spec does not say which of the two it
holds: a free value. DESIGN CHOICE: log 3. -/
def execRget (p : Pr) (d a b : Reg) (s : State) : Outcome :=
  word 1 p (quiet (useInd [a] [d, b])) (fun s =>
    let u := (s.readG a).toNat
    let k := 256 * s.die + u
    let r := s.w.range k
    if 255 < u ∨ r.loaded = false then .ok ((s.writeG d 0).writeG b 0)
    else
      let n := chunkOf r
      let r' := { r with nxt := r.nxt + BitVec.ofNat 64 n, remain := r.remain - n }
      let s := { s with w := { s.w with ranges := tabSet k r' s.w.ranges } }
      if d = b then .ok ({ s with w := { s.w with fresh := s.w.fresh + 1 } }.writeG d (Config.freeWord s.w.fresh))
      else .ok ((s.writeG d r.nxt).writeG b (BitVec.ofNat 64 n))) s

end Sys2Proof.Machine
end

