-- ==== Sys2Proof/Machine/Block.lean ====
section
/-! DEFINITION. The traps of a block that is not begun, and the event taken between two blocks (R131, R167, R177, R259). -/

namespace Sys2Proof.Machine

/-- A thread reaches a block that is illegal, or whose fetch faults: the trap of R167, and no word takes effect. -/
def execIllegalBlock (t : Nat) (s : State) : Outcome :=
  match s.txn with
  | some _ => .next s
  | none =>
    if (s.w.thread t).phase != .running || ((s.w.thread t).dheld && !(s.w.thread t).dstep) then .next s
    else match fetchBlock s.w t with
      | (w, .error f) => .next (trapUnbegun s w t f)
      | (_, .ok _) => .next s

/-- The thread whose block is open reaches a word of it that is not an instruction: the trap of R177. -/
def execIllegalInstruction (t : Nat) (s : State) : Outcome :=
  match s.txn with
  | none => .next s
  | some x =>
    if t != s.turn then .next s
    else match x.instr with
      | .error _ => .next (trapWord s 0x02 (x.word.setWidth 64))
      | .ok _ => .next s

/-- A pending event that `EVM` does not hold back is taken between blocks, oldest first; a block that waits is
abandoned, and tepc names it (R131, R213, R259). -/
def execEventEntry (t : Nat) (s : State) : Outcome :=
  match s.txn with
  | some _ => .next s
  | none =>
    let th := s.w.thread t
    match th.events with
    | e :: rest =>
      if th.evm || !(th.phase == .running || th.phase == .waiting) || th.dheld then .next s
      else .next { s with w := trapInto (s.w.setThread t { th with events := rest }) t e.code e.val th.pc 0 }
    | [] => .next s

end Sys2Proof.Machine
end

