-- ==== Sys2Proof/Machine/Branch.lean ====
section
/-! DEFINITION. The exits that choose the next block (R168, R171, R216). -/

namespace Sys2Proof.Machine

/-- The target of a line offset (R171). -/
def lineTarget (x : Txn) (off : Word) : Word := x.base + 128 * off

/-- An exit whose next block is `f` of the block in hand and the state. -/
def exitWord (p : Pr) (u : Use) (f : Txn → State → Res) (s : State) : Outcome :=
  word 1 p u (fun s => match s.txn with
    | none => .ok s
    | some x => f x s) s

/-- Leave for a target formed from a register: bits 6..0 must be clear (R216). -/
def leaveTo (s : State) (target : Word) (before : State → State) : Res :=
  if target &&& 0x7F = 0 then .left (commit (before s) target) else .trap 0x08 target

def execBr (p : Pr) (off : BitVec 22) (s : State) : Outcome :=
  exitWord p (use .exit [] []) (fun x s => .left (commit s (lineTarget x (off.signExtend 64)))) s

/-- call writes the link to g1. -/
def execCall (p : Pr) (off : BitVec 22) (s : State) : Outcome :=
  exitWord p (use .exit [] [1])
    (fun x s => .left (commit (s.writeG 1 (fallThrough x)) (lineTarget x (off.signExtend 64)))) s

def execJmp (p : Pr) (d : Reg) (s : State) : Outcome :=
  exitWord p (quiet (use .other [d] [])) (fun _ s => leaveTo s (s.readG d) id) s

/-- callx reads gD before it writes g1. -/
def execCallx (p : Pr) (d : Reg) (s : State) : Outcome :=
  exitWord p (quiet (use .other [d] [1])) (fun x s => leaveTo s (s.readG d) (·.writeG 1 (fallThrough x))) s

def execRet (p : Pr) (s : State) : Outcome :=
  exitWord p (quiet (use .other [1] [])) (fun _ s => leaveTo s (s.readG 1) id) s

/-- tbr: the table at gD must be aligned; then gA picks the block. -/
def execTbr (p : Pr) (d a : Reg) (s : State) : Outcome :=
  exitWord p (quiet (use .other [d, a] [])) (fun _ s => leaveTo s (s.readG d + 128 * s.readG a) id) s

/-- bdec: gD counts down; the target while it is nonzero, else the fall-through. -/
def execBdec (p : Pr) (d : Reg) (off : BitVec 16) (s : State) : Outcome :=
  exitWord p (use .exit [d] [d]) (fun x s =>
    let v := s.readG d - 1
    .left (commit (s.writeG d v) (if v ≠ 0 then lineTarget x (off.signExtend 64) else fallThrough x))) s

end Sys2Proof.Machine
end

