-- ==== Sys2Proof/Machine/Context.lean ====
section
/-! DEFINITION. The context save area: how a region and a thread are written to it and read back (R229, R272 to R279). -/

namespace Sys2Proof.Machine

def World.tile (w : World) (k : Nat) : Tile := tabGet Tile.reset k w.tiles
def World.channel (w : World) (k : Nat) : Channel := tabGet Channel.reset k w.channels
def World.slotOp (w : World) (k : Nat) : Slot := tabGet Slot.reset k w.slotsOp
def World.matrix (w : World) (c : Nat) : Matrix := tabGet Matrix.reset c w.matrices

/-! ### The stream word (R233) -/

/-- The accesses of stream `k` that are stalled, or withdrawn from their unit (R276, R358). -/
def stalledOf (w : World) (k : Nat) : Nat :=
  w.elems.foldl (fun n (e, x) =>
    n + (x.acc.filter fun a => (a.phase == .stalled || a.phase == .atUnit) && streamKey w e a.h == k && eCore e == k / 64).length) 0

/-- Is an access of stream `k` stalled under a fault record? -/
def streamStalled (w : World) (k : Nat) : Bool :=
  w.elems.any fun (e, x) => x.acc.any fun a => a.phase == .stalled && streamKey w e a.h == k && eCore e == k / 64

/-- The word that `sstat` returns for stream `k` (R233). -/
def streamWord (w : World) (k : Nat) : Nat :=
  let st := w.stream k
  let b (x : Bool) (i : Nat) : Nat := if x then 2 ^ i else 0
  (w.region (4 * (k / 64) + k % 64 / 16)).nfl.toNat * 2 ^ 40 + b st.port 36 + b st.bound 35 + b (streamStalled w k) 34
    + b st.shrt 33 + b st.ovr 32 + st.cnt

/-! ### Freezing -/

/-- A region freezes: its chain accesses not yet performed are withdrawn from their units, and from the way there, and count as
stalled (R270, R358). -/
def freezeRegion (w : World) (r : Nat) : World :=
  let w := withdrawEntries w r
  let w := (regionElems w r).foldl (fun w e =>
    let x := w.elem e
    if x.acc.any fun a => a.op.isChain && a.phase == .issued then
      w.setElem e { x with acc := x.acc.map fun a => if a.op.isChain && a.phase == .issued then { a with phase := .atUnit } else a }
    else w) w
  w.setRegion r { w.region r with frozen := true, draining := false }

/-- Is every access of a region performed, stalled or withdrawn (R229, R272)? -/
def accessesSettled (w : World) (r : Nat) : Bool :=
  (regionElems w r).all fun e => (w.elem e).acc.all fun a => a.phase != .issued

/-! ### Images (R273 to R277) -/

/-- `n` zero bytes. -/
def zeros (n : Nat) : List Byte := List.replicate n 0

/-- The bits of a list, first in bit 0. -/
def packBits (bs : List Bool) : Nat := (bs.zipIdx.map fun (b, i) => if b then 2 ^ i else 0).foldl (· + ·) 0

/-- The words of a list, `n` bytes each. -/
def wordBytes (n : Nat) (xs : List Nat) : List Byte := xs.flatMap fun x => leBytes n x

/-- The tokens of an element in the order of the save area (R277). -/
def savedTokens (x : Elem) : List Token :=
  let x := x.arrive
  (List.range 16).flatMap (fun i => tabGet [] i x.parts)
    ++ ([0, 1, 2, 3].filterMap fun d => (x.xb.find? (·.1 == d)).map (·.2)) ++ x.out.map (·.tok)

/-- The ordinal of the next element that handler `h`'s stream emits: that of its first access whose result has not
left, or the next one it issues (R277). -/
def nextEmitted (x : Elem) (h : Nat) : Nat :=
  match x.acc.find? (fun a => a.h == h && a.op != .none) with
  | some a => a.ord
  | none => x.at_ h

/-- An element's record, its first token at index `toff` (R277). DESIGN CHOICE: log 51. -/
def elemImage (x : Elem) (toff : Nat) : List Byte :=
  let x := x.arrive
  let ts := savedTokens x
  let flags := (x.stopped % 16) * 2 ^ 21 + (if x.heldSwt then 2 ^ 20 else 0) + packBits (x.cq.map (·.b)) % 256 * 2 ^ 12
    + x.cq.length % 16 * 2 ^ 8 + x.ctx % 4 * 2 ^ 6 + packBits ([0, 1, 2, 3].map fun d => tabHas d x.xb) * 4 + min x.out.length 3
  wordBytes 4 ((List.range 16).map fun i => (tabGet 0 i x.k).toNat)
    ++ wordBytes 4 ((List.range 16).map fun i => (tabGet latchReset i x.latch).toNat)
    ++ wordBytes 4 ((List.range 4).map fun i => (tabGet 0 i x.bank).toNat)
    ++ wordBytes 8 [x.flipCycle, x.flipId]
    ++ leBytes 8 ((List.range 16).foldl (fun n i => n + (tabGet [] i x.parts).length % 16 * 2 ^ (4 * i)) 0)
    ++ wordBytes 4 [flags, ts.length, toff, 0]
    ++ wordBytes 8 ([0, 1, 2, 3].map (nextEmitted x)) ++ zeros 40

/-- A plane image: 64 fields of 14 bits, then 16 zero bytes (R273). -/
def planeImage (pl : Tab Nat) : List Byte :=
  leBytes 112 ((List.range 64).foldl (fun n f => n + field pl f * 2 ^ (14 * f)) 0) ++ zeros 16

/-- Up to 16 tokens, 8 bytes each. DESIGN CHOICE: log 51. -/
def tokenImage (ts : List Token) : List Byte := wordBytes 8 (ts.map Token.pack) ++ zeros (8 * (16 - ts.length))

/-- A stream's 384 bytes (R276). -/
def streamImage (w : World) (k : Nat) : List Byte :=
  let st := w.stream k
  (if st.bound && !st.port then leBytes 64 st.blk.toNat else zeros 64) ++ wordBytes 8 [streamWord w k, stalledOf w k]
    ++ wordBytes 1 [st.inq.length, st.outq.length] ++ zeros 46 ++ tokenImage st.inq ++ tokenImage st.outq

/-- The thread area (R275). -/
def threadImage (th : Thread) : List Byte :=
  let es := th.events.take 16
  wordBytes 8 ((List.range 64).map fun n => if n = 0 then 0 else (tabGet 0 n th.g).toNat)
    ++ wordBytes 8 ([(th.p ||| 1).setWidth 64, th.pc, th.tstat, th.tcause, th.tepc, th.tidx, th.tval, th.thand, th.tscratch, th.frm,
        th.fflags, th.blkret, th.asid, th.ptbase, th.fltrec, th.fltcnt].map BitVec.toNat)
    ++ wordBytes 8 [if th.flag then 1 else 0, es.length]
    ++ (es.flatMap fun e => wordBytes 8 [e.code, e.val.toNat]) ++ zeros (16 * (16 - es.length)) ++ zeros 112

/-- The 16,448 bytes of an accumulator tile (R277). -/
def tileImage (x : Tile) (flag : Bool) : List Byte :=
  wordBytes 8 [wrap 10 x.anchor, if flag then 1 else 0] ++ zeros 48
    ++ (List.range 1024).flatMap fun i => leBytes 16 (wrap 128 (tabGet 0 i x.cells))

/-- What a save writes about the task and the thread (R274). -/
structure SaveInfo where
  tag : Nat
  thr : Option Nat
  halted : Bool
  forced : Bool
  armed : Option (Nat × Nat)
  overrun : Nat
  tiles : Bool
  deriving DecidableEq, Repr

/-- The load that a save leaves to be begun anew, with the commands behind it: the one under way, or one that has been committed and not
yet begun, at the head of the commands `cq` that go with the context (R78, R85, R274). -/
def pendingLoad (g : Region) (cq : List (CfgCmd × Space)) : Option Load × List (CfgCmd × Space) :=
  match g.load, cq with
  | none, (.load va disp, sp) :: rest =>
    (some { va := va, sp := sp, thread := if disp then none else g.owner, hdr := 0, cmds := [], stalled := false, met := false
            lastAt := none }, rest)
  | l, cq => (l, cq)

/-- The number of elements of a region. -/
def elemCount (g : Region) : Nat := 256 * g.shape.1 * g.shape.2

/-- How many tokens the elements of a region hold. -/
def tokenCount (w : World) (r : Nat) : Nat := (regionElems w r).foldl (fun n e => n + (savedTokens (w.elem e)).length) 0

/-- The offset of the tile section (R274). -/
def tileOffset (n ntok : Nat) : Nat := roundUp (0x2000 + 384 * n + 8 * ntok) 64

/-- Has a switch been committed for the pending load: armed, or in the queue before another load (R81, R274)? -/
def switchCommitted (g : Region) (cq : List (CfgCmd × Space)) : Bool :=
  g.armedSwitch || ((pendingLoad g cq).2.takeWhile fun c => match c.1 with
    | .load .. => false
    | _ => true).any fun c => c.1 == .switch

/-- The header up to `STAT` (R274). -/
def headerImage (w : World) (r : Nat) (i : SaveInfo) (cq : List (CfgCmd × Space)) : List Byte :=
  let g := w.region r
  let load := (pendingLoad g cq).1
  let (shh, shw) := g.shape
  let b (x : Bool) (n : Nat) : Nat := if x then 2 ^ n else 0
  let ntok := tokenCount w r
  let flags := b i.tiles 8 + b i.halted 7 + b (switchCommitted g cq && load.isSome) 6 + b i.forced 5
    + b load.isSome 4 + b g.running 3 + b i.armed.isSome 2 + b i.thr.isSome 1
  let epoch := if g.cutting then (g.epoch + 2 ^ 16 - 1) % 2 ^ 16 else g.epoch
  wordBytes 4 [0xCA010000 + shh * 16 + shw, flags, i.tag, g.nfl.toNat * 2 ^ 16 + epoch]
    ++ wordBytes 8 [(load.map (·.va)).getD 0, (i.armed.map (·.1)).getD 0, (i.armed.map (·.2)).getD 0, i.overrun, ntok,
        if i.tiles then tileOffset (elemCount g) ntok else 0]

/-- Element records of a region, with the running index of tokens. -/
def elemImages (w : World) (toff : Nat) : List Nat → List Byte
  | [] => []
  | e :: es => elemImage (w.elem e) toff ++ elemImages w (toff + (savedTokens (w.elem e)).length) es

/-- The pieces of a save area, by offset, but for `STAT` (R273, R278). -/
def areaPieces (w : World) (r : Nat) (i : SaveInfo) (cq : List (CfgCmd × Space)) : List (Nat × List Byte) :=
  let es := regionElems w r
  let n := elemCount (w.region r)
  let ks := (List.range 16).map fun s => 64 * (r / 4) + 16 * (r % 4) + s
  let ts := es.flatMap fun e => savedTokens (w.elem e)
  let thr := match i.thr with
    | some t => threadImage (w.thread t)
    | none => zeros 1024
  [(0, headerImage w r i cq), (0x48, zeros 184), (0x100, thr), (0x500, ks.flatMap (streamImage w)), (0x1D00, zeros 768),
   (0x2000, elemImages w 0 es), (0x2000 + 256 * n, es.flatMap fun e => planeImage (w.elem e).act),
   (0x2000 + 384 * n, wordBytes 8 (ts.map Token.pack))]
  ++ (if i.tiles then
        [(tileOffset n ts.length, [0, 1, 2, 3].flatMap fun a =>
            tileImage (w.tile (4 * (r / 4) + a)) ((w.core (r / 4)).mstat.getLsbD a))]
      else [])

/-- Store pieces at an area, or the first fault; answers the parts that poison discarded. -/
def storePieces (w : World) (who : Reach) (task : Option Nat) (sp : Space) (va : Nat) :
    List (Nat × List Byte) → World × Except MemFault (List Seg)
  | [] => (w, .ok [])
  | (o, bs) :: rest =>
    match nodeStore w who task sp Touch.store (va + o) bs with
    | (w, .error f) => (w, .error f)
    | (w, .ok lost) =>
      match storePieces w who task sp va rest with
      | (w, .ok more) => (w, .ok (lost ++ more))
      | (w, .error f) => (w, .error f)

/-- The physical address under which the model keeps what an area has no place for. -/
def sideKey (w : World) (who : Reach) (sp : Space) (va : Nat) : Nat :=
  match locate w who sp .load va with
  | (_, .ok (pa, _)) => homeOf w pa
  | (_, .error _) => 2 ^ 64 + va

/-- Write a region's context to an area and release its `STAT` as 1 (R278). Of the commands still to be served, `cq` are those that
go with the context; an armed switch comes before them. DEDUCED: log 52. -/
def writeArea (w : World) (r : Nat) (who : Reach) (task : Option Nat) (sp : Space) (va : Nat) (i : SaveInfo)
    (cq : List (CfgCmd × Space)) (resident : Option Nat) : World × Except MemFault Unit :=
  let g := w.region r
  let (load, behind) := pendingLoad g cq
  let side : Side := { load := load
                       elems := (regionElems w r).map w.elem
                       streams := (List.range 16).map fun s => w.stream (64 * (r / 4) + 16 * (r % 4) + s)
                       cq := (if g.armedSwitch then [(CfgCmd.switch, g.space)] else []) ++ behind, thread := i.thr.map w.thread
                       scq := if resident.isSome then (w.streamQueue (r / 4)).filter fun c => c.region == some r else []
                       starting := g.starting, resident := resident, own := g.armed.isSome, changed := g.actChanged }
  match storePieces w who task sp va (areaPieces w r i cq ++ [(0x40, leBytes 8 1)]) with
  | (w, .error f) => (w, .error f)
  | (w, .ok lost) =>
    let w := noteLostIn w r 3 0 0 0xFF 6 sp lost
    ({ w with sides := tabSet (sideKey w who sp va) side w.sides }, .ok ())

/-! ### Reading back (R279) -/

/-- The number at offset `o` of a byte list. -/
def at_ (bs : List Byte) (o n : Nat) : Nat := leNat ((bs.drop o).take n)

/-- A plane from its image. -/
def planeOf (bs : List Byte) : Tab Nat :=
  let x := leNat (bs.take 112)
  (List.range 64).foldl (fun pl f => setField pl f (bits x (14 * f + 13) (14 * f))) []

/-- A table of words from their bytes, but for those at their default. -/
def wordsOf (n : Nat) (bs : List Byte) (default : W32) : Tab W32 :=
  ((List.range n).map fun i => (i, BitVec.ofNat 32 (at_ bs (4 * i) 4))).filter fun kv => kv.2 != default

/-- Take the tokens of an element's partitions off a list, partition by partition. -/
def takeParts (occ : Nat) : Nat → List Token → Tab (List Token) × List Token
  | 0, ts => ([], ts)
  | n + 1, ts =>
    let i := 15 - n
    let c := bits occ (4 * i + 3) (4 * i)
    let (rest, left) := takeParts occ n (ts.drop c)
    (if c = 0 then rest else (i, ts.take c) :: rest, left)

/-- The crossbar holds of a mask, off a list of tokens. -/
def takeHolds (m : Nat) : List Nat → List Token → Tab Token × List Token
  | [], ts => ([], ts)
  | d :: ds, ts =>
    if bit m d then
      match ts with
      | [] => ([], [])
      | t :: rest => let (h, left) := takeHolds m ds rest; ((d, t) :: h, left)
    else takeHolds m ds ts

/-- An element's state from its record, its tokens and its plane; `old` is what the model kept beside the area (R277). -/
def elemOf (bs : List Byte) (ts : List Token) (pl : Tab Nat) (old : Elem) (now : Nat) : Elem :=
  let flags := at_ bs 0xA8 4
  let (parts, ts) := takeParts (at_ bs 0xA0 8) 16 ts
  let (xb, ts) := takeHolds (bits flags 5 2) [0, 1, 2, 3] ts
  let flipId := at_ bs 0x98 8
  let spos := ((List.range 4).map fun h =>
      let n := at_ bs (0xB8 + 8 * h) 8
      (h, if n = nextEmitted old h then old.at_ h else n)).filter fun kv => kv.2 != 0
  let bankOf (i : Nat) : Option (Nat × W32) :=
    let v := BitVec.ofNat 32 (at_ bs (0x80 + 4 * i) 4)
    if v != 0 || tabHas i old.bank then some (i, v) else none
  { old with
    act := pl, shd := [], actCid := if planeConfigured pl then flipId else 0, shdCid := 0
    flipCycle := at_ bs 0x90 8, flipId := flipId
    k := wordsOf 16 bs 0, latch := wordsOf 16 (bs.drop 0x40) latchReset, ctx := bits flags 7 6, bank := [0, 1, 2, 3].filterMap bankOf
    parts := parts, arriving := [], freed := 0, xb := xb
    out := ts.zipIdx.map fun (t, i) =>
      { tok := t, lanes := ((old.out[i]?).map (·.lanes)).getD (bits (field pl 1) 7 0), ready := now }
    cq := (List.range (bits flags 11 8)).map fun i => { b := bit flags (12 + i), epoch := 0 }
    ctlIn := []
    known := old.known || planeConfigured pl, flipped := false, heldSwt := bit flags 20, stopped := bits flags 24 21, gated := false, busyAt := now
    snap := none, cut := none, early := none, spos := spos, log := [], replay := []
    acc := old.acc.map fun a => if a.phase == .atUnit then { a with phase := .issued } else a }

/-- The elements of a region from an area's bytes; those whose plane breaks a check of R79 take an element fault. -/
def restoreElems (w : World) (r : Nat) (area : List Byte) (old : List Elem) (n : Nat) : List Nat → Nat → World
  | [], _ => w
  | e :: es, i =>
    let bs := (area.drop (0x2000 + 256 * i)).take 256
    let pl := planeOf (area.drop (0x2000 + 256 * n + 128 * i))
    let ts := (List.range (at_ bs 0xAC 4)).map fun j =>
      Token.unpack (at_ area (0x2000 + 384 * n + 8 * (at_ bs 0xB0 4 + j)) 8)
    let w := w.setElem e (elemOf bs ts pl ((old[i]?).getD Elem.reset) w.cycle)
    let bad := (List.range 64).any (fun f => valueBad f (field pl f)) || planeCause pl (isEdge e) (leaves w r e) != 0
    let w := if bad then elemFault w e 0x08 else w
    restoreElems w r area old n es (i + 1)

/-- A stream from its 384 bytes (R276). -/
def streamOf (bs : List Byte) (old : Stream) : Stream :=
  let v := at_ bs 64 8
  let toks (o n : Nat) : List Token := (List.range (min n 16)).map fun i => Token.unpack (at_ bs (o + 8 * i) 8)
  { bound := bit v 35, port := bit v 36, blk := BitVec.ofNat 512 (at_ bs 0 64), next := old.next, ovr := bit v 32
    shrt := bit v 33, cnt := bits v 31 0, begun := old.begun, inq := toks 128 (at_ bs 80 1), outq := toks 256 (at_ bs 81 1) }

/-- A handler's address without the bits that a block's address lacks (R6, R215). -/
def handlerAddr (v : Word) : Word := v &&& ~~~0x7F

/-- A thread from the thread area, each CSR in the bits that it has; `old` is what the model kept beside it (R6, R215, R275). -/
def threadOf (bs : List Byte) (old : Thread) (halted : Bool) (task : Option Nat) : Thread :=
  let q (o : Nat) : Word := BitVec.ofNat 64 (at_ bs o 8)
  let frm := q 0x248 &&& 0x1F03
  { old with
    g := ((List.range 64).map fun n => (n, q (8 * n))).filter fun kv => kv.1 != 0 && kv.2 != 0
    p := BitVec.ofNat 8 (at_ bs 0x200 1) &&& 0xFE, pc := handlerAddr (q 0x208), tstat := q 0x210 &&& 0xF, tcause := q 0x218 &&& 0xFF
    tepc := handlerAddr (q 0x220), tidx := q 0x228 &&& 0x7F, tval := q 0x230, thand := handlerAddr (q 0x238), tscratch := q 0x240
    frm := if bits frm.toNat 10 8 = 0 then (Thread.reset.frm &&& ~~~3) ||| (frm &&& 3) else frm
    fflags := q 0x250 &&& 0x1F, blkret := q 0x258, asid := q 0x260 &&& 0xFFFF, ptbase := q 0x268 &&& 0x000FFFFFFFFE0000
    fltrec := q 0x270 &&& ~~~0xFFF, fltcnt := q 0x278 &&& 0x1FFFFFFFF, flag := bit (at_ bs 0x280 8) 0
    events := (List.range (min (at_ bs 0x288 8) 16)).map fun i => { code := at_ bs (0x290 + 16 * i) 8 % 256, val := q (0x298 + 16 * i) }
    phase := if halted then .halted else .running, wait := none, yielded := false, task := task, dheld := false, dstep := false, since := none
    wakes := 0 }

/-- An accumulator tile from its bytes. -/
def tileOf (bs : List Byte) : Tile :=
  { anchor := sgn 10 (at_ bs 0 8)
    cells := ((List.range 1024).map fun i => (i, sgn 128 (at_ bs (64 + 16 * i) 16))).filter fun kv => kv.2 != 0 }

/-- An area as it was read: its bytes, with the tile section apart. -/
structure Area where
  body : List Byte
  tiles : List Byte
  deriving DecidableEq, Repr

/-- Is an area's header right for a region: `SIG`, `VER`, the shape and `STAT` = 1 (R279)? DEDUCED: log 53. -/
def areaGood (g : Region) (a : Area) : Bool :=
  let h := at_ a.body 0 4
  bits h 31 16 == 0xCA01 && bits h 7 4 == g.shape.1 && bits h 3 0 == g.shape.2 && at_ a.body 0x40 8 == 1

/-- Read an area for a region: its header, and the rest when the header is right (R279). -/
def readArea (w : World) (who : Reach) (task : Option Nat) (sp : Space) (va : Nat) (g : Region) : World × Except MemFault Area :=
  match nodeLoad w who task sp Touch.load va 256 with
  | (w, .error f) => (w, .error f)
  | (w, .ok h) =>
    let n := elemCount g
    if !areaGood g { body := h, tiles := [] } then (w, .ok { body := h, tiles := [] })
    else match nodeLoad w who task sp Touch.load va (0x2000 + 384 * n + 8 * at_ h 0x30 8) with
    | (w, .error f) => (w, .error f)
    | (w, .ok body) =>
      if bit (at_ h 4 4) 8 then
        match nodeLoad w who task sp Touch.load (va + at_ h 0x38 8) 65792 with
        | (w, .error f) => (w, .error f)
        | (w, .ok ts) => (w, .ok { body := body, tiles := ts })
      else (w, .ok { body := body, tiles := [] })

/-- A queue without the switches that come before its next load. -/
def dropSwitches : List (CfgCmd × Space) → List (CfgCmd × Space)
  | [] => []
  | (.switch, _) :: rest => dropSwitches rest
  | (.load va d, k) :: rest => (.load va d, k) :: rest
  | x :: rest => x :: dropSwitches rest

/-- The commands kept beside an area, with a committed switch for the pending load exactly where the area's `SWA` says so (R274, R279). -/
def switchesOf (side : Side) (pending swa : Bool) (sp : Space) : List (CfgCmd × Space) :=
  let ahead := side.cq.takeWhile fun c => match c.1 with
    | .load .. => false
    | _ => true
  if pending && swa then (if ahead.any fun c => c.1 == .switch then side.cq else (CfgCmd.switch, sp) :: side.cq)
  else if pending || side.load.isSome then dropSwitches side.cq
  else side.cq

/-- Steps 2 to 6 of R279 on region `r`, but for the thread and `STAT`. A region whose start waited for a switch waits for it again; of an
area that another hand has written, one without a configured element does. DEDUCED: log 41. -/
def restoreRegion (w : World) (r : Nat) (a : Area) (side : Side) (sp : Space) (disp : Bool) : World :=
  let loadSp := (side.load.map (·.sp)).getD sp
  let c := r / 4
  let n := elemCount (w.region r)
  let flags := at_ a.body 4 4
  let w := w.setRegion r { w.region r with fault := none }
  let w := restoreElems w r a.body side.elems n (regionElems w r) 0
  let w := (List.range 16).foldl (fun w s =>
    w.setStream (64 * c + 16 * (r % 4) + s) (streamOf ((a.body.drop (0x500 + 384 * s)).take 384) ((side.streams[s]?).getD Stream.reset))) w
  let w := if bit flags 8 then
      [0, 1, 2, 3].foldl (fun w t =>
        let bs := (a.tiles.drop (16448 * t)).take 16448
        let w := { w with tiles := tabSet (4 * c + t) (tileOf bs) w.tiles }
        let m := (w.core c).mstat
        w.setCore c { w.core c with mstat := if bit (at_ bs 8 8) 0 then m ||| (1#64 <<< t) else m &&& ~~~(1#64 <<< t) }) w
    else w
  let foreign := side.elems.isEmpty
  let cq := (if bit flags 4 then [(CfgCmd.load (at_ a.body 0x10 8) disp, loadSp)] else [])
    ++ switchesOf side (bit flags 4) (bit flags 6) sp
  let unplanned := (regionElems w r).all fun e => !planeConfigured (w.elem e).act
  let w := w.setRegion r { w.region r with
    running := bit flags 3, starting := bit flags 3 && (side.starting || (foreign && unplanned)), frozen := false, draining := false
    armed := if bit flags 2 then some (at_ a.body 0x18 8, at_ a.body 0x20 8) else none
    complStalled := false, nfl := BitVec.ofNat 5 (bits (at_ a.body 0xC 4) 20 16), shadow := .none, load := none, actChanged := side.changed
    cq := cq ++ (w.region r).cq, movedAt := w.cycle, still := 0 }
  let w := w.setStreamQueue c (w.streamQueue c ++ side.scq.map (StreamCmd.onto r))
  let w := cutNow w r ((bits (at_ a.body 0xC 4) 15 0 + 1) % 2 ^ 16)
  let fires := (w.region r).running && !(w.region r).starting
  rebaseChains (if fires then (regionElems w r).foldl (fun w e => if planeBad (w.elem e).act then elemFault w e 0x08 else w) w else w) r

/-- What the model kept beside an area; nothing when the area was written by another hand, whose planes may be any.
DEDUCED: log 41. -/
def sideOf (w : World) (who : Reach) (sp : Space) (va : Nat) : Side :=
  tabGet { load := none, elems := [], streams := [], cq := [], scq := [], thread := none, starting := false, resident := none
           own := false, changed := true } (sideKey w who sp va) w.sides

/-- The commands and claims of thread `a` become those of thread `b` (R272, R279). DEDUCED: log 55. -/
def rename (w : World) (a b : Nat) : World :=
  let n (t : Nat) : Nat := if t = a then b else t
  { w with
    channels := tabMap (fun _ (x : Channel) => { x with
      queue := x.queue.map fun y => { y with thread := n y.thread }
      cur := x.cur.map fun y => { y with thread := n y.thread } }) w.channels
    matrices := tabMap (fun _ (x : Matrix) => { x with
      queue := x.queue.map fun y => { y with thread := n y.thread }
      cur := x.cur.map fun y => { y with thread := n y.thread } }) w.matrices
    sluices := tabMap (fun _ (x : Sluice) => { x with
      owner := x.owner.map n, queue := x.queue.map fun y => { y with thread := n y.thread }
      run := x.run.map fun (y, i) => ({ y with thread := n y.thread }, i)
      arms := tabMap (fun _ (k, y) => (k, { y with thread := n y.thread })) x.arms }) w.sluices
    slotsOp := tabMap (fun _ (x : Slot) => if x.phase = .claimed a then { x with phase := .claimed b }
      else if x.phase = .leaving a then { x with phase := .leaving b } else x) w.slotsOp
    sessions := tabMap (fun _ (x : Session) => { x with
      thread := n x.thread, chunks := x.chunks.map fun c => { c with thread := n c.thread }
      descs := x.descs.map fun (d, t, q) => (d, n t, q), after := (n x.after.1, x.after.2) }) w.sessions
    owed := w.owed.map fun o => { o with rcv := n o.rcv } }

end Sys2Proof.Machine
end

