-- ==== Sys2Proof/Machine/Launch.lean ====
section
/-! DEFINITION. Launch records: what the dispatcher of a die reads for one, and whether it accepts one from its source (R135 to R142). -/

namespace Sys2Proof.Machine

/-- The task table of a die. -/
def dieTasks (w : World) (d : Nat) : Tab Task := w.tasks.filter fun kv => taskDie kv.1 == d

/-- The nodes that a die tracks. -/
def dieNodes (w : World) (d : Nat) : Nat := (w.nodes.filter fun kv => kv.1 / 2 ^ 64 == d).length

/-! ### Reading a launch (R135 to R140) -/

def lTag (b : Block) : Nat := fld b 4 31 0
def lNdep (b : Block) : Nat := fld b 0 18 16
def lCaddr (b : Block) : Nat := fld8 b 0x18
def lDep (b : Block) (i : Nat) : Nat := fld8 b (0x20 + 8 * i)

/-- Does a dependence slot hold a reserved bit (R136)? -/
def depBad (x : Nat) : Bool := if bit x 63 then bits x 62 57 != 0 || bits x 2 0 != 0 else bits x 62 32 != 0

/-- A dependence slot. -/
def depOf (x : Nat) : Dep := if bit x 63 then .word (bits x 56 3 * 8) else .tag (bits x 31 0)

/-- Does a launch record break its layout (R135, R142)? DEDUCED: log 43, 46. -/
def launchBad (b : Block) : Bool :=
  fld b 0 31 24 != 0x7A || decide (4 < lNdep b) || fld b 0 15 0 != 0 || fld8 b 8 % 256 != 0 || fld8 b 0x10 % 256 != 0
    || lCaddr b % 8 != 0 || (List.range (lNdep b)).any fun i => depBad (lDep b i)

/-- Does a task record break its layout (R137, R142)? DEDUCED: log 43, 46. -/
def taskRecordBad (t : List Byte) : Bool :=
  at_ t 8 8 % 128 != 0 || at_ t 0x10 4 / 256 != 0 || at_ t 0x14 4 != 0 || bit (at_ t 0x18 8) 63
    || at_ t 0x20 32 != 0 || (List.range 16).any fun i => at_ t (0x80 + 8 * i) 8 % 64 != 0

/-- Is a region shape in range (R137)? -/
def shapeBad (t : List Byte) : Bool :=
  let h := bits (at_ t 0x10 4) 7 4
  let w := bits (at_ t 0x10 4) 3 0
  !decide (1 ≤ h ∧ h ≤ 3) || !decide (1 ≤ w ∧ w ≤ 4)

/-- Is a region control block valid (R139, R140)? -/
def rcbGood (b : List Byte) : Bool :=
  bits (at_ b 0 4) 31 24 == 0xB7 && !bit (at_ b 0 4) 11 && at_ b 8 8 % 256 == 0 && at_ b 0x32 2 == 0 && at_ b 0x34 4 == 0
    && at_ b 0x38 8 == bits (at_ b 0x38 8) 51 17 * 2 ^ 17 && at_ b 0x48 0xB8 == 0

/-- Read the path of region control blocks from `va` to its root: at most `n` more nodes, none seen before. Fails with
the code of R142. DEDUCED: log 44. -/
def readPath (w : World) (who : Reach) (sp : Space) : Nat → Nat → List Nat → World × Except Nat (List (Nat × List Byte))
  | 0, _, _ => (w, .error 3)
  | n + 1, va, seen =>
    if seen.contains va then (w, .error 3)
    else match nodeLoad w who none sp Touch.load va 256 with
      | (w, .error _) => (w, .error 4)
      | (w, .ok b) =>
        if !rcbGood b then (w, .error 3)
        else if at_ b 8 8 = 0 then (w, .ok [(va, b)])
        else match readPath w who sp n (at_ b 8 8) (va :: seen) with
          | (w, .ok rest) => (w, .ok ((va, b) :: rest))
          | (w, .error c) => (w, .error c)

/-- The value that a node of a path takes for a field: its own or the nearest ancestor's whose override bit `o` is set,
else the root's default (R139). -/
def inherit (path : List (Nat × List Byte)) (o : Nat) (f : List Byte → Nat) (default : Nat) : Nat :=
  match path.find? fun n => bit (at_ n.2 0 4) o with
  | some n => f n.2
  | none => default

/-- The four budgets of the first node of a path. -/
def budgetsOf (path : List (Nat × List Byte)) : List Nat :=
  [0, 1, 2, 3].map fun i => inherit path i (fun b => at_ b (0x10 + 4 * i) 4) 0xFFFFFFFF

/-- A die counts a task on each node of its path; a node tracked already keeps the budgets it was read with (R140). -/
def trackPath (w : World) (d : Nat) : List (Nat × List Byte) → World
  | [] => w
  | (va, b) :: rest =>
    let k := 2 ^ 64 * d + va
    let x := tabGet { Node.free with lim := budgetsOf ((va, b) :: rest) } k w.nodes
    trackPath { w with nodes := tabSet k { x with refs := x.refs + 1 } w.nodes } d rest

/-- Read the pattern blocks that are bound, stream by stream. -/
def readBinds (w : World) (who : Reach) (sp : Space) (t : List Byte) : Nat → World × Option (List (Nat × Block))
  | 0 => (w, some [])
  | n + 1 =>
    let i := 15 - n
    let va := at_ t (0x80 + 8 * i) 8
    if va = 0 then readBinds w who sp t n
    else match nodeLoad w who none sp Touch.load va 64 with
      | (w, .error _) => (w, none)
      | (w, .ok b) => match readBinds w who sp t n with
        | (w, some rest) => (w, some ((i, BitVec.ofNat 512 (leNat b)) :: rest))
        | (w, none) => (w, none)

/-- The fault domain that a path gives its first node (R139). -/
def domainOf (path : List (Nat × List Byte)) : Nat := inherit path 5 (fun r => bits (at_ r 0 4) 19 12) 0

/-- What the insertion of a record comes to: an entry with its path, or the code with which the record fails and its fault domain, as far
as its path gives one. A task with no slot to wait for is ready at once (R143). -/
def readLaunch (w : World) (d : Nat) (x : Inbound) : World × Except (Nat × Nat) (Task × List (Nat × List Byte)) :=
  let b := x.launch
  let who := Reach.dieAgent d
  if launchBad b then (w, .error (1, 0))
  else if lTag b = 0 ∨ tabHas (taskKey d (lTag b)) w.tasks then (w, .error (2, 0))
  else match nodeLoad w who none x.sp Touch.load (fld8 b 0x10) 256 with
    | (w, .error _) => (w, .error (4, 0))
    | (w, .ok t) =>
      if taskRecordBad t then (w, .error (1, 0))
      else if shapeBad t then
        match readPath w who x.sp 8 (fld8 b 8) [] with
        | (w, .error _) => (w, .error (5, 0))
        | (w, .ok path) => (w, .error (5, domainOf path))
      else match nodeLoad w who none x.sp Touch.load (at_ t 0 8) 32 with
        | (w, .error _) => (w, .error (4, 0))
        | (w, .ok h) =>
          match readBinds w who x.sp t 16 with
          | (w, none) => (w, .error (4, 0))
          | (w, some binds) =>
            match readPath w who x.sp 8 (fld8 b 8) [] with
            | (w, .error c) => (w, .error (c, 0))
            | (w, .ok path) =>
              let deps := (List.range (lNdep b)).map fun i => depOf (lDep b i)
              let deps := deps.filter fun p => match p with
                | .tag n => tabHas (taskKey d n) w.tasks
                | .word _ => true
              let prio := if bit (fld b 0 31 0) 19 then fld b 0 23 20 else inherit path 4 (fun r => bits (at_ r 0 4) 23 20) 0
              (w, .ok (
                { phase := if deps.isEmpty then .ready else .waiting, num := (w.die d).nextNum, deps := deps, src := x.sp
                  space := { asid := inherit path 8 (fun r => at_ r 0x30 2) 0, ptb := inherit path 8 (fun r => at_ r 0x38 8) 0, user := true }
                  caddr := lCaddr b, cval := at_ t 0x18 8, trec := fld8 b 0x10, cfg := at_ t 0 8, hdr := BitVec.ofNat 256 (leNat h)
                  entry := at_ t 8 8, shw := bits (at_ t 0x10 4) 3 0, shh := bits (at_ t 0x10 4) 7 4
                  args := (List.range 8).map fun i => BitVec.ofNat 64 (at_ t (0x40 + 8 * i) 8), binds := binds
                  prio := prio, readyAt := w.periods, unplaced := none
                  fdom := domainOf path, drain := inherit path 6 (fun r => at_ r 4 4) 0
                  csave := inherit path 7 (fun r => at_ r 0x20 8) 0, thand := inherit path 9 (fun r => at_ r 0x28 8) 0
                  fring := inherit path 10 (fun r => at_ r 0x40 8) 0 / 4096 * 4096, frecs := 0
                  path := path.map fun n => 2 ^ 64 * d + n.1, region := none, thread := none, sliceEnd := 0, overrun := 0
                  victim := none, stopped := false, forced := false, sameCore := none, fenceBy := none, dying := none }, path))

/-! ### Acceptance (R140, R142) -/

/-- The nodes of the path of a record, as the dispatcher would read them now. -/
def launchNodes (w : World) (d : Nat) (x : Inbound) : List Nat :=
  match readLaunch w d x with
  | (_, .ok (_, path)) => path.map fun n => 2 ^ 64 * d + n.1
  | (_, .error _) => []

/-- Does the dispatcher of a die accept a record: the table has an entry for it, and the die can track the nodes that it and the records
accepted before it need? Its source holds one that is not accepted (R140, R142). DEDUCED: log 44. -/
def accepts (w : World) (d : Nat) (x : Inbound) : Bool :=
  let fresh := (((w.die d).inbox ++ [x]).flatMap (launchNodes w d)).foldl (fun l n => if tabHas n w.nodes || l.contains n then l else n :: l) []
  decide ((dieTasks w d).length + (w.die d).inbox.length < 4096) && decide (dieNodes w d + fresh.length ≤ 512)

/-- The dispatcher of a die accepts a record (R142). -/
def acceptRecord (w : World) (d : Nat) (x : Inbound) : World := w.setDie d { w.die d with inbox := (w.die d).inbox ++ [x] }

end Sys2Proof.Machine
end

