-- ==== Sys2Proof/Machine/Shake.lean ====
section
/-! DEFINITION. SHAKE256, which the checksum of a configuration stream and the records of Jibor use (R73, R79, R288 to R292): the
sponge of FIPS 202, whose constants are worked out here from their recurrences. -/

namespace Sys2Proof.Machine

/-- The 1600-bit state as 25 lanes: the lane of column `x` and row `y` is entry x + 5 y. -/
abbrev Lanes := List (BitVec 64)

def lane (s : Lanes) (x y : Nat) : BitVec 64 := s.getD (x % 5 + 5 * (y % 5)) 0

/-- The lanes that a walk from column 1 of row 0 meets, each with how far it is rotated: the steps' triangular numbers. -/
def rhoWalk : Nat → Nat → Nat → Nat → List ((Nat × Nat) × Nat)
  | 0, _, _, _ => []
  | k + 1, x, y, t => ((x, y), (t + 1) * (t + 2) / 2 % 64) :: rhoWalk k y ((2 * x + 3 * y) % 5) (t + 1)

/-- How far each lane is rotated, by entry; the lane of column 0 and row 0 is not. -/
def rhoTable : List Nat :=
  let walk := rhoWalk 24 1 0 0
  (List.range 25).map fun i => ((walk.find? fun q => q.1.1 + 5 * q.1.2 == i).map (·.2)).getD 0

/-- One step of the shift register over x^8 + x^6 + x^5 + x^4 + 1 that gives the round constants their bits. -/
def shiftRegister (r : Nat) : Nat := if 128 ≤ r then (2 * r) ^^^ 0x171 else 2 * r

/-- A round's constant from the register, and the register after it: seven of its bits, at places one below the powers of two. -/
def roundConstant (r : Nat) : BitVec 64 × Nat :=
  (List.range 7).foldl (fun (c, r) j => (if r % 2 = 1 then c ^^^ BitVec.ofNat 64 (2 ^ (2 ^ j - 1)) else c, shiftRegister r)) (0, r)

/-- Spread each column's parity to its neighbours. -/
def theta (s : Lanes) : Lanes :=
  let parity (x : Nat) : BitVec 64 := (List.range 5).foldl (fun p y => p ^^^ lane s x y) 0
  let spread := (List.range 5).map fun x => parity (x + 4) ^^^ (parity (x + 1)).rotateLeft 1
  s.zipIdx.map fun (v, i) => v ^^^ spread.getD (i % 5) 0

/-- Rotate the lanes and move them: what stood at column `x` and row `y` goes to column `y` and row 2 x + 3 y. -/
def rhoPi (table : List Nat) (s : Lanes) : Lanes :=
  (List.range 25).map fun i =>
    let x := (i + 3 * (i / 5)) % 5
    let j := x + 5 * (i % 5)
    (s.getD j 0).rotateLeft (table.getD j 0)

/-- Combine each lane with the two after it in its row. -/
def chi (s : Lanes) : Lanes :=
  s.zipIdx.map fun (v, i) => v ^^^ ((lane s (i + 1) (i / 5)).not &&& lane s (i + 2) (i / 5))

/-- `n` rounds, from a state of the shift register. -/
def keccakRounds (table : List Nat) : Nat → Nat → Lanes → Lanes
  | 0, _, s => s
  | n + 1, r, s =>
    let (c, r) := roundConstant r
    keccakRounds table n r (match chi (rhoPi table (theta s)) with
      | v :: vs => (v ^^^ c) :: vs
      | [] => [])

/-- The permutation. PRESUMED: log 86. -/
def keccak (s : Lanes) : Lanes := keccakRounds rhoTable 24 1 s

/-- Take `n` blocks of 136 bytes into the state, which permutes after each. -/
def absorb : Nat → List Byte → Lanes → Lanes
  | 0, _, s => s
  | n + 1, bs, s =>
    absorb n (bs.drop 136) (keccak (s.zipIdx.map fun (v, i) =>
      if i < 17 then v ^^^ BitVec.ofNat 64 (leNat ((bs.drop (8 * i)).take 8)) else v))

/-- A message padded to whole blocks: the suffix 1111 of the extendable-output function, and pad10*1. -/
def shakePad (bs : List Byte) : List Byte :=
  let room := 136 - bs.length % 136
  if room = 1 then bs ++ [0x9F] else bs ++ 0x1F :: (List.replicate (room - 2) 0 ++ [0x80])

/-- The first `n` bytes, at most 136, of SHAKE256 over `bs`. PRESUMED: log 86. -/
def shake256 (bs : List Byte) (n : Nat) : List Byte :=
  let m := shakePad bs
  ((absorb (m.length / 136) m (List.replicate 25 0)).flatMap fun v => leBytes 8 v.toNat).take n

end Sys2Proof.Machine
end

