-- ==== Sys2Proof/Machine/Cfg.lean ====
section
/-! DEFINITION. Regions and their configuration: the CFG words, the configuration queue, loads, seals and switches
(R73 to R85, R222 to R230, R372). -/

namespace Sys2Proof.Machine

/-! ### Shadows -/

/-- The `CID` of a region's active planes, 0 when they are unconfigured. -/
def activeCid (w : World) (r : Nat) : Nat :=
  match (regionElems w r).find? fun e => planeConfigured (w.elem e).act with
  | some e => (w.elem e).actCid
  | none => 0

/-- Set every shadow plane of a region: unconfigured, or a copy of the active plane (R73, R78, R225). -/
def setShadows (w : World) (r : Nat) (copy : Bool) (cid : Nat) : World :=
  (regionElems w r).foldl (fun w e =>
    let x := w.elem e
    w.setElem e { x with shd := if copy then x.act else [], shdCid := cid, gated := false, busyAt := w.cycle }) w

/-- Are all sectors of a region powered and awake (R71)? DEDUCED: log 39. -/
def regionAwake (w : World) (r : Nat) : Bool :=
  (List.range 12).all fun s => !bit (w.region r).mask s ||
    (let k := 12 * (r / 4) + s; tabHas k w.sectors && decide (tabGet 0 k w.sectors ≤ w.cycle))

/-- Does the region's load come from the dispatcher (R260)? -/
def loadIsDispatchers (g : Region) : Bool :=
  match g.load with
  | some l => l.thread.isNone
  | none => false

/-- A load is refused; when it is the dispatcher's, its task fails with code 5 (R79, R142). -/
def refuse (w : World) (r cause idx : Nat) : World :=
  let disp := loadIsDispatchers (w.region r)
  let w := refuseLoad w r cause idx
  match disp, (w.region r).task with
  | true, some k => failTask w k 5
  | _, _ => w

/-- Check the shadow and seal it, or refuse it (R78, R79). -/
def sealShadow (w : World) (r : Nat) : World :=
  let c := shadowCause w r
  if c = 0 then releaseIfDue (w.setRegion r { w.region r with shadow := .sealed }) r else refuse w r c 0xFFFFFFFF

/-- A command of `cfgwr` takes effect on the shadow, the first of a new shadow as a new load (R78, R79, R225, R227); between a load's last command and its seal it cancels that seal.
DEDUCED: log 58. -/
def applyWrite (w : World) (r cmd : Nat) : World :=
  let c := commandOf (BitVec.ofNat 32 cmd)
  let g := w.region r
  let (shh, shw) := g.shape
  let w := match g.shadow with
    | .none =>
      let cid := activeCid w r
      let w := setShadows w r true cid
      w.setRegion r { w.region r with shadow := .written, scid := cid, shdChanged := false, refused := false }
    | _ => w.setRegion r { g with shadow := .written }
  let cause := commandCause shh shw c
  if cause = 0 then
    let w := applyCommand w r c
    w.setRegion r { w.region r with shdChanged := true }
  else refuse w r cause 0

/-! ### The configuration status (R227) -/

/-- The 16 bytes of an element's status (R84). -/
def elemStatus (x : Elem) : List Byte := leBytes 8 x.flipCycle ++ leBytes 8 x.flipId

/-- The 16 bytes of a region's configuration status (R227). -/
def configStatus (g : Region) : List Byte :=
  let cst := match g.shadow with
    | .none => if g.refused then 4 else 0
    | .loading | .written => 1
    | .sealed => 2
    | .wave => 3
  let scid := match g.shadow with
    | .loading | .written | .sealed => g.scid
    | .none | .wave => 0
  leBytes 4 (g.cause * 256 + cst) ++ leBytes 4 (if g.cause = 0 then 0xFFFFFFFF else g.cidx) ++ leBytes 8 scid

/-- The bytes that `cfgst` stores (R227). -/
def statusImage (w : World) (r : Nat) : List Byte :=
  ((regionElems w r).flatMap fun e => elemStatus (w.elem e)) ++ configStatus (w.region r)

/-! ### The queue (R372) -/

/-- The agent that a configuration controller is. -/
def cfgReach (r : Nat) : Reach := .ctrl (r / 4)

/-- The load of the queue's head may begin: no wavefront, no cut that must come first, no other load (R78). A `cfgsw` armed for an earlier
load of which no seal has come stays armed for this one. DEDUCED: log 56. -/
def loadMayBegin (g : Region) : Bool :=
  g.shadow != .wave && !g.cutDue && !g.frozen && g.saveAt.isNone && (match g.load with
    | some l => l.lastAt.isSome
    | none => true)

/-- Take the command at the head of a region's queue; none when it must wait. A `cfgld` is taken by `LOAD_BEGIN`. -/
def takeHead (w : World) (r : Nat) : Option World :=
  let g := w.region r
  let behindLoad := match g.load with
    | some l => l.lastAt.isNone
    | none => false
  if g.saveAt.isSome || behindLoad || g.cqStalled then none
  else match g.cq with
    | [] => none
    | (c, sp) :: rest =>
      let w' := w.setRegion r { g with cq := rest }
      match c with
      | .load .. => none
      | .write cmd => if g.shadow = .wave ∨ g.cutDue ∨ !regionAwake w r then none else some (applyWrite w' r cmd)
      | .switch =>
        let w' := w'.setRegion r { w'.region r with armedSwitch := true }
        match g.shadow with
        | .written => some (sealShadow w' r)
        | _ => some (releaseIfDue w' r)
      | .status va =>
        match nodeStore w' (cfgReach r) g.task sp Touch.store va (statusImage w r) with
        | (w'', .ok lost) => some (noteLostIn (w''.setRegion r { w''.region r with met := false }) r 3 0 0 0xFF 4 sp lost)
        | (_, .error _) => none
      | .save va =>
        if g.shadow = .wave ∨ readFrozen w r then none
        else
          let w' := freezeRegion w' r
          some (w'.setRegion r { w'.region r with saveAt := some (va, sp) })
      | .restore va =>
        if !regionAwake w r || readFrozen w r || !ownerStoresDone w r then none
        else match readArea w' (cfgReach r) g.task sp va g with
        | (_, .error _) => none
        | (w'', .ok a) =>
          if areaGood g a then
            let side := sideOf w'' (cfgReach r) sp va
            let w'' := restoreRegion w'' r a side sp false
            match nodeStore w'' (cfgReach r) g.task sp Touch.store (va + 0x40) (leBytes 8 2) with
            | (_, .error _) => none
            | (w'', .ok lost) => some (noteLostIn (w''.setRegion r { w''.region r with space := sp, met := false }) r 3 0 0 0xFF 3 sp lost)
          else match regionElems w'' r with
            | e :: _ => some (elemFault w'' e 0x07)
            | [] => some w''

/-- Take what can be taken from a region's queue, one command at a time; one whose accesses no budget admits waits (R141).
DEDUCED: log 54. -/
def drainCfg : Nat → World → Nat → World
  | 0, w, _ => w
  | n + 1, w, r => match takeHead w r with
    | some v => if w.overrun w v then w else drainCfg n v r
    | none => w

/-- Where the head of a region's queue waits for the first cut after a wavefront, and none is being taken, the controller requests it (R78,
R265). DEDUCED: log 119. -/
def cutForLoad (w : World) (r : Nat) : World :=
  match (w.region r).cutDue, (w.region r).cq with
  | true, (.load .., _) :: _ | true, (.write _, _) :: _ => requestCut w r
  | _, _ => w

/-- A region's controller does what it can at once: its queue, a release that is due, and the start that waited for it.
DEDUCED: log 54. -/
def serveCfg (w : World) (r : Nat) : World := settle (cutForLoad (drainCfg 17 w r) r) r

/-- What the controllers of the device do between two steps: failures that were declared, and every region's queue. -/
def controllers (w : World) : World :=
  let w := failDying w
  w.regions.foldl (fun w (r, g) =>
    if !g.cq.isEmpty || (g.running && g.starting) || g.shadow == .sealed then serveCfg w r else w) w

/-! ### Loads (R73, R78 to R80) -/

/-- The checks on a header: the code of the first that fails, 0 when all pass (R79). A stream that asks for an edge
its region does not lie at fails here, before its planes are checked (R159). DEDUCED: log 111. -/
def headerCause (g : Region) (va : Nat) (h : Nat) : Nat :=
  let (_, l, _, _) := maskRect g.mask
  let (shh, shw) := g.shape
  if bits h 31 24 != 0xC5 || bits h 23 16 != 1 || bits h 15 11 != 0 || decide (262144 < bits h 63 32) || va % 32 != 0 then 0x01
  else if bits h 7 4 != shh || bits h 3 0 != shw || (bit h 9 && l != 0) || (bit h 10 && l + shw != 4) then 0x02
  else if bits h 127 64 = 0 then 0x03
  else 0

/-- After the last command the checksum is compared (R73, R79). -/
def finishLoad (w : World) (r : Nat) (l : Load) : World :=
  let bytes := leBytes 16 (l.hdr.toNat % 2 ^ 128) ++ l.cmds.reverse.flatMap fun c => leBytes 4 c.toNat
  if leNat (shake256 bytes 16) = bits l.hdr.toNat 255 128 then
    w.setRegion r { w.region r with load := some { l with lastAt := some w.cycle } }
  else refuse w r 0x06 0xFFFFFFFF

/-- Begin a load whose header has been read (R78). -/
def beginLoad (w : World) (r va : Nat) (sp : Space) (disp : Bool) (hdr : BitVec 256) : World :=
  let g := w.region r
  let l : Load := { va := va, sp := sp, thread := if disp then none else g.owner, hdr := hdr, cmds := [], stalled := false
                    met := false, lastAt := none }
  let w := w.setRegion r { g with load := some l, shadow := .loading, scid := bits hdr.toNat 127 64, shdChanged := false
                                  met := false, refused := false }
  let c := headerCause g va hdr.toNat
  if c = 0 then
    let w := setShadows w r (bit hdr.toNat 8) (bits hdr.toNat 127 64)
    if bits hdr.toNat 63 32 = 0 then finishLoad w r l else w
  else refuse w r c 0xFFFFFFFF

/-- LOAD_BEGIN: the `cfgld` at the head of a region's queue begins; its header is read (R78, R80). -/
def execLoadBegin (r : Nat) (s : State) : Outcome :=
  event (budgeted fun w =>
    let g := w.region r
    match g.cq with
    | (.load va disp, sp) :: rest =>
      if !loadMayBegin g || g.cqStalled || !regionAwake w r || (w.core (r / 4)).off || (!disp && !ownerStoresDone w r) then w
      else
        let w' := w.setRegion r { g with cq := rest }
        let kept := if disp then (g.task.bind w.task?).map (·.hdr) else none
        match kept with
        | some h => serveCfg (beginLoad w' r va sp disp h) r
        | none =>
          match nodeLoad w' (cfgReach r) g.task sp Touch.load va 32 with
          | (w', .ok bs) => serveCfg (beginLoad w' r va sp disp (BitVec.ofNat 256 (leNat bs))) r
          | (_, .error _) => if disp then (match g.task with
              | some k => failTask w k 4
              | none => w) else w
    | _ => w) s

/-- LOAD_COMMAND: the controller reads the next command and applies it (R78 to R80). -/
def execLoadCommand (r : Nat) (s : State) : Outcome :=
  event (budgeted fun w =>
    let g := w.region r
    match g.load with
    | none => w
    | some l =>
      let n := l.cmds.length
      if l.stalled || l.lastAt.isSome || g.frozen || !regionAwake w r then w
      else match nodeLoad w (cfgReach r) g.task l.sp Touch.load (l.va + 32 + 4 * n) 4 with
        | (_, .error _) => if l.thread.isNone then (match g.task with
            | some k => failTask w k 4
            | none => w) else w
        | (w, .ok bs) =>
          let word := BitVec.ofNat 32 (leNat bs)
          let c := commandOf word
          let (shh, shw) := g.shape
          let l := { l with cmds := word :: l.cmds, met := false }
          let cause := commandCause shh shw c
          if cause != 0 then serveCfg (refuse w r cause n) r
          else
            let w := applyCommand w r c
            let w := w.setRegion r { w.region r with load := some l }
            if n + 1 = bits l.hdr.toNat 63 32 then serveCfg (finishLoad w r l) r else w) s

/-- SEAL: 64 cycles after the last command the shadow is checked and sealed (R78, R79). -/
def execSeal (r : Nat) (s : State) : Outcome :=
  event (fun w =>
    let g := w.region r
    match g.load with
    | none => w
    | some l =>
      match l.lastAt with
      | none => w
      | some c => if g.shadow = .loading ∧ c + 64 ≤ w.cycle ∧ !g.frozen then serveCfg (sealShadow w r) r else w) s

/-! ### The CFG words (R225) -/

/-- A word that names a region of the thread in gD (R224, R225). -/
def regionWord (p : Pr) (d : Reg) (gs : List Reg) (f : State → Nat → Res) (s : State) : Outcome :=
  word 1 p (use .other (d :: gs) []) (fun s =>
    let v := (s.readG d).toNat
    let r := 4 * s.core + v
    if 4 ≤ v ∨ (s.w.region r).owner ≠ some s.turn then .trap 0x07 (s.readG d) else f s r) s

/-- Queue a configuration command; a full queue holds the commit (R222). -/
def queueCfg (s : State) (r : Nat) (c : CfgCmd) : Res :=
  let g := s.w.region r
  if 16 ≤ g.cq.length then .hold s .room
  else .ok { s with w := s.w.setRegion r { g with cq := g.cq ++ [(c, wordSpace s)] } }

/-- The sectors of a mask are woken, for 1,320 cycles at most (R71). -/
def wakeSectors (w : World) (c m : Nat) : World :=
  { w with sectors := (List.range 12).foldl (fun t s =>
      if bit m s && !tabHas (12 * c + s) t then tabSet (12 * c + s) (w.cycle + 1320) t else t) w.sectors }

/-- Both planes of every element of a mask of sectors are unconfigured (R226). -/
def clearPlanes (w : World) (c m : Nat) : World :=
  (List.range 12).foldl (fun w s =>
    if bit m s then (sectorElems c s).foldl clearElem w
    else w) w

/-- Hand region `h` of a core, over mask `m`, to a new owner (R143, R226). -/
def newRegion (w : World) (c h m : Nat) (g : Region) : World :=
  let w := wakeSectors (clearPlanes w c m) c m
  unbindStreams (w.setRegion (4 * c + h) { g with mask := m }) (4 * c + h)

/-- The handles of a core in use, and those of them that hold reusable regions. -/
def liveHandles (w : World) (c : Nat) : List Nat := [0, 1, 2, 3].filter fun h => (w.region (4 * c + h)).live
def reusableHandles (w : World) (c : Nat) : List Nat := (liveHandles w c).filter fun h => (w.region (4 * c + h)).reusable

/-- rgalloc's effect: the machine and gD (R226). -/
def allocRegion (w : World) (t : Nat) (v : Nat) : World × Nat :=
  let c := coreOf t
  let m := bits v 11 0
  let held := (liveHandles w c).filter fun h => !(w.region (4 * c + h)).reusable
  if bits v 63 12 != 0 || !maskIsRect m then (w, 0x8000000000000001)
  else if held.length = 4 then (w, 0x8000000000000002)
  else if held.any (fun h => (w.region (4 * c + h)).mask &&& m != 0) then (w, 0x8000000000000003)
  else
    let w := (reusableHandles w c).foldl (fun w h =>
      if (w.region (4 * c + h)).mask &&& m != 0 then discardRegion w (4 * c + h) else w) w
    let w := if (liveHandles w c).length = 4 then
        match reusableHandles w c with
        | h :: _ => discardRegion w (4 * c + h)
        | [] => w
      else w
    let h := ([0, 1, 2, 3].find? fun h => !(w.region (4 * c + h)).live).getD 0
    (newRegion w c h m { Region.reset with owner := some t, space := (w.thread t).space }, h)

def execRgalloc (p : Pr) (d a : Reg) (s : State) : Outcome :=
  word 1 p { use .other [a] [d] with cres := true } (fun s =>
    let (w, v) := allocRegion s.w s.turn (s.readG a).toNat
    .ok ({ s with w := w }.writeG d (BitVec.ofNat 64 v))) s

/-- rgfree: before a task's completion it fails the task, which frees its region and halts its thread (R144, R148, R225). -/
def execRgfree (p : Pr) (d : Reg) (s : State) : Outcome :=
  regionWord p d [] (fun s r =>
    match (s.w.region r).task with
    | some k => if failHeld s.w k 7 then .hold s .budget else .ok { s with w := failAlone s.w k }
    | none => .ok { s with w := freeRegion s.w r }) s

/-- A sealed shadow that no switch has released, nor one that has been committed will release, is discarded when the `cfgld` that follows it
commits (R78, R81). DEDUCED: log 132. -/
def discardSealed (w : World) (r : Nat) : World :=
  let g := w.region r
  if g.shadow = .sealed && !g.armedSwitch && !g.cq.any (·.1 == .switch) then dropShadow w r else w

def execCfgld (p : Pr) (d a : Reg) (s : State) : Outcome :=
  regionWord p d [a] (fun s r =>
    match queueCfg s r (.load (s.readG a).toNat false) with
    | .ok s =>
      let w := (regionElems s.w r).foldl (fun w e =>
        if (w.elem e).gated then w.setElem e { w.elem e with gated := false, busyAt := w.cycle } else w) s.w
      .ok { s with w := discardSealed w r }
    | x => x) s

/-- DEDUCED: log 58. -/
def execCfgwr (p : Pr) (d a : Reg) (s : State) : Outcome :=
  regionWord p d [a] (fun s r =>
    let v := (s.readG a).toNat
    if 2 ^ 32 ≤ v then .trap 0x07 (s.readG a) else queueCfg s r (.write v)) s

/-- cfgwr.i: the long form of cfgwr, with its command in the extension word (R225). -/
def execCfgwrI (p : Pr) (d : Reg) (imm : BitVec 32) (s : State) : Outcome :=
  word 2 p (use .other [d] []) (fun s =>
    let v := (s.readG d).toNat
    let r := 4 * s.core + v
    if 4 ≤ v ∨ (s.w.region r).owner ≠ some s.turn then .trap 0x07 (s.readG d) else queueCfg s r (.write imm.toNat)) s

/-- DEDUCED: log 56. -/
def execCfgsw (p : Pr) (d : Reg) (s : State) : Outcome := regionWord p d [] (fun s r => queueCfg s r .switch) s

/-- cfgdrop acts at its commit (R85, R372). -/
def execCfgdrop (p : Pr) (d : Reg) (s : State) : Outcome :=
  regionWord p d [] (fun s r => .ok { s with w := dropLoad s.w r }) s

def execCfgst (p : Pr) (d a : Reg) (s : State) : Outcome :=
  regionWord p d [a] (fun s r =>
    let v := (s.readG a).toNat
    if v % 16 != 0 then .trap 0x07 (s.readG a) else queueCfg s r (.status v)) s

/-- rgstart: the region is armed and running, and starts once no switch is pending (R228). -/
def execRgstart (p : Pr) (d a b : Reg) (s : State) : Outcome :=
  regionWord p d [a, b] (fun s r =>
    let v := (s.readG a).toNat
    let g := s.w.region r
    if v % 8 != 0 then .trap 0x07 (s.readG a)
    else if g.running then .trap 0x07 (s.readG d)
    else
      let g := { g with running := true, starting := true, armed := some (v, (s.readG b).toNat), space := wordSpace s
                        nfl := g.nfl, complStalled := false }
      .ok { s with w := s.w.setRegion r g }) s

def execRgstop (p : Pr) (d : Reg) (s : State) : Outcome :=
  regionWord p d [] (fun s r => .ok { s with w := stopRegion s.w r }) s

def execRgsave (p : Pr) (d a : Reg) (s : State) : Outcome :=
  regionWord p d [a] (fun s r =>
    let v := (s.readG a).toNat
    if v % 256 != 0 then .trap 0x07 (s.readG a) else queueCfg s r (.save v)) s

/-- DEDUCED: log 53. -/
def execRgload (p : Pr) (d a : Reg) (s : State) : Outcome :=
  regionWord p d [a] (fun s r =>
    let v := (s.readG a).toNat
    if v % 256 != 0 then .trap 0x07 (s.readG a)
    else if (s.w.region r).running then .trap 0x07 (s.readG d)
    else queueCfg s r (.restore v)) s

/-- marker requests a cut (R225, R265). -/
def execMarker (p : Pr) (d : Reg) (s : State) : Outcome :=
  regionWord p d [] (fun s r => .ok { s with w := requestCut s.w r }) s

/-! ### tenq (R230) -/

def execTenq (p : Pr) (d a : Reg) (s : State) : Outcome :=
  word 1 p { use .other [a] [d] with cres := true } (fun s =>
    let va := s.readG a
    if va.toNat % 64 != 0 then .trap 0x07 va
    else match loadNum s .load .acqRel Touch.load va 64 with
      | (_, .error t) => .trap t.code t.val
      | (s, .ok b) =>
        let (w, n) := takeSeq s.w
        let x : Inbound := { launch := BitVec.ofNat 512 b, sp := wordSpace s, queue := none, after := some (s.turn, n) }
        if accepts s.w s.die x then .ok ({ s with w := acceptRecord w s.die x }.writeG d 0)
        else .ok (s.writeG d 1)) s

end Sys2Proof.Machine
end

