-- ==== Sys2Proof/Machine/Streams.lean ====
section
/-! DEFINITION. The STRM words: bindings, thread ports, stalled accesses and chains (R224, R231 to R234). -/

namespace Sys2Proof.Machine

/-- The key of stream `v` of the core of the thread whose turn it is, when the thread owns its region (R224, R231). -/
def ownStream (s : State) (v : Nat) : Option Nat :=
  if v < 64 ∧ (s.w.region (4 * s.core + v / 16)).owner = some s.turn then some (64 * s.core + v) else none

/-- A word that names a stream of the thread in gD (R231). -/
def streamD (p : Pr) (d : Reg) (gs : List Reg) (f : State → Nat → Res) (s : State) : Outcome :=
  word 1 p (use .other (d :: gs) []) (fun s =>
    match ownStream s (s.readG d).toNat with
    | none => .trap 0x07 (s.readG d)
    | some k => f s k) s

/-! ### The queue of stream and chain commands (R222, R372) -/

/-- The handlers of stream `k` that an end-of-stream has passed stand at the first element of the pattern that is bound next (R116, R117,
R231). -/
def restartStream (w : World) (k : Nat) : World :=
  let again (e : Nat) (x : Elem) : List Nat :=
    (handlersOf x.act).filter fun h => usesStream (handler x.act h).op && streamKey w e h == k && x.work h wBegun == 1 && !bit x.stopped h
  { w with elems := tabMap (fun e (x : Elem) =>
      if eCore e = k / 64 then
        (again e x).foldl (fun x h => { x with spos := tabDel h x.spos, aux := x.aux.filter fun kv => kv.1 % 4 != h }) x
      else x) w.elems }

/-- Bind or unbind a stream: at once, or when its handler next begins a stream (R231). -/
def rebind (w : World) (k : Nat) (bound port : Bool) (blk : Block) : World :=
  let st := w.stream k
  if st.begun then w.setStream k { st with next := some (bound, port, blk) }
  else
    (restartStream w k).setStream k { st with
      bound := bound, port := port, blk := blk, next := none, inq := if port then st.inq else [], outq := if port then st.outq else [] }

/-- Every access of stream `k` that stands stalled is issued again, in its place in issue order (R231, R263). -/
def reissueStream (w : World) (k : Nat) : World :=
  let w := if streamStalled w k then walkAnew w (k / 64) (w.region (4 * (k / 64) + k % 64 / 16)).space.asid else w
  { w with elems := tabMap (fun e (x : Elem) =>
      if eCore e = k / 64 ∧ x.acc.any (fun a => a.phase == .stalled && streamKey w e a.h == k) then
        { x with acc := x.acc.map fun a => if a.phase == .stalled && streamKey w e a.h == k then { a with phase := .issued } else a }
      else x) w.elems }

/-- What a stream or chain command does once it is taken (R231, R234). -/
def actStream (w : World) : StreamCmd → World
  | .bind k b p blk => rebind w k b p blk
  | .reissue k => reissueStream w k
  | .stop k => stopRegion w (4 * (k / 64) + k % 64 / 16)
  | .chain k link _ => setChainState w k link

/-- Does a binding that core `c`'s queue has given up still wait for its handler's next stream (R231, R372)? -/
def bindingWaits (w : World) (c : Nat) : Bool := w.streams.any fun (k, st) => k / 64 == c && st.next.isSome

/-- Core `c`'s queue gives up its commands one at a time, each once the one ahead has acted; a stop whose accesses a budget holds waits (R141,
R372). DEDUCED: log 76. -/
def drainStreams : Nat → World → Nat → World
  | 0, w, _ => w
  | n + 1, w, c =>
    match w.streamQueue c with
    | [] => w
    | x :: rest =>
      if bindingWaits w c then w
      else
        let w' := actStream (w.setStreamQueue c rest) x
        if w.overrun w w' then w else drainStreams n w' c

/-- Every core's queue of stream and chain commands gives up what it can. -/
def serveStreams (w : World) : World := w.scq.foldl (fun w (c, l) => drainStreams l.length w c) w

/-- A stream or chain command enters its core's queue, which acts on what it can; a full queue holds the commit (R222, R372).
DEDUCED: log 76. -/
def queueStream (s : State) (x : StreamCmd) : Res :=
  let q := s.w.streamQueue s.core
  if 16 ≤ q.length then .hold s .room
  else .ok { s with w := drainStreams 17 (s.w.setStreamQueue s.core (q ++ [x])) s.core }

def execSbind (p : Pr) (d a : Reg) (s : State) : Outcome :=
  streamD p d [a] (fun s k =>
    let va := s.readG a
    if va = 0 then queueStream s (.bind k true true 0)
    else if va.toNat % 64 != 0 then .trap 0x07 va
    else match loadNum s .load .acqRel Touch.load va 64 with
      | (_, .error t) => .trap t.code t.val
      | (s, .ok b) => queueStream s (.bind k true false (BitVec.ofNat 512 b))) s

def execSunbind (p : Pr) (d : Reg) (s : State) : Outcome :=
  streamD p d [] (fun s k => queueStream s (.bind k false false 0)) s

/-- `OVR` and `SHRT` of a stream and the numeric flag word of its region are cleared (R231). -/
def clearStreamFlags (w : World) (k : Nat) : World :=
  let w := w.setStream k { w.stream k with ovr := false, shrt := false }
  let r := 4 * (k / 64) + k % 64 / 16
  w.setRegion r { w.region r with nfl := 0 }

/-- sstat: a status read of the stream word (R233). -/
def execSstat (p : Pr) (d a : Reg) (s : State) : Outcome :=
  word 1 p (use .other [a] [d]) (fun s =>
    let v := (s.readG a).toNat
    if bits v 63 9 != 0 || bits v 7 6 != 0 then .trap 0x07 (s.readG a)
    else match ownStream s (v % 64) with
      | none => .trap 0x07 (s.readG a)
      | some k =>
        let x := BitVec.ofNat 64 (streamWord s.w k)
        .ok ({ s with w := if bit v 8 then clearStreamFlags s.w k else s.w }.writeG d x)) s

/-- Push a token into a thread port's input queue; a full queue holds the commit (R222, R232). -/
def pushPort (s : State) (k : Nat) (t : Token) : Res :=
  let st := s.w.stream k
  if 16 ≤ st.inq.length then .hold s .room else .ok { s with w := s.w.setStream k { st with inq := st.inq ++ [t] } }

/-- Is a stream bound as a thread port (R232)? -/
def hasPort (w : World) (k : Nat) : Bool := (w.stream k).bound && (w.stream k).port

def execSpush (p : Pr) (d a : Reg) (s : State) : Outcome :=
  streamD p d [a] (fun s k =>
    let v := (s.readG a).toNat
    if bits v 63 36 != 0 || bits v 35 34 == 3 then .trap 0x07 (s.readG a)
    else if !hasPort s.w k then .trap 0x07 (s.readG d)
    else pushPort s k (Token.unpack v)) s

/-- spop: a status read of the output queue's head token, which is taken (R220, R231). -/
def execSpop (p : Pr) (d a : Reg) (s : State) : Outcome :=
  word 1 p (use .other [a] [d]) (fun s =>
    match ownStream s (s.readG a).toNat with
    | none => .trap 0x07 (s.readG a)
    | some k =>
      let st := s.w.stream k
      if !hasPort s.w k then .trap 0x07 (s.readG a)
      else match st.outq with
        | [] => .ok (s.writeG d 0x8000000000000000)
        | t :: rest => .ok ({ s with w := s.w.setStream k { st with outq := rest } }.writeG d (BitVec.ofNat 64 t.pack))) s

def execSeos (p : Pr) (d : Reg) (s : State) : Outcome :=
  streamD p d [] (fun s k => if !hasPort s.w k then .trap 0x07 (s.readG d) else pushPort s k (ctlWord 3 0)) s

/-- sctl: 1 reissues the stream's stalled accesses, 2 stops the region as rgstop (R231). -/
def execSctl (p : Pr) (d a : Reg) (s : State) : Outcome :=
  streamD p d [a] (fun s k =>
    if s.readG a = 1 then queueStream s (.reissue k)
    else if s.readG a = 2 then queueStream s (.stop k)
    else .trap 0x07 (s.readG a)) s

/-- The accesses of chain `k` that have been issued and that its home unit has not taken. -/
def issuedOnChain (w : World) (k : Nat) : List (Nat × Nat × Nat) :=
  w.elems.flatMap fun (e, x) => (x.acc.filter fun a => a.op.isChain && a.phase == .issued && chainKey e a == k).map fun a => (e, a.h, a.nth)

/-- chainset sets a chain's state at its home unit, before any access of the chain that is issued later (R234). -/
def execChainset (p : Pr) (d a : Reg) (s : State) : Outcome :=
  word 1 p (use .other [d, a] []) (fun s =>
    if bits (s.readG d).toNat 63 12 != 0 then .trap 0x07 (s.readG d)
    else if bits (s.readG a).toNat 63 32 != 0 then .trap 0x07 (s.readG a)
    else
      let k := 4096 * s.die + (s.readG d).toNat
      queueStream s (.chain k (s.readG a).toNat (issuedOnChain s.w k))) s

/-- chainst: a status read of a chain (R234). -/
def execChainst (p : Pr) (d a : Reg) (s : State) : Outcome :=
  word 1 p (use .other [a] [d]) (fun s =>
    if bits (s.readG a).toNat 63 12 != 0 then .trap 0x07 (s.readG a)
    else .ok (s.writeG d (BitVec.ofNat 64 (chainStatus s.w (4096 * s.die + (s.readG a).toNat))))) s

end Sys2Proof.Machine
end

