-- ==== Sys2Proof/Machine/Matrix.lean ====
section
/-! DEFINITION. Operand slots and the matrix array (R235 to R240, R310 to R318). -/

namespace Sys2Proof.Machine

def World.setSlotOp (w : World) (k : Nat) (x : Slot) : World := { w with slotsOp := tabSet k x w.slotsOp }
def World.setMatrix (w : World) (c : Nat) (x : Matrix) : World := { w with matrices := tabSet c x w.matrices }
def World.setTile (w : World) (k : Nat) (x : Tile) : World := { w with tiles := tabSet k x w.tiles }
def World.setChannel (w : World) (k : Nat) (x : Channel) : World := { w with channels := tabSet k x w.channels }

/-! ### Descriptors (R236) -/

def dK (x : Nat) : Nat := bits x 19 11
def dRows (x : Nat) : Nat := bits x 10 6 + 1
def dFmt (x : Nat) : Nat := bits x 5 0
def dOri (x : Nat) : Bool := bit x 20
def dScl (x : Nat) : Bool := bit x 21

/-- May a slot hold a format (R236)? -/
def slotFormat (f : Nat) : Bool := [0, 1, 3, 4, 8, 9].contains f || (decide (0x20 ≤ f) && fmtValid f)

/-- Is a slot descriptor valid (R236)? -/
def descValid (x : Nat) : Bool :=
  bits x 63 22 == 0 && slotFormat (dFmt x) && decide (1 ≤ dK x ∧ dK x ≤ (if fmtBytes (dFmt x) = 1 then 256 else 128))

/-- Do two descriptors suit `mtile`, or `mtilet` (R237)? -/
def tilesSuit (da db : Nat) (t : Bool) : Bool :=
  !dOri da && dOri db == t && dK da == dK db && fmtBytes (dFmt da) == fmtBytes (dFmt db)

/-- The descriptor of bf16 with `RM1` 31 and `K` 32 (R238). -/
def recurDesc (ori : Bool) : Nat := 32 * 2 ^ 11 + 31 * 2 ^ 6 + 8 + (if ori then 2 ^ 20 else 0)

/-- Element (r, k) of a slot under a descriptor (R236). -/
def slotElem (x : Slot) (d r k : Nat) : Val :=
  let z := fmtBytes (dFmt d)
  let o := if dOri d then 32 * z * k + r * z else 256 * r + k * z
  fmtVal (dFmt d) (leNat ((List.range z).map fun i => tabGet 0 (o + i) x.data))

/-- The block scale of element (r, k) (R236). -/
def slotScale (x : Slot) (d r k : Nat) : Val :=
  if dScl d then e8m0 (tabGet 0 (8 * r + k / 32) x.side).toNat else .fin false 1 0 false

/-! ### Accumulators (R310 to R313) -/

/-- The saturated cell and the NaN cell (R310). -/
def satCell : Int := 2 ^ 127 - 1
def nanCell : Int := -2 ^ 127

/-- `acc_add` of a cell under anchor `a`: the cell, and whether the saturation flag is set (R311). -/
def accAdd (a : Int) (c : Int) (p : Val) : Int × Bool :=
  if c = nanCell then (c, false)
  else
    let sat := c.natAbs == satCell.natAbs
    match p with
    | .nan => (nanCell, true)
    | .inf neg =>
      if sat then (if (c < 0) = neg then (c, false) else (nanCell, true))
      else (if neg then -satCell else satCell, true)
    | .zero _ => (c, false)
    | .fin neg m e t =>
      if sat then (c, false)
      else
        let n := c + (roundInt 0 neg m (e - a) t).1
        if satCell.natAbs ≤ n.natAbs then (if n < 0 then -satCell else satCell, true) else (n, false)

/-- Cell (i, j) of a tile, and the tile with it replaced. -/
def Tile.cell (x : Tile) (i j : Nat) : Int := tabGet 0 (32 * i + j) x.cells
def Tile.setCell (x : Tile) (i j : Nat) (v : Int) : Tile :=
  { x with cells := if v = 0 then tabDel (32 * i + j) x.cells else tabSet (32 * i + j) v x.cells }

/-- Add values to a cell of a tile, in order; was the flag set? -/
def Tile.addAll (x : Tile) (i j : Nat) (ps : List Val) : Tile × Bool :=
  let (c, f) := ps.foldl (fun (acc : Int × Bool) p =>
    let (c, f) := accAdd x.anchor acc.1 p
    (c, acc.2 || f)) (x.cell i j, false)
  (x.setCell i j c, f)

/-- Pairs (i, j) below m and n, row-major. -/
def cellsOf (m n : Nat) : List (Nat × Nat) := (List.range m).flatMap fun i => (List.range n).map fun j => (i, j)

/-- The products of `mtile` for cell (i, j) (R237, R311). -/
def products (a b : Slot) (da db i j : Nat) : List Val :=
  (List.range (dK da)).map fun k =>
    (mulVal (mulVal (slotElem a da i k) (slotScale a da i k)).1 (mulVal (slotElem b db j k) (slotScale b db j k)).1).1

/-- acc += A · B (R237). -/
def tileMul (x : Tile) (a b : Slot) (da db : Nat) : Tile × Bool :=
  (cellsOf (dRows da) (dRows db)).foldl (fun (acc : Tile × Bool) (i, j) =>
    let (x, f) := acc.1.addAll i j (products a b da db i j)
    (x, acc.2 || f)) (x, false)

/-- `readout` of a cell: the encoding in a format (R313). -/
def readout (a : Int) (s : Int) (fmt rm : Nat) (satf : Bool) (c : Int) : Nat :=
  let v : Val :=
    if c = nanCell then .nan
    else if c.natAbs = satCell.natAbs then .inf (decide (c < 0))
    else .make (decide (c < 0)) c.natAbs (a + s)
  match intFmt fmt, floatFmt fmt with
  | some (wd, sgd), _ =>
    match v with
    | .nan => 0
    | .inf neg => saturate wd sgd (if neg then -2 ^ 127 else 2 ^ 127)
    | .zero _ => 0
    | .fin neg m e t => saturate wd sgd (roundInt rm neg m e t).1
  | none, some f =>
    let (x, fl) := roundTo v f rm
    let big : Bool := match v with
      | .inf _ => true
      | _ => fl.getLsbD 2
    if satf && big then
      (match v with
       | .inf true | .fin true .. => if f.signed then 2 ^ f.signAt + f.maxBits else 0
       | _ => f.maxBits)
    else x
  | none, none => (toE8m0 v rm).1

/-- The bf16 image of a tile, as slot data in orientation 0 with 32 rows of 32 (R238, R318). -/
def delayNode (x : Tile) : Tab Byte :=
  ((cellsOf 32 32).flatMap fun (i, j) =>
    let v := readout x.anchor 0 8 0 false (x.cell i j)
    [(256 * i + 2 * j, BitVec.ofNat 8 v), (256 * i + 2 * j + 1, BitVec.ofNat 8 (v / 256))]).filter fun kv => kv.2 != 0

/-- A slot's data with the bytes of a 32 by 32 image written over it, `z` bytes to an element. -/
def writeRows (data : Tab Byte) (z : Nat) (image : Nat → Nat → Nat) : Tab Byte :=
  (cellsOf 32 32).foldl (fun t (i, j) =>
    (leBytes z (image i j)).zipIdx.foldl (fun t (b, n) =>
      let o := 256 * i + z * j + n
      if b = 0 then tabDel o t else tabSet o b t) t) data

/-- acc += W · D: W as its orientation gives it, D a tile of K rows of 32 elements, row k of which is row k of the image
that the delay node holds (R236, R238). -/
def recurMul (x : Tile) (a d : Slot) : Tile × Bool :=
  (cellsOf 32 32).foldl (fun (acc : Tile × Bool) (i, j) =>
    let (x, f) := acc.1.addAll i j ((List.range 32).map fun k =>
      (mulVal (slotElem a (recurDesc true) i k) (slotElem d (recurDesc false) k j)).1)
    (x, acc.2 || f)) (x, false)

/-- Steps of `mrec` from slot `s0` on: the tile, the slots of the core, and whether the flag was set (R238, R318).
DEDUCED: log 73. -/
def recurSteps (c : Nat) (wSlot : Slot) (s0 : Nat) : Nat → Nat → Tile → Tab Byte → Tab Slot → Bool → Tile × Tab Slot × Bool
  | 0, _, x, _, slots, f => (x, slots, f)
  | n + 1, t, x, d, slots, f =>
    let k := 16 * c + (s0 + t) % 16
    let xs := tabGet Slot.reset k slots
    let (y, f1) := recurMul { x with cells := [] } wSlot { Slot.reset with data := d }
    let (y, f2) := (cellsOf 32 32).foldl (fun (acc : Tile × Bool) (i, j) =>
      let (z, g) := acc.1.addAll i j [slotElem xs (recurDesc false) i j]
      (z, acc.2 || g)) (y, false)
    let d' := delayNode y
    let img (i j : Nat) : Nat := readout y.anchor 0 8 0 false (y.cell i j)
    recurSteps c wSlot s0 n (t + 1) y d' (tabSet k { xs with data := writeRows xs.data 2 img } slots) (f || f1 || f2)

/-! ### Flags (R215, R312) -/

/-- Bit `i` of mstat is set by a command of thread `t`; the first time, with `OTE` set, event 0x40 (R258, R312, R324). -/
def setSaturation (w : World) (c t i : Nat) : World :=
  let k := w.core c
  let m := k.mstat ||| (1#64 <<< i)
  let first := !k.mstat.getLsbD i && m.getLsbD 8
  let before := (setNow w c).any fun x => x.1 == i && x.2.2
  let w := w.setCore c { k with mstat := m, satSets := tabSet i (w.cycle, t, first || before) k.satSets }
  if first then raise w t 0x40 m else w

/-! ### Commands -/

/-- The slots a tile operation names (R314). -/
def MatOp.slots : MatOp → List Nat
  | .zero .. => []
  | .tile _ a b _ _ => [a, b]
  | .recur _ a s0 n => a :: (List.range n).map fun t => (s0 + t) % 16
  | .read _ dst slot .. => if slot then [dst] else []

/-- Array cycles of a tile operation, and those a budget charges (R316). -/
def MatOp.cycles : MatOp → Nat × Nat
  | .zero .. => (1, 0)
  | .tile _ _ _ da _ => let n := ceilDiv (dK da) (if fmtBytes (dFmt da) = 1 then 8 else 4); (n, n)
  | .recur _ _ _ n => (9 * n, 8 * n)
  | .read .. => (32, 0)

/-- The tile that an operation reads out, as it stands when the operation starts (R239, R317). -/
def tileAtStart (w : World) (c : Nat) : MatOp → Option Tile
  | .read acc .. => some (w.tile (4 * c + acc))
  | .zero .. | .tile .. | .recur .. => none

/-- The tile that the `mread` in progress reads out. -/
def Matrix.readTile (m : Matrix) (w : World) (c acc : Nat) : Tile := m.tile.getD (w.tile (4 * c + acc))

/-- The cells and slots after a tile operation of thread `t` on core `c`; `read` writes when it completes. -/
def performOp (w : World) (c t : Nat) (op : MatOp) : World :=
  match op with
  | .zero acc a => w.setTile (4 * c + acc) { anchor := a, cells := [] }
  | .tile acc a b da db =>
    let (x, f) := tileMul (w.tile (4 * c + acc)) (w.slotOp (16 * c + a)) (w.slotOp (16 * c + b)) da db
    let w := w.setTile (4 * c + acc) x
    if f then setSaturation w c t acc else w
  | .recur acc a s0 n =>
    let x := w.tile (4 * c + acc)
    let (y, slots, f) := recurSteps c (w.slotOp (16 * c + a)) s0 n 0 x (delayNode x) w.slotsOp false
    let w := { w.setTile (4 * c + acc) y with slotsOp := slots }
    if f then setSaturation w c t acc else w
  | .read .. => w

/-- Is a core without power, alone or with its die (R295, R297)? -/
def coreGated (w : World) (c : Nat) : Bool := (w.core c).off || (w.die (dieOf c)).off

/-- MATRIX_COMMAND_START: the array takes its next command and acts on cells and slots as they stand (R141, R240, R316). -/
def execMatrixCommandStart (c : Nat) (s : State) : Outcome :=
  event (fun w =>
    let m := w.matrix c
    match m.cur, m.queue with
    | none, x :: rest =>
      if coreGated w c then w else
      let (n, charge) := x.op.cycles
      let task := (w.thread x.thread).task
      if !mayStart w x.thread x.seq 4 || (charge != 0 && !w.admitted task 0) then w
      else
        let w := w.charge task 0 charge
        let w := w.setMatrix c { m with queue := rest, cur := some x, tile := tileAtStart w c x.op, doneAt := w.cycle + n, stalled := false, met := false }
        performOp w c x.thread x.op
    | _, _ => w) s

/-- The rows that an `mread` writes to memory: address and bytes (R239). -/
def readRows (x : Tile) (op : MatOp) : List (Nat × List Byte) :=
  match op with
  | .read _ dst _ fmt pitch scale rm satf =>
    let z := fmtBytes fmt
    (List.range 32).map fun i =>
      ((dst + i * (if pitch = 0 then 32 * z else pitch)) % 2 ^ 64,
        (List.range 32).flatMap fun j => leBytes z (readout x.anchor scale fmt rm satf (x.cell i j)))
  | _ => []

/-- Store rows as an agent; the machine, or the first fault, with whatever poison discarded. -/
def storeRows (w : World) (who : Reach) (task : Option Nat) (sp : Space) : List (Nat × List Byte) → World × Except MemFault (List Seg)
  | [] => (w, .ok [])
  | (va, bs) :: rest =>
    match nodeStore w who task sp Touch.store va bs with
    | (w, .error f) => (w, .error f)
    | (w, .ok lost) =>
      match storeRows w who task sp rest with
      | (w, .ok more) => (w, .ok (lost ++ more))
      | (w, .error f) => (w, .error f)

/-- MATRIX_COMMAND_COMPLETE: a command's cycles are over and, for `mread`, its writes are performed (R316). -/
def execMatrixCommandComplete (c : Nat) (s : State) : Outcome :=
  event (budgeted fun w =>
    let m := w.matrix c
    match m.cur with
    | none => w
    | some x =>
      if w.cycle < m.doneAt || m.stalled || coreGated w c then w
      else
        let fin (w : World) : World := w.setMatrix c { w.matrix c with cur := none, tile := none, met := false }
        match x.op with
        | .read acc dst true fmt _ scale rm satf =>
          let t := m.readTile w c acc
          let k := 16 * c + dst
          let y := w.slotOp k
          let img (i j : Nat) : Nat := readout t.anchor scale fmt rm satf (t.cell i j)
          fin (w.setSlotOp k { y with data := writeRows y.data (fmtBytes fmt) img, desc := fmt + 31 * 2 ^ 6 + 32 * 2 ^ 11 })
        | .read acc _ false fmt .. =>
          match storeRows w (.engine c) (w.thread x.thread).task x.sp (readRows (m.readTile w c acc) x.op) with
          | (_, .error _) => w
          | (w, .ok lost) => noteLost (fin w) x.thread c x.sp 5 0 0 (Nat.log2 (fmtBytes fmt)) lost
        | _ => fin w) s

/-! ### Slots (R235, R314) -/

/-- Does a copy name a slot, itself or by its follow-on (R314)? -/
def CopyCmd.names (x : CopyCmd) (n : Nat) : Bool :=
  let kind := fld x.blk 0x38 31 28
  ((kind == 1 || kind == 2) && fld x.blk 0x38 27 24 == n) || (match x.follow with
    | some op => op.slots.contains n
    | none => false)

/-- Is a command of thread `t` before place `seq` that names slot `n` of core `c` still incomplete (R235, R314)? -/
def slotBusy (w : World) (c t n seq : Nat) : Bool :=
  ([0, 1, 2, 3].any fun i =>
    let x := w.channel (4 * c + i)
    (x.cur.toList ++ x.queue).any fun y => y.thread == t && decide (y.seq < seq) && y.names n)
  || (let m := w.matrix c
      (m.cur.toList ++ m.queue).any fun y => y.thread == t && decide (y.seq < seq) && y.op.slots.contains n)

/-- SLOT_RELEASE: a released slot becomes clearing once the commands before its release have completed (R314). -/
def execSlotRelease (k : Nat) (s : State) : Outcome :=
  event (fun w =>
    let x := w.slotOp k
    match x.phase, x.release with
    | .claimed t, some seq | .leaving t, some seq =>
      if slotBusy w (k / 16) t (k % 16) seq then w else w.setSlotOp k { x with phase := .clearing, release := none, clearFrom := w.cycle }
    | _, _ => w) s

/-- SLOT_CLEARED: after 64 cycles a clearing slot is zero and free (R314). -/
def execSlotCleared (k : Nat) (s : State) : Outcome :=
  event (fun w =>
    let x := w.slotOp k
    if x.phase = .clearing ∧ x.clearFrom + 64 ≤ w.cycle then { w with slotsOp := tabDel k w.slotsOp } else w) s

/-! ### The MTX words (R235) -/

/-- Does the thread whose turn it is hold slot `v` of its core (R224, R235)? DEDUCED: log 74. -/
def holdsSlot (s : State) (v : Nat) : Bool := decide (v < 16) && (s.w.slotOp (16 * s.core + v)).phase == .claimed s.turn

/-- The descriptor of slot `v` of the core. DEDUCED: log 74. -/
def slotDesc (s : State) (v : Nat) : Nat := (s.w.slotOp (16 * s.core + v)).desc

/-- Queue a matrix command; a full queue holds the commit (R222). -/
def queueMat (s : State) (op : MatOp) : Res :=
  let m := s.w.matrix s.core
  if 16 ≤ m.queue.length then .hold s .room
  else
    let (w, n) := takeSeq s.w
    .ok { s with w := w.setMatrix s.core { m with queue := m.queue ++ [{ thread := s.turn, sp := wordSpace s, seq := n, op := op }] } }

/-- A word that names an accumulator in gD (R235). DESIGN CHOICE: log 116. -/
def matWord (p : Pr) (d : Reg) (gs : List Reg) (f : State → Nat → Res) (s : State) : Outcome :=
  word 1 p (use .other (d :: gs) []) (fun s =>
    if 4 ≤ (s.readG d).toNat then .trap 0x07 (s.readG d) else f s (s.readG d).toNat) s

/-- oclaim's effect: the machine and gD (R235). -/
def claimSlot (w : World) (t v : Nat) : World × Word :=
  let c := coreOf t
  let free (n : Nat) : Bool := (w.slotOp (16 * c + n)).phase == .free
  let got := if v < 16 then (if free v then some v else none) else (List.range 16).find? free
  match got with
  | none => (w, BitVec.allOnes 64)
  | some n => (w.setSlotOp (16 * c + n) { Slot.reset with phase := .claimed t }, BitVec.ofNat 64 n)

def execOclaim (p : Pr) (d a : Reg) (s : State) : Outcome :=
  word 1 p { use .other [a] [d] with cres := true } (fun s =>
    let (w, v) := claimSlot s.w s.turn (s.readG a).toNat
    .ok ({ s with w := w }.writeG d v)) s

def execOrel (p : Pr) (d : Reg) (s : State) : Outcome :=
  word 1 p (use .other [d] []) (fun s =>
    let v := (s.readG d).toNat
    if !holdsSlot s v then .trap 0x07 (s.readG d)
    else
      let (w, n) := takeSeq s.w
      let x := w.slotOp (16 * s.core + v)
      .ok { s with w := w.setSlotOp (16 * s.core + v) { x with release := some (x.release.getD n) } }) s

def execOdesc (p : Pr) (d a : Reg) (s : State) : Outcome :=
  word 1 p (use .other [d, a] []) (fun s =>
    let v := (s.readG d).toNat
    let x := (s.readG a).toNat
    if !holdsSlot s v then .trap 0x07 (s.readG d)
    else if !descValid x then .trap 0x07 (s.readG a)
    else .ok { s with w := s.w.setSlotOp (16 * s.core + v) { s.w.slotOp (16 * s.core + v) with desc := x } }) s

def execMzero (p : Pr) (d a : Reg) (s : State) : Outcome :=
  matWord p d [a] (fun s acc =>
    let v := (s.readG a).toNat
    if bits v 63 10 != 0 then .trap 0x07 (s.readG a) else queueMat s (.zero acc (sgn 10 v))) s

/-- The checks of R237 and R314 on two operand slots. -/
def tileArgs (s : State) (a b : Nat) (t : Bool) : Bool :=
  dK (slotDesc s a) != 0 && dK (slotDesc s b) != 0 && tilesSuit (slotDesc s a) (slotDesc s b) t

/-- mtile and mtilet: the operand that fails a check of its own is the offending one, and gB where the two do not suit each other (R221,
R237). DESIGN CHOICE: log 116. -/
def tileWord (t : Bool) (p : Pr) (d a b : Reg) (s : State) : Outcome :=
  matWord p d [a, b] (fun s acc =>
    let va := (s.readG a).toNat
    let vb := (s.readG b).toNat
    if !holdsSlot s va || dK (slotDesc s va) == 0 || dOri (slotDesc s va) then .trap 0x07 (s.readG a)
    else if !holdsSlot s vb || !tileArgs s va vb t then .trap 0x07 (s.readG b)
    else queueMat s (.tile acc va vb (slotDesc s va) (slotDesc s vb))) s

def execMtile (p : Pr) (d a b : Reg) (s : State) : Outcome := tileWord false p d a b s
def execMtilet (p : Pr) (d a b : Reg) (s : State) : Outcome := tileWord true p d a b s

/-- mrec (R238, R318); a count field of 0 stands for 16. DEDUCED: log 73. -/
def execMrec (p : Pr) (d a b : Reg) (s : State) : Outcome :=
  matWord p d [a, b] (fun s acc =>
    let va := (s.readG a).toNat
    let vb := (s.readG b).toNat
    let s0 := bits vb 3 0
    let n := if bits vb 11 8 = 0 then 16 else bits vb 11 8
    let seq := (List.range n).map fun t => (s0 + t) % 16
    if !holdsSlot s va then .trap 0x07 (s.readG a)
    else if slotDesc s va != recurDesc true then .trap 0x07 (s.readG a)
    else if bits vb 63 12 != 0 || bits vb 7 4 != 0 || seq.contains va
        || !seq.all (fun k => holdsSlot s k && slotDesc s k == recurDesc false) then .trap 0x07 (s.readG b)
    else queueMat s (.recur acc va s0 n)) s

/-- mread (R239): its rounding and `SATF` are mrdcfg's as they stand at the word. -/
def execMread (p : Pr) (d a b : Reg) (s : State) : Outcome :=
  matWord p d [a, b] (fun s acc =>
    let va := (s.readG a).toNat
    let vb := (s.readG b).toNat
    let fmt := bits vb 5 0
    let slot := bit vb 32
    if bits vb 63 33 != 0 || bits vb 7 6 != 0 || !fmtValid fmt then .trap 0x07 (s.readG b)
    else if slot && !holdsSlot s va then .trap 0x07 (s.readG a)
    else if slot && !slotFormat fmt then .trap 0x07 (s.readG b)
    else if !slot && va % fmtBytes fmt != 0 then .trap 0x07 (s.readG a)
    else queueMat s (.read acc va slot fmt (bits vb 31 16) (sgn 8 (bits vb 15 8)) (s.thr.mrdcfg.toNat % 4) (s.thr.mrdcfg.getLsbD 2))) s

end Sys2Proof.Machine
end

