-- ==== Sys2Proof/Machine/Copy.lean ====
section
/-! DEFINITION. The copy engine (R241 to R244, R319 to R321). -/

namespace Sys2Proof.Machine

/-! ### The parameter block (R242) -/

def cSrc (b : Block) : Nat := fld8 b 0
def cDst (b : Block) : Int := sgn 64 (fld8 b 8)
def cRlen (b : Block) : Nat := fld b 0x10 31 0
def cNrow (b : Block) : Nat := fld b 0x14 31 0
def cSstr (b : Block) : Int := sgn 64 (fld8 b 0x18)
def cDstr (b : Block) : Int := sgn 64 (fld8 b 0x20)
def cStamp (b : Block) : Nat := fld8 b 0x28
def cStval (b : Block) : Nat := fld8 b 0x30
def cKind (b : Block) : Nat := fld b 0x38 31 28
def cSlot (b : Block) : Nat := fld b 0x38 27 24

/-- The bytes of a copy's payload. -/
def cTotal (b : Block) : Nat := cRlen b * cNrow b

/-- The cache hints of a copy's accesses (R339). -/
def cTouch (b : Block) (t : Touch) : Touch := { t with na := bit (fld b 0x38 31 0) 19, evf := bit (fld b 0x38 31 0) 18 }

/-- Is a copy block valid for thread `t`: ranges, alignment, reserved fields, and the extent of a slot destination that
the thread holds (R242)? -/
def copyValid (w : World) (t : Nat) (b : Block) : Bool :=
  let lim : Int := if cKind b = 1 then 8192 else 256
  let span := ((cNrow b : Int) - 1) * cDstr b
  let dst : Int := fld8 b 8
  fld b 0x38 17 0 == 0 && fld b 0x3C 31 0 == 0 && decide (cKind b ≤ 2)
    && decide (1 ≤ cRlen b ∧ cRlen b ≤ 2 ^ 24) && decide (1 ≤ cNrow b ∧ cNrow b ≤ 2 ^ 20)
    && cStamp b % 8 == 0 && cStval b / 2 ^ 62 == 0
    && (cKind b == 0 || ((w.slotOp (16 * coreOf t + cSlot b)).phase == .claimed t
        && decide (0 ≤ dst + min 0 span) && decide (dst + max 0 span + cRlen b ≤ lim)))

/-! ### Moving bytes -/

/-- Source and destination of payload byte `p`. DEDUCED: log 29. -/
def copySrc (b : Block) (p : Nat) : Nat := wrap 64 ((cSrc b : Int) + (p / cRlen b : Nat) * cSstr b + (p % cRlen b : Nat))
/-- DEDUCED: log 29. -/
def copyDst (b : Block) (p : Nat) : Int := (fld8 b 8 : Int) + (p / cRlen b : Nat) * cDstr b + (p % cRlen b : Nat)

/-- How many payload bytes from `p` on, `n` at most, go in order to bytes of granule `g` not among `seen`. -/
def sameGranule (b : Block) (g : Int) : Nat → Nat → List Int → Nat
  | 0, _, _ => 0
  | n + 1, p, seen =>
    let a := copyDst b p
    if cTotal b ≤ p ∨ a / 32 ≠ g ∨ seen.contains a = true then 0 else 1 + sameGranule b g n (p + 1) (a :: seen)

/-- The payload bytes that are performed together from byte `p` on: those of one aligned destination granule, of however many rows, so that
no granule is torn (R242). -/
def pieceLen (b : Block) (p : Nat) : Nat := sameGranule b (copyDst b p / 32) 32 p []

/-- The rows that `n` payload bytes from `p` on lie in: first byte and length. -/
def pieceRows (b : Block) : Nat → Nat → Nat → List (Nat × Nat)
  | 0, _, _ => []
  | k + 1, p, n =>
    let m := min n (cRlen b - p % cRlen b)
    if n = 0 then [] else (p, m) :: pieceRows b k (p + m) (n - m)

/-- The bytes given for places of a granule, as runs: the place of the first, and the bytes. -/
def granuleRuns (t : Tab Byte) : List (Nat × List Byte) :=
  (List.range 32).foldl (fun rs i =>
    if tabHas i t then
      let v := tabGet 0 i t
      match rs.getLast? with
      | some (o, bs) => if o + bs.length = i then rs.dropLast ++ [(o, bs ++ [v])] else rs ++ [(i, [v])]
      | none => [(i, [v])]
    else rs) []

/-- Write bytes into a slot's data, or its sideband. -/
def writeSlot (x : Slot) (side : Bool) (o : Nat) (bs : List Byte) : Slot :=
  let put (t : Tab Byte) : Tab Byte :=
    bs.zipIdx.foldl (fun t (b, i) => if b = 0 then tabDel (o + i) t else tabSet (o + i) b t) t
  if side then { x with side := put x.side } else { x with data := put x.data }

/-- The source bytes of a piece, row by row: the destination place in the granule of each, or the fault. -/
def loadPiece (w : World) (k : Nat) (x : CopyCmd) : List (Nat × Nat) → Tab Byte → World × Except MemFault (Tab Byte)
  | [], t => (w, .ok t)
  | (p, n) :: rest, t =>
    match nodeLoad w (.copy (k / 4)) (w.thread x.thread).task x.sp (cTouch x.blk Touch.load) (copySrc x.blk p) n with
    | (w, .error f) => (w, .error f)
    | (w, .ok bs) =>
      loadPiece w k x rest (bs.zipIdx.foldl (fun t (v, i) => tabSet (copyDst x.blk (p + i) % 32).toNat v t) t)

/-- Store the runs of a granule whose first place is destination byte `a`, or the fault. -/
def storePiece (w : World) (k : Nat) (x : CopyCmd) (p : Nat) (a : Int) : List (Nat × List Byte) → World × Except MemFault Unit
  | [] => (w, .ok ())
  | (o, bs) :: rest =>
    if cKind x.blk = 0 then
      match nodeStore w (.copy (k / 4)) (w.thread x.thread).task x.sp (cTouch x.blk Touch.store) (wrap 64 (a + o)) bs with
      | (w, .error f) => (w, .error f)
      | (w, .ok lost) => storePiece (noteLost w x.thread (k / 4) x.sp 1 (k % 4) p (Nat.log2 (pieceLen x.blk p)) lost) k x p a rest
    else
      let s := 16 * (k / 4) + cSlot x.blk
      storePiece (w.setSlotOp s (writeSlot (w.slotOp s) (cKind x.blk == 2) (a + o).toNat bs)) k x p a rest

/-- Perform the piece of a copy that begins at payload byte `p` (R242): the machine after it, or the fault, with whether
it met a load or a store. -/
def copyPiece (w : World) (k : Nat) (x : CopyCmd) (p : Nat) : World × Except (MemFault × Nat) Unit :=
  match loadPiece w k x (pieceRows x.blk 32 p (pieceLen x.blk p)) [] with
  | (w, .error f) => (w, .error (f, 0))
  | (w, .ok t) =>
    match storePiece w k x p (copyDst x.blk p / 32 * 32) (granuleRuns t) with
    | (w, .error f) => (w, .error (f, 1))
    | (w, .ok _) => (w, .ok ())

/-- Perform pieces of the copy in progress on channel `k` until `n` bytes or more have moved, one faults, or a budget does not admit the
next (R141). -/
def moveBytes : Nat → World → Nat → CopyCmd → Nat → World
  | 0, w, _, _, _ => w
  | fuel + 1, w, k, x, n =>
    let ch := w.channel k
    if n = 0 ∨ cTotal x.blk ≤ ch.pos then w
    else match copyPiece w k x ch.pos with
      | (_, .error _) => w
      | (w', .ok _) =>
        let m := pieceLen x.blk ch.pos
        if w.overrun w w' then w
        else moveBytes fuel (w'.setChannel k { w'.channel k with pos := ch.pos + m, met := false }) k x (n - m)

/-- The channel's next copy, when it may begin (R207, R372). DEDUCED: log 75. -/
def nextCopy (w : World) (k : Nat) : Option CopyCmd :=
  let ch := w.channel k
  match ch.cur, ch.queue with
  | none, x :: _ => if x.cancelled || mayStart w x.thread x.seq (k % 4) then some x else none
  | _, _ => none

/-- COPY_BEGIN: an idle channel begins its next queued copy; `n` payload bytes of the copy in progress, or whole granules
beyond, are performed (R141, R242, R319). -/
def execCopyBegin (k n : Nat) (s : State) : Outcome :=
  event (fun w =>
    if (w.die (dieOf (k / 4))).off then w else
    let w := match nextCopy w k with
      | some x => let ch := w.channel k
                  w.setChannel k { queue := ch.queue.tail, cur := some x, pos := 0, stalled := false, met := false }
      | none => w
    let ch := w.channel k
    match ch.cur with
    | none => w
    | some x => if x.cancelled || ch.stalled then w else moveBytes n w k x n) s

/-- The stamp that a copy writes (R242, R244). -/
def stampValue (x : CopyCmd) : Nat := cStval x.blk + if x.cancelled then 2 ^ 62 + 2 ^ 63 else 0

/-- A copy's follow-on enters the matrix queue, behind whatever it holds (R243). DEDUCED: log 72. -/
def issueFollow (w : World) (k : Nat) (x : CopyCmd) : World :=
  match x.follow with
  | none => w
  | some op =>
    let m := w.matrix (k / 4)
    w.setMatrix (k / 4) { m with queue := m.queue ++ [{ thread := x.thread, sp := x.sp, seq := 0, op := op }] }

/-- COPY_COMPLETION_POINT: every payload byte is performed, or the copy is cancelled: the stamp, the event flag, the
follow-on (R242 to R244). -/
def execCopyCompletionPoint (k : Nat) (s : State) : Outcome :=
  event (budgeted fun w =>
    let ch := w.channel k
    match ch.cur with
    | none => w
    | some x =>
      if ch.stalled || (w.die (dieOf (k / 4))).off || !(x.cancelled || decide (cTotal x.blk ≤ ch.pos)) then w
      else
        let fin (w : World) : World :=
          issueFollow (setFlag (w.setChannel k { w.channel k with cur := none, pos := 0, met := false }) x.thread) k x
        if cStamp x.blk = 0 then fin w
        else match nodeStore w (.copy (k / 4)) (w.thread x.thread).task x.sp Touch.store (cStamp x.blk) (leBytes 8 (stampValue x)) with
          | (_, .error _) => w
          | (w, .ok lost) => noteLost (fin w) x.thread (k / 4) x.sp 1 (k % 4) ch.pos 3 lost) s

/-! ### The write pointer (R320) -/

/-- The destination granules of bytes `o` on of row `r`. -/
def granules (b : Block) (r o n : Nat) : Int × Int :=
  let a := (fld8 b 8 : Int) + r * cDstr b + o
  (a / 32, (a + n - 1) / 32)

/-- The granules that a copy with `d` bytes performed has still to write, row by row. -/
def granulesLeft (b : Block) (d : Nat) : List (Int × Int) :=
  let r := d / cRlen b
  granules b r (d % cRlen b) (cRlen b - d % cRlen b)
    :: (List.range (cNrow b - r - 1)).map fun i => granules b (r + 1 + i) 0 (cRlen b)

/-- The write pointer of a copy with `d` bytes performed (R320). -/
def writePointer (b : Block) (d : Nat) : Nat :=
  if cTotal b ≤ d then cTotal b
  else
    let left := granulesLeft b d
    let firstHit (r : Nat) : Option Nat :=
      let n := if r < d / cRlen b then cRlen b else d % cRlen b
      if n = 0 then none
      else
        let (lo, hi) := granules b r 0 n
        let hits := left.filterMap fun (l, h) => if lo ≤ h ∧ l ≤ hi then some (max lo l) else none
        match hits with
        | [] => none
        | g :: gs => some (r * cRlen b + ((gs.foldl min g) * 32 - ((fld8 b 8 : Int) + r * cDstr b)).toNat)
    ((List.range (d / cRlen b + 1)).findSome? firstHit).getD d

/-- What `cpwp` reads of channel `k` (R241). -/
def copyPointer (w : World) (k : Nat) : Word :=
  let ch := w.channel k
  match ch.cur, ch.queue with
  | some x, _ => BitVec.ofNat 64 (cStval x.blk % 2 ^ 16 * 2 ^ 48 + writePointer x.blk ch.pos % 2 ^ 48)
  | none, x :: _ => BitVec.ofNat 64 (cStval x.blk % 2 ^ 16 * 2 ^ 48)
  | none, [] => BitVec.allOnes 64

/-! ### The CPY words (R241) -/

/-- Queue a copy on channel `k`; a full queue holds the commit (R222). -/
def queueCopy (s : State) (k : Nat) (b : Block) (follow : Option MatOp) : Res :=
  let ch := s.w.channel k
  if 8 ≤ ch.queue.length then .hold s .room
  else
    let (w, n) := takeSeq s.w
    .ok { s with w := w.setChannel k { ch with queue := ch.queue ++
      [{ thread := s.turn, sp := wordSpace s, seq := n, blk := b, follow := follow, cancelled := false }] } }

/-- Read and check the copy block at gA (R221, R242). -/
def withCopyBlock (s : State) (va : Word) (f : State → Block → Res) : Res :=
  match loadNum s .load .acqRel Touch.load va 64 with
  | (_, .error t) => .trap t.code t.val
  | (s, .ok b) => if copyValid s.w s.turn (BitVec.ofNat 512 b) then f s (BitVec.ofNat 512 b) else .trap 0x07 va

/-- A word that names a channel in gD (R241). -/
def chanWord (p : Pr) (d : Reg) (gs : List Reg) (f : State → Nat → Res) (s : State) : Outcome :=
  word 1 p (use .other (d :: gs) []) (fun s =>
    let v := (s.readG d).toNat
    if 4 ≤ v then .trap 0x07 (s.readG d) else f s (4 * s.core + v)) s

def execCpy (p : Pr) (d a : Reg) (s : State) : Outcome :=
  chanWord p d [a] (fun s k => withCopyBlock s (s.readG a) fun s b => queueCopy s k b none) s

/-- cpym: a copy into a slot with a follow-on tile (R243). The checks that need no block come before the block is read (R259). -/
def execCpym (p : Pr) (d a b : Reg) (s : State) : Outcome :=
  chanWord p d [a, b] (fun s k =>
    let v := (s.readG b).toNat
    let sa := bits v 7 4
    let sb := bits v 11 8
    if bits v 63 13 != 0 || bits v 3 2 != 0 || !holdsSlot s sa || !holdsSlot s sb || !tileArgs s sa sb (bit v 12) then
      .trap 0x07 (s.readG b)
    else withCopyBlock s (s.readG a) fun s blk =>
      if cKind blk == 0 then .trap 0x07 (s.readG a)
      else queueCopy s k blk (some (.tile (v % 4) sa sb (slotDesc s sa) (slotDesc s sb)))) s

/-- cpwp: a status read, after which the bytes below the pointer are visible (R241, R320). -/
def execCpwp (p : Pr) (d a : Reg) (s : State) : Outcome :=
  word 1 p (use .other [a] [d]) (fun s =>
    let v := (s.readG a).toNat
    if 4 ≤ v then .trap 0x07 (s.readG a) else .ok (s.writeG d (copyPointer s.w (4 * s.core + v)))) s

/-- cpcancel: the thread's copies on the channel are cancelled, with their follow-ons; a stamp that stands stalled stays so, for R263
(R244). DEDUCED: log 75. -/
def cancelCopies (w : World) (k t : Nat) : World :=
  let ch := w.channel k
  let cut (x : CopyCmd) : CopyCmd := if x.thread = t then { x with cancelled := true, follow := none } else x
  let mine := match ch.cur with
    | some x => x.thread == t && !x.cancelled && decide (ch.pos < cTotal x.blk)
    | none => false
  w.setChannel k { ch with queue := ch.queue.map cut, cur := ch.cur.map cut, stalled := ch.stalled && !mine, met := ch.met && !mine }

def execCpcancel (p : Pr) (d : Reg) (s : State) : Outcome :=
  chanWord p d [] (fun s k => .ok { s with w := cancelCopies s.w k s.turn }) s

end Sys2Proof.Machine
end

