-- ==== Sys2Proof/Machine/Csr.lean ====
section
/-! DEFINITION. The CSR words (R6, R176, R214, R215). -/

namespace Sys2Proof.Machine

/-- The CSRs of R176. -/
inductive Csr where
  | tstat | tcause | tepc | tidx | tval | thand | tscratch
  | frm | fflags | cycle | blkret | tid | cid | did | mrdcfg | mstat | ctxid | asid | ptbase | fltrec | fltcnt | bgtcur
  deriving DecidableEq, Repr

/-- The CSR of a number (R176). -/
def csrOf (n : BitVec 10) : Option Csr :=
  match n.toNat with
  | 0x000 => some .tstat
  | 0x001 => some .tcause
  | 0x002 => some .tepc
  | 0x003 => some .tidx
  | 0x004 => some .tval
  | 0x005 => some .thand
  | 0x006 => some .tscratch
  | 0x010 => some .frm
  | 0x011 => some .fflags
  | 0x020 => some .cycle
  | 0x021 => some .blkret
  | 0x030 => some .tid
  | 0x031 => some .cid
  | 0x032 => some .did
  | 0x040 => some .mrdcfg
  | 0x041 => some .mstat
  | 0x050 => some .ctxid
  | 0x051 => some .asid
  | 0x052 => some .ptbase
  | 0x060 => some .fltrec
  | 0x061 => some .fltcnt
  | 0x070 => some .bgtcur
  | _ => none

/-- The bits of the RW fields of a CSR (R215). -/
def Csr.rw : Csr → Word
  | .tstat => 0xD
  | .tcause => 0xFF
  | .tepc => ~~~0x7F
  | .tidx => 0x7F
  | .tval => ~~~0
  | .thand => ~~~0x7F
  | .tscratch => ~~~0
  | .frm => 0x1F03
  | .fflags => 0x1F
  | .mrdcfg => 0x7
  | .mstat => 0x100
  | .asid => 0xFFFF
  | .ptbase => 0x000FFFFFFFFE0000
  | .fltrec => ~~~0xFFF
  | .fltcnt => 0xFFFFFFFF
  | .bgtcur => 0x3
  | .cycle | .blkret | .tid | .cid | .did | .ctxid => 0

/-- The bits of the W1C fields of a CSR (R215). -/
def Csr.w1c : Csr → Word
  | .mstat => 0x3F
  | .fltcnt => 0x100000000
  | _ => 0

/-- Is the CSR one of the trap CSRs tstat to tscratch (R176)? -/
def Csr.isTrap : Csr → Bool
  | .tstat | .tcause | .tepc | .tidx | .tval | .thand | .tscratch => true
  | _ => false

/-- The count that bgtcur shows: the activity charged this period at the task's own node (R215). -/
def budgetCount (w : World) (th : Thread) : Nat :=
  match (w.pathOf th.task).head? with
  | some k => (w.node k).cnt.getD th.bgtSel.toNat 0
  | none => 0

/-- The value of a CSR of the thread whose turn it is (R214, R215). -/
def readCsr (s : State) (c : Csr) : Word :=
  let th := s.thr
  match c with
  | .tstat => th.tstat
  | .tcause => th.tcause
  | .tepc => th.tepc
  | .tidx => th.tidx
  | .tval => th.tval
  | .thand => th.thand
  | .tscratch => th.tscratch
  | .frm => th.frm
  | .fflags => th.fflags
  | .cycle => BitVec.ofNat 64 s.w.cycle
  | .blkret => th.blkret
  | .tid => BitVec.ofNat 64 (s.turn % 4)
  | .cid => BitVec.ofNat 64 (cidLayout s.core)
  | .did => BitVec.ofNat 64 s.die
  | .mrdcfg => th.mrdcfg
  | .mstat => (s.w.core s.core).mstat
  | .ctxid => th.ctxid
  | .asid => th.asid
  | .ptbase => th.ptbase
  | .fltrec => th.fltrec
  | .fltcnt => th.fltcnt
  | .bgtcur => BitVec.ofNat 64 ((min (budgetCount s.w th) 0xFFFFFFFF) * 2 ^ 32) + (th.bgtSel &&& 3)

/-- Put a value into a CSR that software writes. -/
def putCsr (s : State) (c : Csr) (v : Word) : State :=
  let th := s.thr
  match c with
  | .tstat => s.setThr { th with tstat := v }
  | .tcause => s.setThr { th with tcause := v }
  | .tepc => s.setThr { th with tepc := v }
  | .tidx => s.setThr { th with tidx := v }
  | .tval => s.setThr { th with tval := v }
  | .thand => s.setThr { th with thand := v }
  | .tscratch => s.setThr { th with tscratch := v }
  | .frm => s.setThr { th with frm := if bits v.toNat 10 8 = 0 then (th.frm &&& ~~~3) ||| (v &&& 3) else v }
  | .fflags => s.setThr { th with fflags := v }
  | .mrdcfg => s.setThr { th with mrdcfg := v }
  | .mstat => { s with w := s.w.setCore s.core { s.w.core s.core with mstat := v } }
  | .asid => s.setThr { th with asid := v }
  | .ptbase => s.setThr { th with ptbase := v }
  | .fltrec => s.setThr { th with fltrec := v }
  | .fltcnt => s.setThr { th with fltcnt := v }
  | .bgtcur => s.setThr { th with bgtSel := v &&& 3 }
  | .cycle | .blkret | .tid | .cid | .did | .ctxid => s

/-- The value a write leaves: `v` in the RW fields, the W1C bits of `clear` cleared, every other bit as it stood (R6, R214). -/
def csrNext (c : Csr) (old v clear : Word) : Word :=
  (old &&& ~~~(c.rw ||| c.w1c)) ||| (v &&& c.rw) ||| (old &&& c.w1c &&& ~~~clear)

/-- The bits that a write of a CSR clears: of mstat's, a command that sets one in the same cycle prevails (R312).
DEDUCED: log 115. -/
def clears (s : State) (c : Csr) (v : Word) : Word :=
  if c = .mstat then (setNow s.w s.core).foldl (fun v x => v &&& ~~~(1#64 <<< x.1)) v else v

/-- A bit of mstat that stays set so raises its event, with `OTE` set after the write, unless it has been raised (R312).
DEDUCED: log 115. -/
def raiseKept (s : State) (c : Csr) (v : Word) : State :=
  if c = .mstat then
    { s with w := (setNow s.w s.core).foldl (fun w (i, t, r) =>
        let k := w.core s.core
        if v.getLsbD i && !r && k.mstat.getLsbD 8 then
          raise (w.setCore s.core { k with satSets := tabSet i (w.cycle, t, true) k.satSets }) t 0x40 k.mstat
        else w) s.w }
  else s

/-- Does an access take the privilege trap in user mode (R134, R176)? -/
def csrPrivileged (c : Csr) (write : Bool) : Bool :=
  c == .asid || c == .ptbase || (write && c.isTrap)

/-- A CSR write: gD := the old value, and the new value by the access codes; in user mode fltrec and fltcnt ignore
writes (R214). -/
def csrWrite (f : Word → Word → Word) (g : Word → Word) (p : Pr) (d a : Reg) (csr : BitVec 10) (s : State) : Outcome :=
  word 1 p (quiet (use .other [a] [d])) (fun s =>
    match csrOf csr with
    | none => .trap 0x02 s.wordVal
    | some c =>
      if !s.thr.sup && csrPrivileged c true then .trap 0x03 s.wordVal
      else
        let old := readCsr s c
        let v := s.readG a
        let s := if !s.thr.sup && (c == .fltrec || c == .fltcnt) then s
          else raiseKept (putCsr s c (csrNext c old (f old v) (clears s c (g v)))) c (g v)
        .ok (s.writeG d old)) s

/-- csrr: gD := the CSR as it stands (R214). -/
def execCsrr (p : Pr) (d : Reg) (csr : BitVec 10) (s : State) : Outcome :=
  word 1 p (quiet (use .other [] [d])) (fun s =>
    match csrOf csr with
    | none => .trap 0x02 s.wordVal
    | some c =>
      if !s.thr.sup && csrPrivileged c false then .trap 0x03 s.wordVal
      else .ok (s.writeG d (readCsr s c))) s

def execCsrw (p : Pr) (d a : Reg) (csr : BitVec 10) (s : State) : Outcome := csrWrite (fun _ v => v) id p d a csr s
def execCsrs (p : Pr) (d a : Reg) (csr : BitVec 10) (s : State) : Outcome := csrWrite (fun old v => old ||| v) id p d a csr s
def execCsrc (p : Pr) (d a : Reg) (csr : BitVec 10) (s : State) : Outcome :=
  csrWrite (fun old v => old &&& ~~~v) (fun _ => 0) p d a csr s

end Sys2Proof.Machine
end

