-- ==== Sys2Proof/Machine/Sluice.lean ====
section
/-! DEFINITION. The Sluice (R245 to R248, R322 to R326). -/

namespace Sys2Proof.Machine

/-! ### The histogram (R324, R325) -/

/-- The bin of an index. -/
def zBin (b : Block) (idx : Nat) : Nat := idx / 2 ^ zHsh b % 64

/-- A copy that the Sluice issues enters its channel (R248, R325). -/
def issueArmed (w : World) (c : Nat) (chan : Nat) (x : CopyCmd) : World :=
  let (w, n) := takeSeq w
  let k := 4 * c + chan
  let ch := w.channel k
  w.setChannel k { ch with queue := ch.queue ++ [{ x with seq := n }] }

/-- Count a drained entry; an armed bin whose count leaves zero issues its copy. -/
def countEntry (w : World) (c idx : Nat) : World :=
  let z := w.sluice c
  let b := zBin z.blk idx
  let n := tabGet 0 b z.counts
  let t := z.owner.getD 0
  let w := if n = 0xFFFF then setSaturation (w.setSluice c { z with ovf := z.ovf ||| 2 ^ b }) c t 4
    else w.setSluice c { z with counts := tabSet b (n + 1) z.counts }
  let w := if n = 0 ∧ tabHas b z.arms then
      match z.arms.find? (·.1 == b) with
      | some (_, chan, x) => issueArmed (w.setSluice c { w.sluice c with arms := tabDel b z.arms }) c chan x
      | none => w
    else w
  let z := w.sluice c
  if z.sum = 0xFFFFFFFF then setSaturation (w.setSluice c { z with sumOvf := true }) c t 5
  else w.setSluice c { z with sum := z.sum + 1 }

/-- The 264 bytes of a histogram image (R247). -/
def histImage (z : Sluice) : List Byte :=
  wordBytes 4 ((List.range 64).map fun b => tabGet 0 b z.counts + if bit z.ovf b then 2 ^ 16 else 0)
    ++ leBytes 4 z.sum ++ leBytes 4 ((if z.ovf != 0 then 1 else 0) + if z.sumOvf then 2 else 0)

/-- The counts, the overflow bits and the sum are zero. -/
def Sluice.clearHist (z : Sluice) : Sluice := { z with counts := [], ovf := 0, sum := 0, sumOvf := false }

/-! ### Acceptance (R245, R322) -/

/-- The agent that the Sluice is, and the task it works for. -/
def selReach (c : Nat) : Reach := .engine c
def selTask (w : World) (t : Nat) : Option Nat := (w.thread t).task

/-- Take effect of a command at the head of the queue; none when it cannot be accepted yet. A command that finds the
unit unconfigured is discarded (R245). DEDUCED: log 77. -/
def acceptCmd (w : World) (c : Nat) (x : SelCmd) : Option World :=
  let z := w.sluice c
  let z' := { z with queue := z.queue.tail }
  if !mayStart w x.thread x.seq 5 then none
  else match x.op with
    | .cfg b => some (w.setSluice c { z' with on := true, blk := b, sp := x.sp, pairs := [], counts := [], ovf := 0, sum := 0, sumOvf := false
                                              arms := [], drains := 0, posted := 0 })
    | .put score idx => some (w.setSluice c (if z.on then z'.enter score idx else z'))
    | .drain final release => some (w.setSluice c (if z.on then { z' with drain := some (final, release, x.seq), posted := 0 } else z'))
    | .hist va clear =>
      if !z.on then some (w.setSluice c z')
      else match nodeStore w (selReach c) (selTask w x.thread) x.sp Touch.store va (histImage z) with
        | (_, .error _) => none
        | (w, .ok lost) => some (noteLost (w.setSluice c { (if clear then z'.clearHist else z') with met := false }) x.thread c x.sp 4 0 0 3 lost)
    | .arm bin chan b =>
      let y : CopyCmd := { thread := x.thread, sp := x.sp, seq := x.seq, blk := b, follow := none, cancelled := false }
      if !z.on then some (w.setSluice c z')
      else if tabGet 0 bin z.counts != 0 then some (issueArmed (w.setSluice c { z' with arms := tabDel bin z.arms }) c chan y)
      else some (w.setSluice c { z' with arms := tabSet bin (chan, y) z.arms })
    | .topk .. => some (w.setSluice c (if z.on then { z' with run := some (x, 0) } else z'))

/-- The next pair of a `topk` enters, or its own drain is accepted (R322). DEDUCED: log 77. -/
def topkStep (w : World) (c : Nat) (x : SelCmd) (i : Nat) : World :=
  let z := w.sluice c
  match x.op with
  | .topk va n drain final release =>
    if n ≤ i then w.setSluice c { z with run := none, drain := if drain then some (final, release, x.seq) else none, posted := 0 }
    else match nodeLoad w (selReach c) (selTask w x.thread) x.sp Touch.load (va + 4 * i) 4 with
      | (_, .error _) => w
      | (w, .ok bs) => w.setSluice c { z.enter (leNat bs) i with run := some (x, i + 1), met := false }
  | _ => w.setSluice c { z with run := none }

/-- SLUICE_ACCEPT: one command is accepted, or one pair of a `topk` (R207, R322); a `selin` pair is accepted as the element fires. -/
def execSluiceAccept (c : Nat) (s : State) : Outcome :=
  event (budgeted fun w =>
    let z := w.sluice c
    if z.stalled || z.drain.isSome || (w.die (dieOf c)).off then w
    else match z.run, z.queue with
      | some (x, i), _ => topkStep w c x i
      | none, x :: _ => (acceptCmd w c x).getD w
      | none, [] => w) s

/-! ### The drain (R247, R326) -/

/-- The 8 bytes of each entry of a drained row, padding to k (R247). -/
def rowImage (z : Sluice) : List Byte :=
  wordBytes 8 (z.pairs.map fun (score, idx) => score * 2 ^ 32 + idx)
    ++ wordBytes 8 (List.replicate (zK z.blk - z.pairs.length) 0x7FF00000FFFFFFFF)

/-- Steps 1 and 2 of a drain, and the image of a final one; the machine, or the fault (R247). -/
def drainRow (w : World) (c : Nat) (final : Bool) : World × Except MemFault Unit :=
  let z := w.sluice c
  let t := z.owner.getD 0
  match nodeStore w (selReach c) (selTask w t) z.sp Touch.store (zOut z.blk + zOstr z.blk * z.drains) (rowImage z) with
  | (w, .error f) => (w, .error f)
  | (w, .ok lost) =>
    let w := noteLost w t c z.sp 4 0 0 3 lost
    let w := if zHen z.blk then z.pairs.foldl (fun w p => countEntry w c p.2) w else w
    let w := w.setSluice c { w.sluice c with pairs := [], posted := 1, met := false }
    if final ∧ zHist z.blk ≠ 0 then
      match nodeStore w (selReach c) (selTask w t) z.sp Touch.store (zHist z.blk) (histImage (w.sluice c)) with
      | (w, .error f) => (w, .error f)
      | (w, .ok lost) => (noteLost w t c z.sp 4 0 0 3 lost, .ok ())
    else (w, .ok ())

/-- Offer the launch records of the non-empty bins from `b` on; stop where one cannot be read or accepted (R326). -/
def postRecords : Nat → World → Nat → World
  | 0, w, _ => w
  | n + 1, w, c =>
    let b := 63 - n
    let z := w.sluice c
    if b + 1 < z.posted then postRecords n w c
    else if tabGet 0 b z.counts = 0 then postRecords n (w.setSluice c { z with posted := b + 2 }) c
    else match nodeLoad w (selReach c) (selTask w (z.owner.getD 0)) z.sp Touch.load (zLtmp z.blk + 64 * b) 64 with
      | (_, .error _) => w
      | (w, .ok bs) =>
        let i : Inbound := { launch := BitVec.ofNat 512 (leNat bs), sp := z.sp, queue := none, after := none }
        if accepts w (dieOf c) i then
          let w := acceptRecord w (dieOf c) i
          postRecords n (w.setSluice c { w.sluice c with posted := b + 2, met := false }) c
        else w

/-- The stamp, and what ends a drain (R247). -/
def drainEnd (w : World) (c : Nat) (final release : Bool) : World :=
  let z := w.sluice c
  match nodeStore w (selReach c) (selTask w (z.owner.getD 0)) z.sp Touch.store (zStamp z.blk) (leBytes 8 (z.drains + 1)) with
  | (_, .error _) => w
  | (w, .ok lost) =>
    let w := noteLost w (z.owner.getD 0) c z.sp 4 0 0 3 lost
    let z := w.sluice c
    let z := if final then { z.clearHist with arms := [] } else z
    let z := { z with drain := none, posted := 0, drains := z.drains + 1, met := false }
    let again := z.queue.any fun x => match x.op with
      | .cfg _ => true
      | _ => false
    w.setSluice c (if release then { z with on := false, owner := if again then z.owner else none } else z)

/-- SLUICE_DRAIN: the row, the histogram, the launch records and the stamp of a drain (R247, R326). -/
def execSluiceDrain (c : Nat) (s : State) : Outcome :=
  event (budgeted fun w =>
    let z := w.sluice c
    match z.drain with
    | none => w
    | some (final, release, _) =>
      if z.stalled || (w.die (dieOf c)).off then w
      else
        let begun : World × Bool := if z.posted = 0 then
            (match drainRow w c final with
             | (w', .ok _) => (w', true)
             | (_, .error _) => (w, false))
          else (w, true)
        if !begun.2 then w
        else
          let w := begun.1
          let post := final && zLren z.blk && zLtmp z.blk != 0
          let w := if post then postRecords 64 w c else w
          if post && (w.sluice c).posted != 65 then w else drainEnd w c final release) s

/-! ### The SEL words (R245) -/

/-- Queue a command of the Sluice; a full queue holds the commit (R222). DEDUCED: log 16. -/
def queueSel (s : State) (op : SelOp) : Res :=
  let z := s.w.sluice s.core
  if 16 ≤ z.queue.length then .hold s .room
  else
    let (w, n) := takeSeq s.w
    .ok { s with w := w.setSluice s.core { z with queue := z.queue ++ [{ thread := s.turn, sp := wordSpace s, seq := n, op := op }] } }

/-- A word of the thread that configured the Sluice (R224, R245). -/
def selWord (p : Pr) (d : Reg) (gs : List Reg) (f : State → Res) (s : State) : Outcome :=
  word 1 p (use .other (d :: gs) []) (fun s =>
    if (s.w.sluice s.core).owner ≠ some s.turn then .trap 0x07 (s.readG d) else f s) s

/-- selcfg: held while another thread's configuration stands; the later words of the block see the unit as the thread's (R245).
DEDUCED: log 16. -/
def execSelcfg (p : Pr) (d : Reg) (s : State) : Outcome :=
  word 1 p (use .other [d] []) (fun s =>
    match loadNum s .load .acqRel Touch.load (s.readG d) 64 with
    | (_, .error t) => .trap t.code t.val
    | (s, .ok b) =>
      let z := s.w.sluice s.core
      if !selValid (BitVec.ofNat 512 b) then .trap 0x07 (s.readG d)
      else if z.owner.isSome && z.owner != some s.turn then
        .hold { s with w := s.w.setSluice s.core { z with owner := some s.turn } } .room
      else match queueSel s (.cfg (BitVec.ofNat 512 b)) with
        | .ok s => .ok { s with w := s.w.setSluice s.core { s.w.sluice s.core with owner := some s.turn } }
        | x => x) s

def execSelput (p : Pr) (d a : Reg) (s : State) : Outcome :=
  selWord p d [a] (fun s =>
    if 2 ^ 32 ≤ (s.readG d).toNat then .trap 0x07 (s.readG d)
    else if 2 ^ 32 ≤ (s.readG a).toNat then .trap 0x07 (s.readG a)
    else queueSel s (.put (s.readG d).toNat (s.readG a).toNat)) s

def execSeldrain (p : Pr) (d : Reg) (s : State) : Outcome :=
  selWord p d [] (fun s =>
    let v := (s.readG d).toNat
    if 4 ≤ v then .trap 0x07 (s.readG d) else queueSel s (.drain (bit v 1) (bit v 0))) s

def execSelhist (p : Pr) (d a : Reg) (s : State) : Outcome :=
  selWord p d [a] (fun s =>
    if (s.readG a).toNat % 8 != 0 then .trap 0x07 (s.readG a)
    else if 2 ≤ (s.readG d).toNat then .trap 0x07 (s.readG d)
    else queueSel s (.hist (s.readG a).toNat (bit (s.readG d).toNat 0))) s

def execSelarm (p : Pr) (d a : Reg) (s : State) : Outcome :=
  selWord p d [a] (fun s =>
    let v := (s.readG d).toNat
    if bits v 63 10 != 0 || bits v 7 6 != 0 then .trap 0x07 (s.readG d)
    else withCopyBlock s (s.readG a) fun s b => queueSel s (.arm (bits v 5 0) (bits v 9 8) b)) s

def execTopk (p : Pr) (d a : Reg) (s : State) : Outcome :=
  selWord p d [a] (fun s =>
    let v := (s.readG a).toNat
    if (s.readG d).toNat % 4 != 0 then .trap 0x07 (s.readG d)
    else if bits v 63 35 != 0 || decide (2 ^ 24 < bits v 31 0) then .trap 0x07 (s.readG a)
    else queueSel s (.topk (s.readG d).toNat (bits v 31 0) (bit v 32) (bit v 33) (bit v 34))) s

end Sys2Proof.Machine
end

