-- ==== Sys2Proof/Machine/Sync.lean ====
section
/-! DEFINITION. Waiting for streams, barriers, stamps and outstanding work, and the end of a wait (R133, R206 to R213). -/

namespace Sys2Proof.Machine

/-! ### Streams (R206) -/

/-- Has stream `k` a store, atomic or chain access that is not performed and was issued before the block began to wait? -/
def streamBusy (w : World) (k : Nat) (since : Option (List (Nat × Nat × Nat))) : Bool :=
  w.elems.any fun (e, x) => eCore e == k / 64 &&
    x.acc.any fun a => (a.op.writes || a.op.isChain) && a.phase != .done && streamKey w e a.h == k
      && (since.all fun l => l.contains (e, a.h, a.nth))

/-- Does `sfence` on stream number `v` by thread `t` wait? -/
def streamHolds (w : World) (t v : Nat) : Bool :=
  let c := coreOf t
  decide (v < 64) && (w.region (4 * c + v / 16)).owner == some t && (w.stream (64 * c + v)).bound
    && streamBusy w (64 * c + v) (w.thread t).since

/-- The machine as it stood when the block in hand began. -/
def blockStart (s : State) : World :=
  match s.txn with
  | some x => x.saved
  | none => s.w

/-- sfence waits until the stream's writes are performed (R206). DEDUCED: log 13. -/
def execSfence (p : Pr) (d : Reg) (s : State) : Outcome :=
  word 1 p (quiet (use .other [d] [])) (fun s =>
    if streamHolds (blockStart s) s.turn (s.readG d).toNat then .wait (.stream (s.readG d).toNat) else .ok s) s

/-! ### qfence (R207) -/

/-- qfence: later commands to the masked queues wait for earlier ones (R207). -/
def execQfence (p : Pr) (d : Reg) (s : State) : Outcome :=
  word 1 p (quiet (use .other [d] [])) (fun s =>
    let m := bits (s.readG d).toNat 6 0
    if m = 0 then .ok s
    else
      let t := s.turn
      let (w, n) := takeSeq s.w
      let th := w.thread t
      .ok { s with w := w.setThread t { th with qfences := standingFences w t ++ [(n, m)] } }) s

/-! ### Barriers and stamps (R208 to R210) -/

/-- A wait word's read of the 8 bytes at gA: a word performed at commit does not show in it (R205, R209). -/
def readWaited (s : State) (va : Word) : State × Except Trap Nat :=
  let m := match s.txn with
    | some x => x.plain.getD s.w.mem
    | none => s.w.mem
  loadFrom s (ownView s.w s.turn m) .load .atomic Touch.load va 8

/-- Has the wait of `bwait` on phase `ph` ended, at barrier word `v`? -/
def phaseDone (ph : Bool) (v : Nat) : Bool := bit v 32 != ph

/-- Has the wait of `wstamp` for `g` ended, at stamp `v`? -/
def stampDone (g v : Nat) : Bool := decide (bits g 61 0 ≤ bits v 61 0) || bit v 63

/-- bwait: wait until the phase differs; all ones does not wait (R209). DEDUCED: log 32. -/
def execBwait (p : Pr) (d a : Reg) (s : State) : Outcome :=
  word 1 p (use .other [d, a] []) (fun s =>
    let g := s.readG d
    let va := s.readG a
    match readWaited s va with
    | (_, .error t) => .trap t.code t.val
    | (s, .ok v) =>
      if g = BitVec.allOnes 64 ∨ phaseDone (g.getLsbD 0) v = true then .ok s else .wait (.barrier va.toNat (g.getLsbD 0))) s

/-- wstamp: wait until a stamp reaches gD or shows `END` (R210). -/
def execWstamp (p : Pr) (d a : Reg) (s : State) : Outcome :=
  word 1 p (use .other [d, a] []) (fun s =>
    let va := s.readG a
    match readWaited s va with
    | (_, .error t) => .trap t.code t.val
    | (s, .ok v) => if stampDone (s.readG d).toNat v then .ok s else .wait (.stamp va.toNat (s.readG d).toNat)) s

/-! ### waitc (R212) -/

/-- The memory writes that a store-class command of region `r` makes: `cfgst` one for each element and one for the region, `rgsave` one for
each 64 bytes of the area (R227, R229). DEDUCED: log 13. -/
def commandWrites (w : World) (r : Nat) : CfgCmd → Nat
  | .status _ => elemCount (w.region r) + 1
  | .save _ => tileOffset (elemCount (w.region r)) (tokenCount w r) / 64
  | _ => 0

/-- The memory writes of store-class commands of thread `t` that are not performed (R212). -/
def statusWrites (w : World) (t : Nat) : Nat :=
  w.regions.foldl (fun n (r, g) =>
    if g.owner = some t then
      n + (g.cq.map fun c => commandWrites w r c.1).sum + (if g.saveAt.isSome then commandWrites w r (.save 0) else 0)
    else n) 0

/-- Is a store of a store path the rest of the store whose first part stands before it, in the page before (R212)? -/
def PathStore.continues (x y : PathStore) : Bool :=
  y.off != 0 && x.off == 0 && x.size == y.size && x.len == y.off && x.va + x.len == y.va

/-- Committed stores of thread `t` that are not performed; one that crosses a page counts once (R212). DEDUCED: log 133. -/
def storesLeft (w : World) (t : Nat) : Nat :=
  let path := (w.thread t).path
  path.length - ((path.zip path.tail).filter fun q => q.1.continues q.2).length

/-- Copy commands of thread `t` that have not reached their completion points. -/
def copiesLeft (w : World) (t : Nat) : Nat :=
  let c := coreOf t
  [0, 1, 2, 3].foldl (fun n i =>
    let x := w.channel (4 * c + i)
    n + ((x.cur.toList ++ x.queue).filter (·.thread == t)).length) 0

/-- The `mtile`, `mtilet`, `mrec` and `mread` commands of thread `t` that have not completed, and the follow-ons of its copies, which count
from their commit (R212, R243). -/
def tilesLeft (w : World) (t : Nat) : Nat :=
  let m := w.matrix (coreOf t)
  ((m.cur.toList ++ m.queue).filter fun x => x.thread == t && (match x.op with
    | .zero .. => false
    | _ => true)).length
  + [0, 1, 2, 3].foldl (fun n i =>
      let x := w.channel (4 * coreOf t + i)
      n + ((x.cur.toList ++ x.queue).filter fun y => y.thread == t && y.follow.isSome).length) 0

/-- Do the four counts of thread `t` lie within the fields of a `waitc`? A field at its maximum sets no limit: `waitc 63, 63, 31, 31` never
waits. A prefetch is complete at once. DEDUCED: log 13. -/
def countsWithin (w : World) (t st cp tl : Nat) : Bool :=
  (st == 63 || decide (storesLeft w t + statusWrites w t ≤ st)) && (cp == 31 || decide (copiesLeft w t ≤ cp))
    && (tl == 31 || decide (tilesLeft w t ≤ tl))

/-- waitc holds the commit until the counts fall (R212). -/
def execWaitc (p : Pr) (ld st : BitVec 6) (cp tl : BitVec 5) (s : State) : Outcome :=
  word 1 p (quiet (use .other [] [])) (fun s =>
    if countsWithin (blockStart s) s.turn st.toNat cp.toNat tl.toNat then .ok s
    else .hold s (.counts ld.toNat st.toNat cp.toNat tl.toNat)) s

/-! ### The end of a wait (R133) -/

/-- A waiting thread's read of 8 bytes; a read that fails ends the wait, and the block's own check then traps. -/
def peek (w : World) (t va : Nat) (f : Nat → Bool) : Bool :=
  match checkAccess w (coreOf t) (w.thread t).space .load .atomic va 8 with
  | (_, .error _) => true
  | (_, .ok gs) => f (leNat (loadSegs w (ownView w t w.mem) gs))

/-- Does the condition that thread `t` waits for hold (R133)? A block held for queue room, for a budget or for the
store path is tried again. -/
def waitOver (w : World) (t : Nat) : Wait → Bool
  | .flag => (w.thread t).flag
  | .barrier va ph => peek w t va (phaseDone ph)
  | .stamp va g => peek w t va (stampDone g)
  | .stream v => !streamHolds w t v
  | .counts _ st cp tl => countsWithin w t st cp tl
  | .room | .budget | .path => true

/-- WAIT_SATISFIED: the condition a waiting thread waits for holds, and it is Running again (R133). -/
def execWaitSatisfied (t : Nat) (s : State) : Outcome :=
  event (fun w =>
    let th := w.thread t
    match th.phase, th.wait with
    | .waiting, some c => if waitOver w t c then w.setThread t { th with phase := .running, wait := none } else w
    | _, _ => w) s

end Sys2Proof.Machine
end

