-- ==== Sys2Proof/Machine/Codec.lean ====
section
/-! DEFINITION. From the syntax of a coded stream to block records: what a session accepts, how each codec's coding units
become records, and which layout their transform units take (R11 to R13, R24 to R28, R33, R34). -/

namespace Sys2Proof.Machine

/-! ### The session block (R16) -/

def hCodec (b : Block) : Nat := fld b 0 31 24
def hDeq (b : Block) : Bool := bit (fld b 0 31 0) 16
def hChr (b : Block) : Bool := bit (fld b 0 31 0) 17
def hSide (b : Block) : Bool := bit (fld b 0 31 0) 18 && fld b 0x18 31 0 != 0
def hMaxW (b : Block) : Nat := fld b 4 15 0
def hMaxH (b : Block) : Nat := fld b 4 31 16
def hStamp (b : Block) : Nat := fld8 b 8
def hSideBase (b : Block) : Nat := fld8 b 0x10
def hSideLen (b : Block) : Nat := fld b 0x18 31 0

/-! ### What a session accepts (R11, R12, R34) -/

/-- The profiles of a codec (R11). -/
def profilesOf (codec : Nat) : List Config.Profile :=
  match codec with
  | 0 => [.hevcMain, .hevcMain10]
  | 1 => [.av1Main]
  | 2 => [.vvcMain10]
  | 3 => [.avcConstrainedBaseline, .avcMain, .avcHigh]
  | _ => []

/-- Does a session with block `b` accept a sequence, and pictures of it of a width and height (R11, R12, R16, R34)? -/
def sequenceOk (b : Block) (q : Config.Sequence) (wid hgt : Nat) : Bool :=
  (profilesOf (hCodec b)).contains q.profile && (hCodec b != 0 || decide (q.level ≤ 62))
    && q.form == (if hCodec b = 1 then .sizedObus else .annexB) && q.chroma == 1
    && q.bitLuma == q.bitChroma && (q.bitLuma == 8 || q.bitLuma == 10)
    && decide (wid ≤ min 8192 (hMaxW b) ∧ hgt ≤ min 4320 (hMaxH b)) && decide (q.refs ≤ 16) && !q.exotic

/-- What comes next in a session's stream: a picture, a sequence that it does not accept, or the end of the bytes, part-way
through a picture or not. -/
inductive NextItem where
  | picture (p : Config.Picture)
  | badSequence
  | more (mid : Bool)
  deriving DecidableEq, Repr, Inhabited

/-- What follows the first `k` pictures of the base layer; other layers are passed over (R34). -/
def nextItem (b : Block) (mid : Bool) : List Config.Item → Nat → NextItem
  | [], _ => .more mid
  | .sequence 0 q :: rest, k => if sequenceOk b q q.wid q.hgt then nextItem b mid rest k else .badSequence
  | .picture 0 p :: rest, k =>
    if !sequenceOk b p.seq p.wid p.hgt then .badSequence
    else match k with
      | 0 => .picture p
      | k + 1 => nextItem b mid rest k
  | _ :: rest, k => nextItem b mid rest k

/-! ### Records (R24, R33) -/

/-- A block record before it is laid out: `motion` in sixteenths with the record's reference indexes, `tul` the layout of
its units, `side` the coding unit whose side record it names. -/
structure Rec where
  rect : Config.Rect
  comp : Nat
  kind : Nat
  qp : Nat
  imode : Nat
  cuf : Bool
  tqb : Bool
  apx : Bool
  tsk : Bool
  ndct : Bool
  motion : Option Config.Motion
  tul : Nat
  units : List (Config.TransformUnit × Option (List Int))
  side : Option (Nat × Nat)
  deriving DecidableEq, Repr

/-- One axis of a block: lengths above 64 in pieces of 64, and a length of 48 as 32 and 16, so placed that the 32 stand at a
multiple of 32 (R33). Pieces of 24 and of 12 samples stay whole; `LW` and `LH` hold the floor of their log2.
DESIGN CHOICE: log 102. -/
def cutAxis (off len : Nat) : List (Nat × Nat) :=
  if 64 < len then (List.range (len / 64)).map fun i => (off + 64 * i, 64)
  else if len = 48 then (if off % 32 = 0 then [(off, 32), (off + 32, 16)] else [(off, 16), (off + 16, 32)])
  else [(off, len)]

/-- The pieces of a block, in z-order: there are at most two to an axis (R33). -/
def piecesOf (r : Config.Rect) : List Config.Rect :=
  (cutAxis r.y r.h).flatMap fun (y, h) => (cutAxis r.x r.w).map fun (x, w) => { x := x, y := y, w := w, h := h }

/-- The subblocks of `side` by `side` samples of a block, in raster order. DESIGN CHOICE: log 102. -/
def subblocksOf (side : Nat) (r : Config.Rect) : List Config.Rect :=
  (List.range (r.h / side)).flatMap fun j => (List.range (r.w / side)).map fun i =>
    { x := r.x + side * i, y := r.y + side * j, w := side, h := side }

/-- `IMODE` of an intra mode (R33). -/
def modeCode : Config.IntraMode → Nat
  | .plain m => m
  | .mip m => 80 + m
  | .whole16 m => 16 + m
  | .directional y d => (8 * y + d + 3).toNat
  | .filter f => 104 + f

/-- A vector in sixteenths of a luma sample, and its reference index (R33). -/
def scaleVec (codec : Nat) (v : Config.Vec) : Config.Vec :=
  let k : Int := match codec with
    | 1 => 2
    | 2 => 1
    | _ => 4
  { x := k * v.x, y := k * v.y, ref := if codec = 1 then v.ref - 1 else v.ref }

def scaleMotion (codec : Nat) : Config.Motion → Config.Motion
  | .list0 v => .list0 (scaleVec codec v)
  | .list1 v => .list1 (scaleVec codec v)
  | .both v u => .both (scaleVec codec v) (scaleVec codec u)

/-- The blocks that a coding unit's luma records stand for, in order, each with its `IMODE` and its motion (R33). -/
def blocksOf (codec : Nat) (u : Config.CodingUnit) : List (Config.Rect × Nat × Option Config.Motion) :=
  match u.coding with
  | .intra parts => parts.flatMap fun (r, m) => (piecesOf r).map (·, modeCode m, none)
  | .inter _ parts => parts.flatMap fun (r, m) => (piecesOf r).map (·, 0, some (scaleMotion codec m))
  | .subblocks _ ms =>
    ((subblocksOf (if codec = 1 then 8 else 4) u.rect).zip ms).map fun (r, m) => (r, 0, some (scaleMotion codec m))
  | .blockCopy v => (piecesOf u.rect).map (·, 0, some (.list0 { scaleVec codec v with ref := 0 }))
  | .palette _ => (piecesOf u.rect).map (·, 0, none)

/-- `KIND` of a coding unit (R33): AV1's `skip` makes a block of kind 2 only where it has no residual. -/
def kindOf (codec : Nat) (u : Config.CodingUnit) : Nat :=
  let inter (skip : Bool) : Nat := if skip && (codec != 1 || u.units.all (·.coded.isNone)) then 2 else 1
  match u.coding with
  | .intra _ => 0
  | .inter s _ => inter s
  | .subblocks s _ => inter s
  | .blockCopy _ => 3
  | .palette _ => 4

/-- `QP` of a coding unit (R33). -/
def qpOf (codec : Nat) (p : Config.Picture) (u : Config.CodingUnit) : Int :=
  if codec = 1 then u.qp else u.qp + p.qpOffset

/-- `TQB` of a coding unit: AVC's flag bypasses only at QP′Y 0 (R33). -/
def bypassed (codec : Nat) (p : Config.Picture) (u : Config.CodingUnit) : Bool :=
  u.lossless && (codec != 3 || qpOf codec p u == 0)

/-- `NDCT` of a record with units `us` (R33). -/
def otherTransform (codec : Nat) (u : Config.CodingUnit) (us : List Config.TransformUnit) : Bool :=
  match codec with
  | 0 => us.any (·.otherType)
  | 1 => us.any (·.txType != 0)
  | 2 => !us.isEmpty && (u.mts != 0 || u.lfnst != 0)
  | _ => false

/-- Does a coding unit use a tool that sets `APX` (R34)? Refinements do not. -/
def beyondAverage (u : Config.CodingUnit) : Bool :=
  u.tools.any fun
    | .dmvr | .bdof | .prof => false
    | _ => true

/-! ### Transform units (R25 to R27) -/

/-- Put AVC's DC levels at raster position 0 of the 4 by 4 units, in block order (R26); a unit that holds a nonzero one is
coded. DEDUCED: log 109. -/
def withDc : List Config.TransformUnit → List Config.Coef → List Config.TransformUnit
  | us, [] => us
  | [], _ => []
  | u :: us, d :: ds =>
    (if d.level = 0 then u
      else { u with coded := some ({ d with col := 0, row := 0 } :: (u.coded.getD []).filter fun c => c.col + c.row != 0) })
      :: withDc us ds

/-- A pool value before it is saturated: the coded level, or with `DEQ` what the scaling process gives, clipped to the codec's
coefficient range (R27). Residual samples, which no transform or quantiser made, stay as they are. -/
def coefValue (deq : Bool) (coefBits : Nat) (c : Config.Coef) : Int :=
  if deq then max (-(2 ^ (coefBits - 1) : Nat)) (min ((2 ^ (coefBits - 1) : Nat) - 1) c.scaled) else c.level

/-- The values of a coded unit in raster order; every other position is zero, those beyond 32 among them (R26). -/
def rasterOf (u : Config.TransformUnit) (value : Config.Coef → Int) (cs : List Config.Coef) : List Int :=
  (List.range (2 ^ (u.lw + u.lh))).map fun i =>
    match cs.find? fun c => decide (c.col < min 32 (2 ^ u.lw) ∧ c.row < 32 ∧ c.row * 2 ^ u.lw + c.col = i) with
    | some c => value c
    | none => 0

/-- The layout of the units of a record, and the units in its order (R25): none, one that covers the record, a uniform grid of
up to 16 in unit order, or a list. DEDUCED: log 109. -/
def layoutOf (r : Config.Rect) : List Config.TransformUnit → Nat × List Config.TransformUnit
  | [] => (0, [])
  | u :: us =>
    let bc := r.w.log2 - u.lw
    let br := r.h.log2 - u.lh
    let n := 2 ^ (bc + br)
    let grid := (List.range n).map fun i =>
      let (c, q) := unitPlace bc br i
      (u :: us).find? fun v => v.lw == u.lw && v.lh == u.lh && v.x == r.x + c * 2 ^ u.lw && v.y == r.y + q * 2 ^ u.lh
    if u.lw ≤ r.w.log2 ∧ u.lh ≤ r.h.log2 ∧ us.length + 1 = n ∧ n ≤ 16 ∧ grid.all (·.isSome) then
      (if n = 1 then 1 else 2, grid.filterMap id)
    else (3, u :: us)

/-- Does a rectangle contain a sample? -/
def rectHas (r : Config.Rect) (x y : Nat) : Bool := decide (r.x ≤ x ∧ x < r.x + r.w ∧ r.y ≤ y ∧ y < r.y + r.h)

/-- The record of a block of coding unit `u`, with those of the units `us` whose top-left sample it contains (R24, R25, R33). A piece of a
larger block, `piece`, repeats the flags of the whole. -/
def recordFor (b : Block) (p : Config.Picture) (key : Nat × Nat) (u : Config.CodingUnit) (comp : Nat) (r : Config.Rect) (mode : Nat)
    (m : Option Config.Motion) (all : List Config.TransformUnit) (cuf piece : Bool) : Rec :=
  let codec := hCodec b
  let tqb := bypassed codec p u
  let (tul, us) := layoutOf r (all.filter fun v => rectHas r v.x v.y)
  let marked := if piece then all else us
  { rect := r, comp := comp, kind := kindOf codec u, qp := wrap 8 (qpOf codec p u), imode := mode, cuf := cuf, tqb := tqb
    apx := beyondAverage u, tsk := marked.any (·.skipped), ndct := otherTransform codec u marked, motion := m, tul := tul
    units := us.map fun v => (v, v.coded.map (rasterOf v (coefValue (hDeq b && !tqb) p.coefBits)))
    side := match u.coding with
      | .palette _ => some key
      | _ => none }

/-- Is a block cut into pieces that repeat its flags: one wider or taller than 64 samples (R33)? -/
def cutBlock (r : Config.Rect) : Bool := decide (64 < r.w ∨ 64 < r.h)

/-- Does a coding unit have one record for each subblock (R33)? -/
def perSubblock (u : Config.CodingUnit) : Bool :=
  match u.coding with
  | .subblocks .. => true
  | _ => false

/-- The luma records of a coding unit; the first has `CUF` (R33). -/
def lumaRecs (b : Block) (p : Config.Picture) (key : Nat × Nat) (u : Config.CodingUnit) : List Rec :=
  (blocksOf (hCodec b) u).zipIdx.map fun ((r, mode, m), i) => recordFor b p key u 0 r mode m (withDc u.units u.dc) (i == 0)
    (cutBlock u.rect && !perSubblock u)

/-- The motion of a chroma block of coding unit `u` that begins at luma sample (x, y): that of the luma block there, of the unit itself
or of an earlier one, else that of the unit's first block (R28). DESIGN CHOICE: log 102. -/
def chromaMotion (codec : Nat) (before : List Config.CodingUnit) (u : Config.CodingUnit) (x y : Nat) : Option Config.Motion :=
  let own := blocksOf codec u
  let earlier := before.reverse.flatMap (blocksOf codec)
  let here (l : List (Config.Rect × Nat × Option Config.Motion)) : Option Config.Motion :=
    (l.find? fun q => rectHas q.1 x y).bind (·.2.2)
  let first := (own.head?).bind (·.2.2)
  first.bind fun m => some (((here own).or (here earlier)).getD m)

/-- The chroma records of a coding unit: for each chroma block, in pieces where it is larger than 64 chroma samples, one of Cb and one of
Cr, with the motion of the luma block at the same place (R28, R33). The first Cb record has `CUF`. DESIGN CHOICE: log 102. -/
def chromaRecs (b : Block) (p : Config.Picture) (key : Nat × Nat) (before : List Config.CodingUnit) (u : Config.CodingUnit) : List Rec :=
  let blocks := u.chroma.flatMap fun c => (piecesOf c.rect).map (c, ·)
  blocks.zipIdx.flatMap fun ((c, r), i) =>
    let mode := if kindOf (hCodec b) u = 0 then modeCode c.mode else 0
    let motion := chromaMotion (hCodec b) before u (2 * r.x) (2 * r.y)
    [recordFor b p key u 1 r mode motion (withDc c.cb c.dcCb) (i == 0) (cutBlock c.rect),
     recordFor b p key u 2 r mode motion (withDc c.cr c.dcCr) false (cutBlock c.rect)]

/-- A CTU's place in raster order and its records. -/
structure CtuRecs where
  place : Nat
  luma : List Rec
  chroma : List Rec
  deriving DecidableEq, Repr

/-- The records of a picture's CTUs, in coding order, which with tiles is not the raster order; a coding unit is known by the places of
its CTU and itself (R23). DEDUCED: log 81. -/
def recordsOf (b : Block) (p : Config.Picture) : List CtuRecs :=
  p.ctus.zipIdx.map fun (c, i) =>
    { place := c.place, luma := c.units.zipIdx.flatMap fun (u, j) => lumaRecs b p (i, j) u
      chroma := if hChr b then c.units.zipIdx.flatMap fun (u, j) => chromaRecs b p (i, j) (c.units.take j) u else [] }

end Sys2Proof.Machine
end

