-- ==== Sys2Proof/Machine/Headwater.lean ====
section
/-! DEFINITION. Headwater sessions: the HWE words, and how an engine reads chunks and writes pictures (R11 to R35, R249,
R250). -/

namespace Sys2Proof.Machine

/-! ### Sessions and their engines -/

/-- Does a session block hold a reserved field that is not zero, or a value out of its range or alignment (R16)?
DEDUCED: log 82. -/
def sessionBad (b : Block) : Bool :=
  fld b 0 23 19 != 0 || fld b 0 15 0 != 0 || fld b 0x20 15 0 != 0 || fld b 0x24 31 0 != 0 || fld8 b 0x38 != 0
    || !decide (16 ≤ hMaxW b ∧ hMaxW b ≤ 8192) || !decide (16 ≤ hMaxH b ∧ hMaxH b ≤ 4320)
    || hStamp b % 8 != 0 || hSideBase b % 16 != 0 || hSideLen b % 16 != 0

/-- The agent a session reads and writes memory as, and the task it works for. -/
def sessionReach (n : Nat) : Reach := .dieAgent (n / 128)
def sessionTask (w : World) (x : Session) : Option Nat := (w.thread x.thread).task

def World.setSession (w : World) (n : Nat) (x : Session) : World := { w with sessions := tabSet n x w.sessions }
def World.session? (w : World) (n : Nat) : Option Session := (w.sessions.find? (·.1 == n)).map (·.2)

/-- The fields of the session block that the engine writes, by address. -/
def statusRows (n : Nat) (x : Session) : List (Nat × List Byte) :=
  [(x.va + 0x1C, leBytes 4 n), (x.va + 0x22, wordBytes 1 [x.err, x.state]), (x.va + 0x28, wordBytes 8 [x.bcon, x.pdone])]

/-- The records of what poison discarded of a session's writes, with their events (R264). -/
def lostBySession (w : World) (n : Nat) (x : Session) (szl : Nat) (lost : List Seg) : World :=
  noteLost w x.thread (coreOf x.thread) x.sp 2 n x.bcon szl lost

/-- The engine writes its fields of the session block; when it cannot, they stay owed. -/
def writeStatus (w : World) (n : Nat) (x : Session) : World :=
  match storeRows w (sessionReach n) (sessionTask w x) x.sp (statusRows n x) with
  | (w, .ok lost) => (lostBySession w n x 3 lost).setSession n { x with owed := false, met := false }
  | (_, .error _) => w.setSession n { x with owed := true }

/-- What comes next in a session's stream. PRESUMED: log 78. -/
def nextParsed (x : Session) : NextItem :=
  let q := Config.parse (hCodec x.blk) x.stream (x.state == 4 && x.chunks.isEmpty)
  nextItem x.blk q.mid q.items x.pdone

/-- The final stamp of a session that is closed or failed (R31). -/
def finalStamp (x : Session) : Nat := x.pdone % 2 ^ 62 + (if x.state = 5 then 2 ^ 62 else 0) + 2 ^ 63

/-- What the end of a session writes: its fields with the last state, and the final stamp, which a session that has failed
writes when it fails (R17, R31). -/
def endRows (n : Nat) (x : Session) : List (Nat × List Byte) :=
  if x.freeing && !x.ending then statusRows n { x with state := 0 }
  else statusRows n { x with state := if x.state = 5 && !x.freeing then 5 else 0 } ++ [(hStamp x.blk, leBytes 8 (finalStamp x))]

/-- The engine of session `n` is in no picture of it (R15). -/
def leaveEngine (w : World) (n : Nat) : World :=
  { w with engines := tabMap (fun _ (g : Engine) => if g.busy == some n then { g with busy := none } else g) w.engines }

/-- Write them, and leave the engine to its other sessions; a session that closes is gone after it, and so is a failed one that hwclose has
closed; another failed one stays until hwclose (R15, R17). What cannot be written stays to be written. -/
def endSession (w : World) (n : Nat) (x : Session) : World :=
  let w := leaveEngine w n
  match storeRows w (sessionReach n) (sessionTask w x) x.sp (endRows n x) with
  | (_, .error _) => w.setSession n { x with ending := x.ending || !x.freeing }
  | (w, .ok lost) =>
    let w := lostBySession w n x 3 lost
    if x.state = 5 && !x.freeing then w.setSession n { x with ending := false, owed := false, met := false }
    else { w with sessions := tabDel n w.sessions }

/-- The state that the parser's position gives a session, and the end of one that is drained or has failed (R17, R35). A drained
session whose next picture has no output descriptor closes too. DEDUCED: log 83. -/
def settleSession (w : World) (n : Nat) (x : Session) : World :=
  match nextParsed x with
  | .badSequence => endSession w n { x with state := 5, err := 3, chunks := [], descs := [] }
  | .picture _ =>
    if x.state = 4 && x.descs.isEmpty && x.chunks.isEmpty then endSession w n x
    else writeStatus w n { x with state := if x.state = 4 then 4 else if x.descs.isEmpty then 3 else 2 }
  | .more mid =>
    if !x.chunks.isEmpty then writeStatus w n x
    else if x.state = 4 then endSession w n x
    else writeStatus w n { x with state := if mid then 1 else x.state }

/-! ### Block tensors (R21 to R28) -/

/-- A value of a pool: saturated to 16 bits, and whether it was. A level beyond 16 bits saturates with `DEQ` clear
too (R27). DESIGN CHOICE: log 110. -/
def poolValue (v : Int) : Int × Bool :=
  let x := max (-32768) (min 32767 v)
  (x, x != v)

/-- The bytes of a coded unit. -/
def unitBytes (vals : Option (List Int)) : List Byte := (vals.getD []).flatMap fun v => leBytes 2 (wrap 16 (poolValue v).1)

/-- The storage of a record (R25): an explicit list stands before its coded units. -/
def recStorage (r : Rec) : List Byte :=
  let units := r.units.flatMap fun u => unitBytes u.2
  if r.tul = 3 then
    let desc (u : Config.TransformUnit × Option (List Int)) : Nat :=
      (u.1.x - r.rect.x) / 4 % 256 + (u.1.y - r.rect.y) / 4 % 256 * 2 ^ 8 + u.1.lw % 8 * 2 ^ 16 + u.1.lh % 8 * 2 ^ 19
        + if u.2.isSome then 2 ^ 22 else 0
    let l := wordBytes 4 (r.units.length :: r.units.map desc)
    l ++ zeros (roundUp l.length 32 - l.length) ++ units
  else units

/-- The vectors of a record by list; a list that is not used has none. -/
def Rec.vec0 (r : Rec) : Option Config.Vec := r.motion.bind fun
  | .list0 v | .both v _ => some v
  | .list1 _ => none
def Rec.vec1 (r : Rec) : Option Config.Vec := r.motion.bind fun
  | .list1 v | .both _ v => some v
  | .list0 _ => none

/-- Did a component of a record's vectors saturate, and a value of its units (R24, R27)? -/
def Rec.mvSat (r : Rec) : Bool := (r.vec0.toList ++ r.vec1.toList).any fun v => (poolValue v.x).2 || (poolValue v.y).2
def Rec.coefSat (r : Rec) : Bool := r.units.any fun u => (u.2.getD []).any fun v => (poolValue v).2

/-- The 32 bytes of a record whose storage begins at `poff` of the pool and whose side record at `sidx` (R24). A palette record
counts no coefficients (R34). -/
def recBytes (r : Rec) (poff sidx : Nat) : List Byte :=
  let b (x : Bool) (i : Nat) : Nat := if x then 2 ^ i else 0
  let mv (m : Option Config.Vec) : Nat := match m with
    | none => 0
    | some v => wrap 16 (poolValue v.y).1 * 2 ^ 16 + wrap 16 (poolValue v.x).1
  let ref (m : Option Config.Vec) : Nat := match m with
    | none => 0
    | some v => v.ref % 16
  let sizes := r.tul = 1 ∨ r.tul = 2
  let cbfm := if sizes then packBits (r.units.map fun u => u.2.isSome) % 2 ^ 16 else 0
  let nnz := if r.kind = 4 then 0 else (r.units.map fun u => ((u.2.getD []).filter (· != 0)).length).foldl (· + ·) 0
  let size := match r.units with
    | (u, _) :: _ => u.lw % 8 * 2 ^ 17 + u.lh % 8 * 2 ^ 14
    | [] => 0
  wordBytes 4 [r.rect.y / 4 % 2 ^ 16 * 2 ^ 16 + r.rect.x / 4 % 2 ^ 16,
    r.comp % 4 * 2 ^ 30 + r.kind % 8 * 2 ^ 27 + r.rect.w.log2 % 8 * 2 ^ 24 + r.rect.h.log2 % 8 * 2 ^ 21 + r.qp % 256 * 2 ^ 13
      + r.imode % 128 * 2 ^ 6 + b r.mvSat 5 + b r.cuf 4 + b r.tqb 3 + b r.apx 2 + b r.tsk 1 + b r.ndct 0,
    mv r.vec0, mv r.vec1,
    ref r.vec1 * 2 ^ 28 + ref r.vec0 * 2 ^ 24 + b r.vec1.isSome 23 + b r.vec0.isSome 22 + r.tul % 4 * 2 ^ 20 + (if sizes then size else 0),
    cbfm * 2 ^ 16 + nnz % 2 ^ 16, if r.tul = 0 then 0 else poff, sidx]

/-- Records with their storage: the record area, the pool after it, and the free values of `POFF` left over. A record with
units and no storage holds a free value there. DESIGN CHOICE: log 80. DEDUCED: log 81. -/
def placeRecs (sides : List ((Nat × Nat) × Nat)) : List Rec → List Nat → List Byte → List Byte × List Byte × List Nat
  | [], free, pool => ([], pool, free)
  | r :: rest, free, pool =>
    let st := recStorage r
    let sidx := match r.side with
      | some k => ((sides.find? (·.1 == k)).map (·.2)).getD 0xFFFFFFFF
      | none => 0xFFFFFFFF
    let here := recBytes r (if st.isEmpty then free.headD 0 else pool.length) sidx
    let (more, pool, free) := placeRecs sides rest (if st.isEmpty then free.tail else free) (pool ++ st)
    (here ++ more, pool, free)

/-- The index entries of the CTUs, by raster place: the first record and the count (R23). A CTU that is not there has
the index its first record would have had. -/
def indexOf (n : Nat) (cs : List (Nat × Nat)) : List Byte :=
  let starts := cs.foldl (fun (acc : List (Nat × Nat × Nat) × Nat) (a, k) => (acc.1 ++ [(a, acc.2, k)], acc.2 + k)) ([], 0)
  (List.range n).flatMap fun i =>
    match starts.1.find? (·.1 == i) with
    | some (_, off, k) => leBytes 8 (off + k % 2 ^ 16 * 2 ^ 32)
    | none => leBytes 8 starts.2

/-- A part of a block tensor, at the next multiple of 64 bytes: the tensor with it, and its offset (R21). An empty part takes no
space, and its offset is where it would begin. -/
def addPart (bt part : List Byte) : List Byte × Nat :=
  let o := roundUp bt.length 64
  if part.isEmpty then (bt, o) else (bt ++ zeros (o - bt.length) ++ part, o)

/-- CTUs or superblocks of a picture, of 2^4 to 2^7 samples a side. -/
def log2Ctu (p : Config.Picture) : Nat := 4 + p.ctuLog.val
def ctuCount (p : Config.Picture) : Nat := ceilDiv p.wid (2 ^ log2Ctu p) * ceilDiv p.hgt (2 ^ log2Ctu p)

/-- `PTYP` of a picture (R22). -/
def ptypOf : Config.PictureType → Nat
  | .intra => 0
  | .p => 1
  | .b => 2

/-- The block tensor of a picture with the CTUs `cs` of it (R21 to R28); `sides` are the ring offsets of its palette records
by coding unit. DEDUCED: log 81. -/
def tensorImage (b : Block) (p : Config.Picture) (cs : List CtuRecs) (sides : List ((Nat × Nat) × Nat)) (num : Nat) (cut : Bool) :
    List Byte :=
  let n := ctuCount p
  let luma := cs.flatMap (·.luma)
  let chroma := cs.flatMap (·.chroma)
  let (lrec, pool, free) := placeRecs sides luma p.freePool []
  let (crec, pool, _) := placeRecs sides chroma free pool
  let (bt, ixoff) := addPart (zeros 64) (indexOf n (cs.map fun c => (c.place, c.luma.length)))
  let (bt, cixoff) := addPart bt (if chroma.isEmpty then [] else indexOf n (cs.map fun c => (c.place, c.chroma.length)))
  let (bt, recoff) := addPart bt lrec
  let (bt, crecoff) := addPart bt crec
  let (bt, pooloff) := addPart bt pool
  let some? (o : Nat) : Nat := if chroma.isEmpty then 0 else o
  let flags := (if hChr b then 1 else 0) + (if hDeq b then 2 else 0) + (if cut then 4 else 0) + if p.synErr then 8 else 0
  wordBytes 4 [hCodec b * 2 ^ 24 + ptypOf p.type * 2 ^ 20 + log2Ctu p * 2 ^ 16 + p.seq.bitLuma % 256 * 2 ^ 8 + flags,
      p.hgt % 2 ^ 16 * 2 ^ 16 + p.wid % 2 ^ 16, n, luma.length, chroma.length, ixoff, some? cixoff, recoff, some? crecoff, pooloff,
      pool.length, num, wrap 32 p.poc]
    ++ zeros 12 ++ bt.drop 64

/-- The tensor of the longest run of CTUs that fits a capacity, and whether the picture was cut short (R35). Where not even the
header and the index fit, what fits of them is written. DESIGN CHOICE: log 103. -/
def fitTensor (b : Block) (p : Config.Picture) (cs : List CtuRecs) (sides : List ((Nat × Nat) × Nat)) (num cap : Nat) :
    Nat → List Byte × Bool
  | 0 =>
    let cut := !cs.isEmpty || decide (cap < (tensorImage b p [] sides num false).length)
    ((tensorImage b p [] sides num cut).take cap, cut)
  | k + 1 =>
    let cut := decide (k + 1 < cs.length)
    let bt := tensorImage b p (cs.take (k + 1)) sides num cut
    if bt.length ≤ cap then (bt, cut) else fitTensor b p cs sides num cap k

/-! ### Side records (R30) -/

/-- A side record before it is written: its type, its SEI payload type or zero, its payload, and the coding unit whose palette
it is. -/
structure SideRec where
  type : Nat
  sei : Nat
  payload : List Byte
  key : Option (Nat × Nat)

/-- A side record's bytes. -/
def SideRec.bytes (r : SideRec) (num : Nat) : List Byte :=
  wordBytes 4 [r.type, r.payload.length, num, r.sei] ++ r.payload ++ zeros (roundUp r.payload.length 16 - r.payload.length)

def extraSide : Config.Extra → SideRec
  | .sei t bs => { type := 1, sei := t, payload := bs, key := none }
  | .metadata bs => { type := 2, sei := 0, payload := bs, key := none }
  | .filmGrain bs => { type := 3, sei := 0, payload := bs, key := none }
  | .superres bs => { type := 4, sei := 0, payload := bs, key := none }

/-- The side records of a picture (R30, R34): what stands beside it first, then one for each palette, whether or not the
picture is skipped or truncated. DESIGN CHOICE: log 104. -/
def sidesOf (p : Config.Picture) : List SideRec :=
  p.extras.map extraSide ++ p.ctus.zipIdx.flatMap fun (c, i) => c.units.zipIdx.filterMap fun (u, j) =>
    match u.coding with
    | .palette bs => some { type := 5, sei := 0, payload := bs, key := some (i, j) }
    | _ => none

/-- Place side records in the ring from offset `off`, of which this picture has used `used` bytes: the writes, the
offsets of palette records by coding unit, the new offset, the records written and whether one was lost. -/
def placeSides (base len num : Nat) : List SideRec → Nat → Nat →
    List (Nat × List Byte) × List ((Nat × Nat) × Nat) × Nat × Nat × Bool
  | [], off, _ => ([], [], off, 0, false)
  | r :: rest, off, used =>
    let bs := r.bytes num
    if len < used + bs.length then
      let (ws, ix, off, n, _) := placeSides base len num rest off used
      (ws, ix, off, n, true)
    else
      let first := min bs.length (len - off)
      let (ws, ix, off', n, lost) := placeSides base len num rest ((off + bs.length) % len) (used + bs.length)
      ([(base + off, bs.take first)] ++ (if first < bs.length then [(base, bs.drop first)] else []) ++ ws,
        (r.key.toList.map (·, off)) ++ ix, off', n + 1, lost)

/-! ### Completing a picture (R29, R31, R35) -/

/-- An output descriptor's fields (R250). -/
def oTensor (d : BitVec 256) : Nat := bits d.toNat 63 0
def oCap (d : BitVec 256) : Nat := bits d.toNat 95 64
def oRecord (d : BitVec 256) : Nat := bits d.toNat 191 128

/-- What the lists of a picture name, by reference index (R29): AV1's second reference has the numbers of the first. -/
def refLists (codec : Nat) (p : Config.Picture) : List (Option Nat) × List (Option Nat) :=
  if codec = 1 then (p.refs0, if p.type = .b then p.refs0 else []) else (p.refs0, p.refs1)

/-- The picture that an index of a list names, if it names one that the engine holds: an earlier one of the session (R29, R35). -/
def heldRef (num : Nat) (l : List (Option Nat)) (i : Nat) : Option Nat := (l.getD i none).filter fun k => decide (1 ≤ k ∧ k < num)

/-- The pictures that the records of a picture refer to, by the references that they use; none for one not held. -/
def usedRefs (codec : Nat) (p : Config.Picture) (num : Nat) (rs : List Rec) : List (Option Nat) :=
  let (l0, l1) := refLists codec p
  (rs.filter (·.kind != 3)).flatMap fun r =>
    r.vec0.toList.map (fun v => heldRef num l0 v.ref) ++ r.vec1.toList.map fun v => heldRef num l1 v.ref

/-- Is a picture skipped because one before it was broken off (R35, code 1), and because its coding is not supported (code 2)? -/
def skippedOver (x : Session) (p : Config.Picture) : Bool := x.skipping && !p.randomAccess
def unsupported (x : Session) (p : Config.Picture) : Bool := hCodec x.blk == 3 && p.fieldCoded

/-- What an engine writes for a picture, in order, and the session after it (R29, R31, R35). Where a picture has several error
codes, `ERR` holds 2, else 5, else 1, else 4, and a picture skipped after a broken one holds none.
DESIGN CHOICE: log 80, 105, 127. -/
def pictureWrites (n : Nat) (x : Session) (p : Config.Picture) (d : BitVec 256) : List (Nat × List Byte) × Session :=
  let num := x.pdone + 1
  let b := x.blk
  let passed := skippedOver x p
  let skip := passed || unsupported x p
  let (sides, ix, off, count, lost) :=
    if hSide b then placeSides (hSideBase b) (hSideLen b) num (sidesOf p) x.sideOff 0 else ([], [], x.sideOff, 0, false)
  let cs := recordsOf b p
  let (bt, cut) := if skip then ([], false) else fitTensor b p cs ix num (oCap d) cs.length
  let recs := if skip then [] else cs.flatMap fun c => c.luma ++ c.chroma
  let used := usedRefs (hCodec b) p num recs
  let missing := used.contains none
  let err := if unsupported x p then 2 else if cut then 5 else if p.synErr && !skip then 1 else if missing then 4 else 0
  let f (c : Bool) (i : Nat) : Nat := if c then 2 ^ i else 0
  let stat := f (if skip then p.freeDone else true) 0 + f cut 1 + f (recs.any (·.coefSat)) 2 + f (recs.any (·.mvSat)) 3
    + f (missing || x.badRefs.any fun k => used.contains (some k)) 4 + f skip 5 + f lost 7
  let (l0, l1) := refLists (hCodec b) p
  let rmap := (List.range 32).map fun i =>
    match heldRef num (if i < 16 then l0 else l1) (i % 16) with
    | some r => r % 2 ^ 16
    | none => 0xFFFF
  let record := wordBytes 4 [num, wrap 32 p.poc] ++ leBytes 8 (oTensor d)
    ++ wordBytes 4 [err * 2 ^ 16 + stat, bt.length, if count = 0 then p.freeSide else x.sideOff, count]
    ++ leBytes 8 (min p.stop x.stream.length) ++ zeros 24 ++ wordBytes 2 rmap
  let y := { x with descs := x.descs.tail, pdone := num, sideOff := off, err := if err = 0 then x.err else err
                    skipping := if p.synErr && !skip then true else x.skipping && !p.randomAccess
                    badRefs := if passed then x.badRefs ++ [num] else x.badRefs }
  ((if bt.isEmpty then [] else [(oTensor d, bt)]) ++ sides ++ [(oRecord d, record)] ++ statusRows n y
    ++ [(hStamp b, leBytes 8 (num % 2 ^ 62))], y)

/-! ### Which session an engine serves (R15) -/

/-- An engine; before it has served a session it counts the highest context as the one served last, so that context 0 is the first.
DESIGN CHOICE: log 2. -/
def World.engine (w : World) (e : Nat) : Engine := tabGet { last := 15, busy := none } e w.engines

/-- Does a session run: nothing stalled, owed or ending? -/
def Session.runs (x : Session) : Bool :=
  !x.stalled && !x.aborting && !x.ending && !x.freeing && !x.draining && !x.owed && (x.state == 2 || x.state == 4)

/-- The session's part of an engine's choice: a picture to complete with its descriptor, or a chunk to read. A session is taken that
has both stream data and an output descriptor, and a draining one without a descriptor for its chunks. DEDUCED: log 106. -/
def nextWork (w : World) (x : Session) : Option ((Config.Picture × BitVec 256) ⊕ Feed) :=
  let chunk : Option ((Config.Picture × BitVec 256) ⊕ Feed) := match x.chunks with
    | c :: _ => if mayStart w c.thread c.seq 6 then some (.inr c) else none
    | [] => none
  if !x.runs then none
  else match x.descs with
    | [] => if x.state = 4 then chunk else none
    | (d, t, seq) :: _ =>
      if !mayStart w t seq 6 then none
      else match nextParsed x with
        | .picture p => some (.inl (p, d))
        | _ => chunk

/-- The session that engine `e` serves: the one whose picture it is in, else round the contexts from the one after the last. It is
in a picture from a chunk's end up to the picture's completion, unless the chunk ended between pictures. DEDUCED: log 106. -/
def servedSession (w : World) (e : Nat) : Option Nat :=
  let g := w.engine e
  match g.busy.filter fun n => tabHas n w.sessions with
  | some n => some n
  | none => ((List.range 16).map fun i => 16 * e + (g.last + 1 + i) % 16).find? fun n =>
    match w.session? n with
    | some x => (nextWork w x).isSome
    | none => false

/-- What session `n` may do now. -/
def dueWork (w : World) (n : Nat) (x : Session) : Option ((Config.Picture × BitVec 256) ⊕ Feed) :=
  if servedSession w (n / 16) = some n then nextWork w x else none

/-- The engine of session `n` has served it, and is in a picture of it or at a boundary. -/
def World.engineAt (w : World) (n : Nat) (inPicture : Bool) : World :=
  { w with engines := tabSet (n / 16) { last := n % 16, busy := if inPicture then some n else none } w.engines }

/-! ### The events of a session -/

/-- What is owed to a session's block, or its end, comes first; a command that a qfence holds comes when it may start (R207). -/
def payOwed (w : World) (n : Nat) (x : Session) : World :=
  if x.stalled || !mayStart w x.after.1 x.after.2 6 then w
  else if x.ending || x.freeing then endSession w n x
  else if x.draining then settleSession w n { x with state := 4, draining := false }
  else if x.owed then writeStatus w n x
  else w

/-- PICTURE_COMPLETE: block tensor, picture record, session fields and stamp (R29, R31). DEDUCED: log 79. -/
def execPictureComplete (n : Nat) (s : State) : Outcome :=
  event (budgeted fun w =>
    match w.session? n with
    | none => w
    | some x =>
      match dueWork w n x with
      | some (.inl (p, d)) =>
        let (rows, y) := pictureWrites n x p d
        match storeRows w (sessionReach n) (sessionTask w x) x.sp rows with
        | (_, .error _) => w
        | (w, .ok lost) => settleSession ((lostBySession w n x 6 lost).engineAt n false) n { y with met := false }
      | _ => payOwed w n x) s

/-- CHUNK_CONSUMED: every byte of the chunk has been read, and `BCON` passes it (R18). DEDUCED: log 79. -/
def execChunkConsumed (n : Nat) (s : State) : Outcome :=
  event (budgeted fun w =>
    match w.session? n with
    | none => w
    | some x =>
      match dueWork w n x with
      | some (.inr c) =>
        match nodeLoad w (sessionReach n) (sessionTask w x) x.sp Touch.load c.va c.len with
        | (_, .error _) => w
        | (w, .ok bs) =>
          let y := { x with chunks := x.chunks.tail, stream := x.stream ++ bs, bcon := x.bcon + c.len, met := false }
          let inPicture := match nextParsed y with
            | .picture _ | .more true => true
            | .more false | .badSequence => false
          settleSession (w.engineAt n inPicture) n y
      | _ => payOwed w n x) s

/-- ABORT_CLOSE: an aborted session closes; the picture in progress writes nothing further (R17). DEDUCED: log 83. -/
def execAbortClose (n : Nat) (s : State) : Outcome :=
  event (budgeted fun w =>
    match w.session? n with
    | none => w
    | some x =>
      if x.aborting && !x.stalled && mayStart w x.after.1 x.after.2 6 then endSession w n { x with chunks := [], descs := [] }
      else payOwed w n x) s

/-- The fault that a session's next access meets, with `ACC` and `SZL`. -/
def sessionFault (w : World) (n : Nat) (x : Session) : Option (MemFault × Nat × Nat) :=
  let meets (rows : List (Nat × List Byte)) (szl : Nat) : Option (MemFault × Nat × Nat) :=
    match storeRows w (sessionReach n) (sessionTask w x) x.sp rows with
    | (_, .error f) => some (f, 1, szl)
    | (_, .ok _) => none
  if x.stalled || !mayStart w x.after.1 x.after.2 6 then none
  else if x.ending || x.aborting || x.freeing then meets (endRows n x) 3
  else if x.owed then meets (statusRows n x) 3
  else match dueWork w n x with
    | some (.inl (p, d)) => meets (pictureWrites n x p d).1 6
    | some (.inr c) =>
      match nodeLoad w (sessionReach n) (sessionTask w x) x.sp Touch.load c.va c.len with
      | (_, .error f) => some (f, 0, 6)
      | (_, .ok _) => none
    | none => none

/-! ### The HWE words (R249) -/

/-- The engine of a die that a new session is bound to: the fewest sessions, the lowest number on a tie; none when all
are full (R15). DEDUCED: log 82. -/
def pickEngine (w : World) (d : Nat) : Option Nat :=
  let count (e : Nat) : Nat := (w.sessions.filter fun kv => kv.1 / 16 == 8 * d + e).length
  (List.range 8).foldl (fun m e =>
    if 16 ≤ count e then m
    else match m with
      | none => some e
      | some k => if count e < count k then some e else m) none

/-- Open a session for thread `t` from a session block at `va` (R15, R16). -/
def openSession (w : World) (t : Nat) (sp : Space) (va : Nat) (b : Block) : World × Nat :=
  let d := dieOf (coreOf t)
  if 4 ≤ hCodec b then (w, 2 ^ 63 + 3)
  else if sessionBad b then (w, 2 ^ 63 + 6)
  else match pickEngine w d with
    | none => (w, 2 ^ 63 + 6)
    | some e =>
      let base := 128 * d + 16 * e
      match findUp (fun i => !tabHas (base + i) w.sessions) 16 0 with
      | none => (w, 2 ^ 63 + 6)
      | some i =>
        let x : Session := { state := 1, err := 0, sp := sp, thread := t, va := va, blk := b, chunks := [], descs := [], stream := []
                             bcon := 0, pdone := 0, sideOff := 0, skipping := false, badRefs := [], after := (t, w.cmdSeq + 1)
                             aborting := false, draining := false, freeing := false, ending := false, owed := true, stalled := false
                             met := false }
        (payOwed ((takeSeq w).1.setSession (base + i) x) (base + i) x, base + i)

def execHwopen (p : Pr) (d a : Reg) (s : State) : Outcome :=
  word 1 p { use .other [a] [d] with cres := true } (fun s =>
    let va := s.readG a
    if va.toNat % 64 != 0 then .trap 0x07 va
    else match loadNum s .load .acqRel Touch.load va 64 with
      | (_, .error t) => .trap t.code t.val
      | (s, .ok b) =>
        let (w, v) := openSession s.w s.turn (wordSpace s) va.toNat (BitVec.ofNat 512 b)
        .ok ({ s with w := w }.writeG d (BitVec.ofNat 64 v))) s

/-- The session that a number names for the thread whose turn it is (R224). -/
def heldSession (s : State) (v : Nat) : Option Session :=
  if v / 128 = s.die then
    match s.w.session? v with
    | some x => if x.sp.asid = (wordSpace s).asid then some x else none
    | none => none
  else none

/-- Does a session take chunks and descriptors? -/
def Session.takes (x : Session) : Bool := decide (1 ≤ x.state ∧ x.state ≤ 3) && !x.draining

/-- A command of the thread whose turn it is changes a session: `x` with what is owed to its block, now, or when every
qfence before the command lets it start (R207). -/
def commandSession (s : State) (n : Nat) (x : Session) : World :=
  let (w, seq) := takeSeq s.w
  let x := { x with after := (s.turn, seq) }
  payOwed (w.setSession n x) n x

/-- hwfeed: the result, and the machine with the chunk queued (R18, R249). DESIGN CHOICE: log 126. -/
def feedSession (s : State) (n va len : Nat) : World × Nat :=
  match heldSession s n with
  | none => (s.w, 2)
  | some x =>
    if !x.takes then (s.w, 2)
    else if len = 0 ∨ 2 ^ 24 < len then (s.w, 3)
    else if 16 ≤ x.chunks.length then (s.w, 1)
    else
      let (w, seq) := takeSeq s.w
      let x := { x with chunks := x.chunks ++ [{ va := va, len := len, thread := s.turn, seq := seq }] }
      (if x.state = 1 then commandSession { s with w := w } n { x with state := 2, owed := true } else w.setSession n x, 0)

def execHwfeed (p : Pr) (d a b : Reg) (s : State) : Outcome :=
  word 1 p { use .other [d, a, b] [d] with cres := true } (fun s =>
    let (w, v) := feedSession s (s.readG d).toNat (s.readG a).toNat (s.readG b).toNat
    .ok ({ s with w := w }.writeG d (BitVec.ofNat 64 v))) s

/-- Is an output descriptor valid (R250)? -/
def outputValid (d : BitVec 256) : Bool :=
  oTensor d % 64 == 0 && decide (64 ≤ oCap d) && bits d.toNat 127 96 == 0 && oRecord d % 128 == 0 && bits d.toNat 255 192 == 0

/-- hwpic: the result, and the machine with the descriptors queued (R20, R249, R250). DESIGN CHOICE: log 126. -/
def pictureSession (s : State) (n count : Nat) (b : Block) : World × Nat :=
  match heldSession s n with
  | none => (s.w, 2)
  | some x =>
    if !x.takes then (s.w, 2)
    else if count = 0 ∨ 2 < count then (s.w, 3)
    else
      let ds := [b.setWidth 256, (b >>> 256).setWidth 256].take count
      if !ds.all outputValid then (s.w, 4)
      else if 4 < x.descs.length + count then (s.w, 1)
      else
        let (w, seq) := takeSeq s.w
        let x := { x with descs := x.descs ++ ds.map fun d => (d, s.turn, seq) }
        (if x.state = 3 then commandSession { s with w := w } n { x with state := 2, owed := true } else w.setSession n x, 0)

def execHwpic (p : Pr) (d a b : Reg) (s : State) : Outcome :=
  word 1 p { use .other [d, a, b] [d] with cres := true } (fun s =>
    match loadNum s .load .acqRel Touch.load (s.readG a) 64 with
    | (_, .error t) => .trap t.code t.val
    | (s, .ok blk) =>
      let (w, v) := pictureSession s (s.readG d).toNat (s.readG b).toNat (BitVec.ofNat 512 blk)
      .ok ({ s with w := w }.writeG d (BitVec.ofNat 64 v))) s

/-- hwclose in drain or abort mode (R17, R249). DEDUCED: log 83. -/
def closeSession (s : State) (n : Nat) (abort : Bool) : World × Nat :=
  match heldSession s n with
  | none => (s.w, 2)
  | some x =>
    if x.state = 5 then (commandSession s n { x with freeing := true, stalled := false, met := false }, 0)
    else if abort then
      let (w, seq) := takeSeq s.w
      (w.setSession n { x with aborting := true, stalled := false, met := false, after := (s.turn, seq) }, 0)
    else if x.state = 4 || x.draining then (s.w, 0)
    else (commandSession s n { x with draining := true }, 0)

def execHwclose (p : Pr) (d a : Reg) (s : State) : Outcome :=
  word 1 p { use .other [d, a] [d] with cres := true } (fun s =>
    let v := s.readG a
    if 2 ≤ v.toNat then .trap 0x07 v
    else
      let (w, c) := closeSession s (s.readG d).toNat (v == 1)
      .ok ({ s with w := w }.writeG d (BitVec.ofNat 64 c))) s

/-- The word that `hwstat` returns for a session (R249). -/
def sessionWord (x : Session) : Nat :=
  x.state + x.err * 2 ^ 8 + x.chunks.length * 2 ^ 16 + x.descs.length * 2 ^ 24 + x.pdone % 2 ^ 32 * 2 ^ 32

/-- hwstat: a status read; all ones for a session that is not held (R224, R249). -/
def execHwstat (p : Pr) (d a : Reg) (s : State) : Outcome :=
  word 1 p (use .other [a] [d]) (fun s =>
    match heldSession s (s.readG a).toNat with
    | none => .ok (s.writeG d (BitVec.allOnes 64))
    | some x => .ok (s.writeG d (BitVec.ofNat 64 (sessionWord x)))) s

end Sys2Proof.Machine
end

