-- ==== Sys2Proof/Machine/Service.lean ====
section
/-! DEFINITION. Memory-node faults and their service, element faults and rollback (R196, R257, R260 to R267). -/

namespace Sys2Proof.Machine

/-! ### What a completion waits for (R105, R145) -/

/-- Has every counted sink of an element's active plane reported (R105)? -/
def sinksDone (x : Elem) : Bool :=
  (handlersOf x.act).all fun h => (handler x.act h).op != 0x4B || x.kreg h 0 == 0 || bit x.reported h

/-- Has a region completed, with every store and atomic it issued performed (R145)? None does while a wavefront passes through it, when its
elements have two active planes between them, or without power. DEDUCED: log 125. -/
def regionDone (w : World) (r : Nat) : Bool :=
  let g := w.region r
  g.running && !g.starting && !g.frozen && g.fault.isNone && g.shadow != .wave && powered w (r / 4)
    && (regionElems w r).all fun e =>
      sinksDone (w.elem e) && !(w.elem e).acc.any fun a => a.phase != .done && a.op.writes

/-- The store of a completion value that `rgstart` armed (R145, R228). -/
def completionStore (w : World) (r va v : Nat) : World × Except MemFault (List Seg) :=
  nodeStore w (cfgReach r) (w.region r).task (w.region r).space Touch.store va (leBytes 8 v)

/-! ### The access that a node cannot perform (R260) -/

/-- A fault of a memory node: what it met; its receiving thread, or the region of a task that has none; the task that it
works for; its record; and whether it has met an uncorrectable error before. -/
structure NodeFault where
  fault : MemFault
  rcv : Option Nat
  region : Option Nat
  task : Option Nat
  record : FaultRec
  met : Bool
  deriving DecidableEq, Repr

/-- Is a memory fault an uncorrectable error (R264)? -/
def MemFault.poison (f : MemFault) : Bool := poisonKind f.kind

/-- The error that a result gives, if any. -/
def errorOf {α : Type} (x : Except MemFault α) : Option MemFault :=
  match x with
  | .error f => some f
  | .ok _ => none

/-- The fault that entry `i` of an element's slots meets, when it may be performed now. -/
def accessFault (w : World) (e i : Nat) : Option MemFault :=
  let x := w.elem e
  match x.acc[i]? with
  | none => none
  | some a =>
    if a.phase != .issued || a.op == .none || a.logged.isSome || !powered w (eCore e) then none
    else if a.op.isChain then
      if chainWaits x i a then none
      else match locateWord w e a with
        | (_, .error (.ok f)) => some f
        | _ => none
    else if mustWait x i then none
    else match performAccess w e a with
      | .stalls _ f => some f
      | _ => none

/-- The entries of an element that stall under one record with entry `i`: issued by the same handler, and faulting
alike in the same page. DEDUCED: log 37. -/
def stallsWith (w : World) (e i : Nat) (f : MemFault) : List Nat :=
  let x := w.elem e
  let h := ((x.acc[i]?).map (·.h)).getD 0
  (List.range x.acc.length).filter fun j =>
    ((x.acc[j]?).map (·.h)).getD 4 == h && (match accessFault w e j with
      | some g => g.kind == f.kind && g.va / 2 ^ 17 == f.va / 2 ^ 17
      | none => false)

/-- Of the faults of some entries of an element, the one at the lowest virtual address (R261). -/
def lowestFault (w : World) (e : Nat) (js : List Nat) (f : MemFault) : MemFault :=
  js.foldl (fun f j => match accessFault w e j with
    | some g => if g.va < f.va then g else f
    | none => f) f

/-- An edge element's fault, by element and entry: its record names the first access that stalls under it (R261).
DEDUCED: log 35. -/
def edgeFault (w : World) (e i : Nat) : Option NodeFault :=
  match accessFault w e i, regionOf w e with
  | some f, some r =>
    let g := w.region r
    let js := stallsWith w e i f
    match (w.elem e).acc[js.headD i]? with
    | none => none
    | some a =>
      let f := lowestFault w e js f
      some { fault := f, rcv := g.owner, region := some r, task := g.task
             met := js.any fun j => ((w.elem e).acc[j]?).any (·.met)
             record := { faultRecord (eCore e) (edgeSpace w e) a.op.acc.code (Nat.log2 a.len) 0 f with
               rgn := r % 4, strm := streamKey w e a.h % 64, unit := relCol w r e * 256 + relRow w r e, ord := a.ord
               nstl := js.length } }
  | _, _ => none

/-- A copy channel's fault: of the next piece, or of the stamp (R242). DEDUCED: log 24, 38. -/
def channelFault (w : World) (k : Nat) : Option NodeFault :=
  let ch := w.channel k
  match ch.cur with
  | none => none
  | some x =>
    let task := (w.thread x.thread).task
    let fault : Option (MemFault × Nat × Nat) :=
      if ch.stalled then none
      else if x.cancelled || decide (cTotal x.blk ≤ ch.pos) then
        if cStamp x.blk = 0 then none
        else (errorOf (nodeStore w (.copy (k / 4)) task x.sp Touch.store (cStamp x.blk) (leBytes 8 (stampValue x))).2).map fun f => (f, 1, 3)
      else match copyPiece w k x ch.pos with
        | (_, .error (f, acc)) => some (f, acc, Nat.log2 (pieceLen x.blk ch.pos))
        | (_, .ok _) => none
    fault.map fun (f, acc, szl) =>
      { fault := f, rcv := some x.thread, region := none, task := task, met := ch.met
        record := { faultRecord (k / 4) x.sp acc szl 1 f with unit := k % 4, ord := ch.pos } }

/-- A Headwater session's fault. -/
def headwaterFault (w : World) (n : Nat) : Option NodeFault :=
  match w.session? n with
  | none => none
  | some x => (sessionFault w n x).map fun (f, acc, szl) =>
      { fault := f, rcv := some x.thread, region := none, task := sessionTask w x, met := x.met
        record := { faultRecord (coreOf x.thread) x.sp acc szl 2 f with unit := n, ord := x.bcon } }

/-- What the configuration controller of a region would access next and cannot, with `ACC` and `SZL`: the header or a
command of a load, the status of `cfgst`, or the area of `rgsave` or `rgload`. A load of the dispatcher does not stall. -/
def configAccess (w : World) (r : Nat) : Option (MemFault × Nat × Nat × Space) :=
  let g := w.region r
  let who := cfgReach r
  let load (sp : Space) (va n szl : Nat) := (errorOf (nodeLoad w who g.task sp Touch.load va n).2).map fun f => (f, 0, szl, sp)
  let store (sp : Space) (va : Nat) (bs : List Byte) (szl : Nat) :=
    (errorOf (nodeStore w who g.task sp Touch.store va bs).2).map fun f => (f, 1, szl, sp)
  let head : Option (MemFault × Nat × Nat × Space) :=
    if g.cqStalled then none
    else match g.saveAt with
      | some (va, sp) =>
        if accessesSettled w r then
          (errorOf (storePieces w who g.task sp va (areaPieces w r { tag := 0, thr := none, halted := false, forced := false, armed := g.armed
                                                                     overrun := 0, tiles := false } [])).2).map fun f => (f, 1, 6, sp)
        else none
      | none => match g.cq with
        | (.load va false, sp) :: _ => if loadMayBegin g && regionAwake w r && ownerStoresDone w r then load sp va 32 5 else none
        | (.status va, sp) :: _ => store sp va (statusImage w r) 4
        | (.restore va, sp) :: _ => if !ownerStoresDone w r then none else (errorOf (readArea w who g.task sp va g).2).map fun f => (f, 0, 6, sp)
        | _ => none
  match g.load with
  | some l =>
    if l.lastAt.isSome then head
    else if l.stalled || l.thread.isNone || !regionAwake w r || g.frozen then none
    else load l.sp (l.va + 32 + 4 * l.cmds.length) 4 2
  | none => head

/-- A configuration controller's fault. -/
def configFault (w : World) (r : Nat) : Option NodeFault :=
  (configAccess w r).map fun (f, acc, szl, sp) =>
    let g := w.region r
    { fault := f, rcv := g.owner, region := some r, task := g.task
      met := (match g.load with
        | some l => if l.lastAt.isSome then g.met else l.met
        | none => g.met)
      record := faultRecord (r / 4) sp acc szl 3 f }

/-- What the Sluice of a core would access next and cannot, with `ACC`, `SZL`, the space and the thread. -/
def sluiceAccess (w : World) (c : Nat) : Option (MemFault × Nat × Nat × Space × Nat) :=
  let z := w.sluice c
  let t := z.owner.getD 0
  let task (t : Nat) := selTask w t
  let store (t : Nat) (sp : Space) (va : Nat) (bs : List Byte) :=
    (errorOf (nodeStore w (selReach c) (task t) sp Touch.store va bs).2).map fun f => (f, 1, 3, sp, t)
  let load (t : Nat) (sp : Space) (va n szl : Nat) :=
    (errorOf (nodeLoad w (selReach c) (task t) sp Touch.load va n).2).map fun f => (f, 0, szl, sp, t)
  if z.stalled then none
  else match z.drain with
    | some (final, _, _) =>
      if z.posted = 0 then (errorOf (drainRow w c final).2).map fun f => (f, 1, 3, z.sp, t)
      else
        let post := final && zLren z.blk && zLtmp z.blk != 0
        let next := if post then findUp (fun b => decide (z.posted ≤ b + 1) && tabGet 0 b z.counts != 0) 64 0 else none
        match next with
        | some b => load t z.sp (zLtmp z.blk + 64 * b) 64 6
        | none => store t z.sp (zStamp z.blk) (leBytes 8 (z.drains + 1))
    | none =>
      match z.run, z.queue with
      | some (x, i), _ => (match x.op with
          | .topk va n .. => if n ≤ i then none else load x.thread x.sp (va + 4 * i) 4 2
          | _ => none)
      | none, x :: _ => (match x.op with
          | .hist va _ => if z.on && mayStart w x.thread x.seq 5 then store x.thread x.sp va (histImage z) else none
          | _ => none)
      | none, [] => none

/-- The Sluice's fault. -/
def sluiceFault (w : World) (c : Nat) : Option NodeFault :=
  (sluiceAccess w c).map fun (f, acc, szl, sp, t) =>
    { fault := f, rcv := some t, region := none, task := selTask w t, met := (w.sluice c).met, record := faultRecord c sp acc szl 4 f }

/-- The matrix array's fault: the writes of an `mread` to memory whose cycles are over. -/
def matrixFault (w : World) (c : Nat) : Option NodeFault :=
  let m := w.matrix c
  match m.cur with
  | none => none
  | some x =>
    match x.op with
    | .read acc _ false fmt .. =>
      if w.cycle < m.doneAt || m.stalled then none
      else
        let task := (w.thread x.thread).task
        (errorOf (storeRows w (.engine c) task x.sp (readRows (m.readTile w c acc) x.op)).2).map fun f =>
          { fault := f, rcv := some x.thread, region := none, task := task, met := m.met
            record := faultRecord c x.sp 1 (Nat.log2 (fmtBytes fmt)) 5 f }
    | _ => none

/-- A region controller's fault: the completion store of a region started by `rgstart`. -/
def completionFault (w : World) (r : Nat) : Option NodeFault :=
  let g := w.region r
  match g.armed with
  | some (va, v) =>
    if g.task.isSome && g.owner.isNone || g.complStalled || !regionDone w r then none
    else (errorOf (completionStore w r va v).2).map fun f =>
      { fault := f, rcv := g.owner, region := some r, task := g.task, met := g.complMet, record := faultRecord (r / 4) g.space 1 3 7 f }
  | none => none

/-- The fault of the node that an agent code and a key name: 0 an edge element's entry at 64 e + i, 1 a channel,
2 a session, 3 a region's configuration controller, 4 a core's Sluice, 5 a core's matrix array, 7 a region's controller. -/
def nodeFault (w : World) (agt k : Nat) : Option NodeFault :=
  match agt with
  | 0 => edgeFault w (k / 64) (k % 64)
  | 1 => channelFault w k
  | 2 => headwaterFault w k
  | 3 => configFault w k
  | 4 => sluiceFault w k
  | 5 => matrixFault w k
  | 7 => completionFault w k
  | _ => none

/-- The node stalls in place; `p` when the error is uncorrectable, which it then remembers (R260, R264). -/
def stallNode (w : World) (agt k : Nat) (f : MemFault) : World :=
  let p := f.poison
  match agt with
  | 0 =>
    let e := k / 64
    let x := w.elem e
    let js := stallsWith w e (k % 64) f
    let mark (a : Access) (j : Nat) : Access := if js.contains j then { a with phase := .stalled, met := a.met || p } else a
    w.setElem e { x with acc := x.acc.zipIdx.map fun q => mark q.1 q.2 }
  | 1 => let x := w.channel k; w.setChannel k { x with stalled := true, met := x.met || p }
  | 2 => match w.session? k with
    | some x => w.setSession k { x with stalled := true, met := x.met || p }
    | none => w
  | 3 =>
    let g := w.region k
    match g.load with
    | some l =>
      if l.lastAt.isSome then w.setRegion k { g with cqStalled := true, met := g.met || p }
      else w.setRegion k { g with load := some { l with stalled := true, met := l.met || p } }
    | none => w.setRegion k { g with cqStalled := true, met := g.met || p }
  | 4 => let z := w.sluice k; w.setSluice k { z with stalled := true, met := z.met || p }
  | 5 => let m := w.matrix k; w.setMatrix k { m with stalled := true, met := m.met || p }
  | 7 => let g := w.region k; w.setRegion k { g with complStalled := true, complMet := g.complMet || p }
  | _ => w

/-- A fault that its service could not repair: fatal to the task; a region of no task is stopped (R264). -/
def unrepaired (w : World) (n : NodeFault) : World :=
  match n.task, n.region with
  | some k, _ => declareFatal w (some k) 8
  | none, some r => stopRegion w r
  | none, none => w

/-- MEMORY_NODE_FAULT: the access stalls in place, its record is written and the event raised on the receiving thread;
in a region of a task with no thread it is fatal to the task (R260, R262, R264). DEDUCED: log 37. -/
def execMemoryNodeFault (agt k : Nat) (s : State) : Outcome :=
  event (budgeted fun w =>
    match nodeFault w agt k with
    | none => w
    | some n =>
      match n.rcv with
      | some t =>
        let w := recordAndRaise (stallNode w agt k n.fault) t n.record n.region.isSome
        if n.fault.poison && n.met then unrepaired w n else w
      | none =>
        match n.task with
        | some j => declareFatal (writeTaskRecord (stallNode w agt k n.fault) n.record.core j n.record) (some j) 8
        | none => w) s

/-- STORE_ERROR_RESPONSE: the host or a peer answers a committed store of a thread with an error: the store is not performed, and
stalls (R196, R260). DEDUCED: log 27. -/
def execStoreErrorResponse (t i : Nat) (s : State) : Outcome :=
  event (budgeted fun w =>
    let th := w.thread t
    match th.path[i]? with
    | none => w
    | some x =>
      if x.phase != .sent then w
      else recordAndRaise (w.setThread t { th with path := listSet th.path i { x with phase := .stalled } }) t
        (pathRecord t x (noAnswer w x)) false) s

/-! ### Reissue (R257, R263) -/

/-- Reissue what the store path of a thread holds stalled, each store in its place (R263). DEDUCED: log 27. -/
def reissuePath (w : World) (t : Nat) : World :=
  let th := w.thread t
  w.setThread t { th with path := th.path.map fun x => if x.phase == .stalled then { x with phase := .again } else x }

/-- The spaces, each with its core, in which the nodes whose receiving thread meets `f` hold a stalled access: the streams' are not among
them (R260, R263). -/
def stalledSpaces (w : World) (f : Nat → Bool) : List (Nat × Nat) :=
  let mine (x : Option Nat) : Bool := x.any f
  let paths := w.threads.flatMap fun (t, th) =>
    if f t then (th.path.filter (·.phase == .stalled)).map fun x => (coreOf t, x.sp.asid) else []
  let copies := w.channels.flatMap fun (k, x) =>
    (x.cur.filter fun y => x.stalled && f y.thread).toList.map fun y => (k / 4, y.sp.asid)
  let mats := w.matrices.flatMap fun (c, x) => (x.cur.filter fun y => x.stalled && f y.thread).toList.map fun y => (c, y.sp.asid)
  let sels := w.sluices.flatMap fun (c, z) =>
    if z.stalled then (z.run.toList.map fun y => (c, y.1.sp.asid)) ++ (z.queue.map fun y => (c, y.sp.asid)) ++ [(c, z.sp.asid)] else []
  let feeds := w.sessions.flatMap fun (_, x) => if x.stalled && f x.thread then [(coreOf x.thread, x.sp.asid)] else []
  let ctrls := w.regions.flatMap fun (r, g) =>
    if mine g.owner && (g.cqStalled || g.complStalled || g.load.any (·.stalled)) then
      (g.load.toList.map (·.sp) ++ g.cq.map (·.2) ++ g.saveAt.toList.map (·.2) ++ [g.space]).map fun sp => (r / 4, sp.asid)
    else []
  paths ++ copies ++ mats ++ sels ++ feeds ++ ctrls

/-- The stalled accesses of every node but the streams' whose receiving thread meets `f` are issued again, and take new walks (R263). -/
def reissueNodes (w : World) (f : Nat → Bool) : World :=
  let mine (x : Option Nat) : Bool := x.any f
  let w := (stalledSpaces w f).foldl (fun w s => walkAnew w s.1 s.2) w
  let w := w.threads.foldl (fun w (t, th) => if f t && th.path.any (·.phase == .stalled) then reissuePath w t else w) w
  { w with
    channels := tabMap (fun _ (x : Channel) => if mine (x.cur.map (·.thread)) then { x with stalled := false } else x) w.channels
    matrices := tabMap (fun _ (x : Matrix) => if mine (x.cur.map (·.thread)) then { x with stalled := false } else x) w.matrices
    sluices := tabMap (fun _ (z : Sluice) =>
      if mine ((z.run.map (·.1.thread)).or z.owner) then { z with stalled := false } else z) w.sluices
    sessions := tabMap (fun _ (x : Session) => if f x.thread then { x with stalled := false } else x) w.sessions
    regions := tabMap (fun _ (g : Region) =>
      if mine g.owner then
        { g with load := g.load.map fun l => { l with stalled := false }, cqStalled := false, complStalled := false }
      else g) w.regions }

/-- What an eret of thread `t` reissues (R263). -/
def reissueThread (w : World) (t : Nat) : World := reissueNodes w fun u => u == t

/-! ### Rollback (R266, R267) -/

/-- The record of an element fault: the epoch is that of the cut rolled back to (R261, R266). -/
def elementRecord (w : World) (r e cause nstl : Nat) : FaultRec :=
  let g := w.region r
  let f : MemFault := { kind := 8, lvl := 3, fpa := 0, va := 0 }
  { faultRecord (r / 4) g.space 0 0 0 f with
    ecode := cause, rgn := r % 4, unit := relCol w r e * 256 + relRow w r e, nstl := nstl
    ord := if g.cutting then (g.epoch + 2 ^ 16 - 1) % 2 ^ 16 else g.epoch }

/-- A repeated fault: the region is frozen and its event raised (R258, R266). For a task, a second watchdog fault is fatal,
and so is any repeated fault of a region with no thread (R148). DEDUCED: log 35, 40. -/
def repeatedFault (w : World) (r e cause : Nat) : World :=
  let g := w.region r
  let w := regionRecord w r (elementRecord w r e cause 2) (some (0x30 + cause))
  let w := w.setRegion r { w.region r with frozen := true, fault := none }
  match g.task with
  | some k => if g.owner.isNone || (cause = 0x09 && g.wdFaulted) then declareFatal w (some k) 8 else w
  | none => w

/-- ROLLBACK: a first element fault is recorded and rolled back; a repeated one freezes the region (R266, R267). -/
def execRollback (r : Nat) (s : State) : Outcome :=
  event (budgeted fun w =>
    let g := w.region r
    match g.fault with
    | none => w
    | some (e, cause) =>
      if !regionCanReceive w r || readFrozen w r then w
      else if g.faulted then repeatedFault w r e cause
      else
        let w := rollBack (regionRecord w r (elementRecord w r e cause 1) none) r
        w.setRegion r { w.region r with wdFaulted := cause == 0x09 }) s

end Sys2Proof.Machine
end

