-- ==== Sys2Proof/Machine/Dispatcher.lean ====
section
/-! DEFINITION. The dispatcher of a die: insertion, dependences, placement, binding and completion of tasks, and what each
period begins (R135 to R147, R269). -/

namespace Sys2Proof.Machine

/-! ### Insertion (R138 to R142, R148) -/

/-- A record that is not accepted has its code stored to `CADDR`, when that is aligned (R148). -/
def rejectRecord (w : World) (d : Nat) (x : Inbound) (code : Nat) : World :=
  if lCaddr x.launch % 8 != 0 then w
  else (nodeStore w (.dieAgent d) none x.sp Touch.store (lCaddr x.launch) (leBytes 8 (2 ^ 63 + code))).1

/-- The tasks of a fault domain of a die that are in its table fail with code 7 (R148). -/
def failDomain (w : World) (d dom : Nat) : World :=
  if dom = 0 then w
  else
    let ks := ((dieTasks w d).filter fun kv => kv.2.fdom == dom).map fun kv => (kv.1, 7)
    failRounds (w.tasks.length + 1) w ks true

/-- Are the stores that came before the `tenq` of a record performed, which the dispatcher's reads for it see (R138, R223, R362)?
DEDUCED: log 54. -/
def postedStoresDone (w : World) (x : Inbound) : Bool :=
  x.after.all fun (t, n) => (w.thread t).path.all fun y => decide (n ≤ y.seq)

/-- TASK_INSERTION: the dispatcher reads the oldest record it has accepted and inserts the task, or fails it with its domain (R138, R142,
R148); a task whose path needs more nodes than the die tracks is held (R140). The progress of the launch queue that the record comes
from advances (R285). -/
def execTaskInsertion (d : Nat) (s : State) : Outcome :=
  event (budgeted fun w =>
    match (w.die d).inbox, (w.die d).off with
    | [], _ | _, true => w
    | x :: rest, false =>
      let took (w : World) : World :=
        let w := w.setDie d { w.die d with inbox := rest }
        match x.queue with
        | some q => advanceProg w q
        | none => w
      if !postedStoresDone w x then w
      else match readLaunch w d x with
      | (w', .error (c, dom)) => failDomain (rejectRecord (took w') d x c) d dom
      | (w', .ok (t, path)) =>
        let fresh := (path.filter fun n => !tabHas (2 ^ 64 * d + n.1) w.nodes).length
        if 512 < dieNodes w d + fresh then w
        else
          let w := trackPath (took w') d path
          let w := w.setDie d { w.die d with nextNum := (w.die d).nextNum + 1 }
          w.setTask (taskKey d (lTag x.launch)) t) s

/-! ### Dependences (R136, R142) -/

/-- What reading a completion word comes to: satisfied, not yet, or the code with which the task fails. A read that a budget holds is not
made (R141). -/
def pollWord (w : World) (k : Nat) (x : Task) (va : Nat) : World × Except Nat Bool :=
  match nodeLoad w (.dieAgent (taskDie k)) (some k) x.src Touch.load va 8 with
  | (w', .error _) => if w.overrun w w' then (w, .ok false) else (w', .error 4)
  | (w', .ok b) =>
    if w.overrun w w' then (w, .ok false)
    else if bit (leNat b) 63 then (w', .error 6) else (w', .ok (leNat b != 0))

/-- Re-read the slots of a waiting task; with none left it is ready. -/
def pollTask (w : World) (k : Nat) : World :=
  match w.task? k with
  | none => w
  | some x =>
    if x.phase != .waiting || x.dying.isSome then w
    else
      let (w, left, bad) := x.deps.foldl (fun (acc : World × List Dep × Option Nat) p =>
        let (w, left, bad) := acc
        match p with
        | .tag _ => (w, left ++ [p], bad)
        | .word va =>
          match pollWord w k x va with
          | (w, .error c) => (w, left, bad.or (some c))
          | (w, .ok true) => (w, left, bad)
          | (w, .ok false) => (w, left ++ [p], bad)) (w, [], none)
      match bad with
      | some c => failTask w k c
      | none =>
        if left.isEmpty then w.setTask k { x with deps := [], phase := .ready, readyAt := w.periods }
        else w.setTask k { x with deps := left }

/-- DEPENDENCE_POLL: the completion words of waiting slots are read again (R142). -/
def execDependencePoll (d : Nat) (s : State) : Outcome :=
  event (fun w => if (w.die d).off then w else (dieTasks w d).foldl (fun w kv => pollTask w kv.1) w) s

/-! ### Placement (R143) -/

/-- The effective priority of a task: one more for every 64 whole periods spent ready, up to 15. DEDUCED: log 47. -/
def Task.effective (x : Task) (w : World) : Nat :=
  if x.phase = .ready ∨ x.phase = .saved then max x.prio (min 15 (x.prio + (w.periods - x.readyAt - 1) / 64)) else x.prio

/-- Has a task that waits for placement waited through at least one whole period? DEDUCED: log 47. -/
def Task.waited (x : Task) (w : World) : Bool := match x.unplaced with
  | some u => decide (u < w.periods)
  | none => false

/-- The threads of a core that may run a task: halted, running none, and owning no region. -/
def idleThreads (w : World) (c : Nat) : List Nat :=
  ([0, 1, 2, 3].map (4 * c + ·)).filter fun t =>
    (w.thread t).phase == .halted && (w.thread t).task.isNone && !([0, 1, 2, 3].any fun h => (w.region (4 * c + h)).owner == some t)

/-- May the dispatcher bind a task to a core? -/
def coreQualifies (w : World) (x : Task) (c : Nat) : Bool :=
  (w.core c).enabled && !(w.core c).fenced && (x.sameCore.all (· == c)) && (x.entry == 0 || !(idleThreads w c).isEmpty)

/-- The mask of a shape with its top-left sector at row `i` and column `j`. -/
def shapeMask (h wd i j : Nat) : Nat :=
  (cellsOf h wd).foldl (fun m (a, b) => m + 2 ^ (4 * (i + a) + j + b)) 0

/-- Do the header's `EDGL` and `EDGR` bits suit a mask (R73, R143)? -/
def edgesSuit (x : Task) (m : Nat) : Bool :=
  let (_, l, _, wd) := maskRect m
  (!bit x.hdr.toNat 9 || l == 0) && (!bit x.hdr.toNat 10 || l + wd == 4)

/-- A place for a task: its region, its mask, a reusable region that is freed first, and whether its planes stand. -/
structure Place where
  region : Nat
  mask : Nat
  drops : Option Nat
  keeps : Bool
  deriving DecidableEq, Repr

/-- The reusable regions of a task's shape on a core, by handle. -/
def reusableOf (w : World) (x : Task) (c : Nat) : List Nat :=
  ((reusableHandles w c).map (4 * c + ·)).filter fun r => (w.region r).shape == (x.shh, x.shw)

/-- Step 1: a reusable region whose active plane is the task's configuration, unchanged. DEDUCED: log 48. -/
def placeSame (w : World) (x : Task) (c : Nat) : Option Place :=
  ((reusableOf w x c).find? fun r => activeCid w r == bits x.hdr.toNat 127 64 && !(w.region r).actChanged).map fun r =>
    { region := r, mask := (w.region r).mask, drops := none, keeps := true }

/-- Step 2: free sectors that form the shape, and a handle for them. DEDUCED: log 48. -/
def placeFree (w : World) (x : Task) (c : Nat) : Option Place :=
  let used := (liveHandles w c).foldl (fun m h => m ||| (w.region (4 * c + h)).mask) 0
  let mask := (cellsOf (4 - x.shh) (5 - x.shw)).findSome? fun (i, j) =>
    let m := shapeMask x.shh x.shw i j
    if m &&& used = 0 ∧ edgesSuit x m then some m else none
  match mask, [0, 1, 2, 3].find? (fun h => !(w.region (4 * c + h)).live), reusableHandles w c with
  | some m, some h, _ => some { region := 4 * c + h, mask := m, drops := none, keeps := false }
  | some m, none, h :: _ => some { region := 4 * c + h, mask := m, drops := some (4 * c + h), keeps := false }
  | _, _, _ => none

/-- Step 3: a reusable region of the shape with another configuration. -/
def placeOther (w : World) (x : Task) (c : Nat) : Option Place :=
  ((reusableOf w x c).find? fun r => edgesSuit x (w.region r).mask).map fun r =>
    { region := r, mask := (w.region r).mask, drops := none, keeps := false }

/-- The place of a task among some cores, in order. -/
def placeOn (w : World) (x : Task) (cs : List Nat) : Option Place :=
  let cs := cs.filter (coreQualifies w x)
  ((cs.findSome? (placeSame w x)).or (cs.findSome? (placeFree w x))).or (cs.findSome? (placeOther w x))

/-- The cores of a die. -/
def coresOf (d : Nat) : List Nat := (List.range 40).map (40 * d + ·)

/-- The place of a task on its die; none on a die that is fenced, and none before the cores are released. -/
def placeTask (w : World) (d : Nat) (x : Task) : Option Place :=
  if !w.jibor.released || (w.die d).fenced then none else placeOn w x (coresOf d)

/-- Does task `x` come before task `y`: higher effective priority, then earlier insertion? -/
def before (w : World) (x y : Task) : Bool :=
  decide (y.effective w < x.effective w) || (y.effective w == x.effective w && decide (x.num < y.num))

/-- Insert by order. -/
def insertTask (w : World) (p : Nat × Task) : List (Nat × Task) → List (Nat × Task)
  | [] => [p]
  | q :: rest => if before w p.2 q.2 then p :: q :: rest else q :: insertTask w p rest

/-- The tasks of a die that wait for placement, in the dispatcher's order. -/
def readyTasks (w : World) (d : Nat) : List (Nat × Task) :=
  ((dieTasks w d).filter fun kv => (kv.2.phase == .ready || kv.2.phase == .saved) && kv.2.dying.isNone).foldl (fun l p => insertTask w p l) []

/-- The first task that finds a place. While one of effective priority 15 that has waited a whole period finds none, no
task of lower priority is bound. -/
def firstPlaced (w : World) (d : Nat) : List (Nat × Task) → Bool → Option (Nat × Task × Place)
  | [], _ => none
  | (k, x) :: rest, only =>
    if only && decide (x.effective w < 15) then none
    else match placeTask w d x with
      | some p => some (k, x, p)
      | none => firstPlaced w d rest (only || (x.effective w == 15 && x.waited w))

/-- Cycles of a period (R141). -/
def periodCycles : Nat := 33000

/-! ### Binding (R144) -/

/-- The registers and CSRs of a task's thread at its start. -/
def startThread (old : Thread) (t k h : Nat) (x : Task) : Thread :=
  let g : Tab Word := [(2, BitVec.ofNat 64 (localBase + (t % 4 + 1) * 0x100000)), (3, BitVec.ofNat 64 x.trec)]
    ++ (x.args.zipIdx.map fun (v, i) => (4 + i, v)) ++ [(12, BitVec.ofNat 64 h)]
  { Thread.reset with
    pc := BitVec.ofNat 64 x.entry, g := g, phase := .running, events := old.events, thand := handlerAddr (BitVec.ofNat 64 x.thand)
    ctxid := BitVec.ofNat 64 (taskTag k), asid := BitVec.ofNat 64 x.space.asid, ptbase := BitVec.ofNat 64 x.space.ptb
    fltrec := BitVec.ofNat 64 x.fring, bgtSel := old.bgtSel, path := old.path, qfences := old.qfences, task := some k
    dheld := old.dheld, drun := old.drun }

/-- The region of a task in its place, with its streams bound and the thread that owns it. -/
def takePlace (w : World) (k : Nat) (x : Task) (p : Place) (t : Option Nat) : World :=
  let w := match p.drops with
    | some r => discardRegion w r
    | none => w
  let c := p.region / 4
  let h := p.region % 4
  let g : Region := { Region.reset with owner := t, mask := p.mask, task := some k, space := x.space, movedAt := w.cycle }
  let w := if (w.region p.region).live then unbindStreams (w.setRegion p.region g) p.region else newRegion w c h p.mask g
  x.binds.foldl (fun w (n, b) => w.setStream (64 * c + 16 * h + n) { Stream.reset with bound := true, blk := b }) w

/-- The lowest thread of a place's core that may run a task, when the task has one. -/
def placeThread (w : World) (x : Task) (p : Place) : Option Nat :=
  if x.entry = 0 then none else (idleThreads w (p.region / 4)).head?

/-- Bind a ready task to its place (R144); claims of the thread's earlier work are released (R315). -/
def bindTask (w : World) (k : Nat) (x : Task) (p : Place) : World :=
  let t := placeThread w x p
  let w := takePlace w k x p t
  let w := match t with
    | some u => let w := releaseSlots w u; w.setThread u (startThread (w.thread u) u k (p.region % 4) x)
    | none => w
  let g := w.region p.region
  let cq := if p.keeps then [] else [(CfgCmd.load x.cfg true, x.src), (CfgCmd.switch, x.src)]
  let w := w.setRegion p.region { g with running := true, starting := true, cq := cq }
  let w := w.setTask k { x with
    phase := .running, prio := x.effective w, unplaced := none, region := some p.region, thread := t
    sliceEnd := w.cycle + 64 * periodCycles }
  serveCfg w p.region

/-- TASK_BINDING: the first ready task that finds a place is bound (R143, R144). -/
def execTaskBinding (d : Nat) (s : State) : Outcome :=
  event (fun w =>
    match firstPlaced w d (readyTasks w d) false with
    | some (k, x, p) => if x.phase = .ready then bindTask w k x p else w
    | none => w) s

/-! ### Completion (R145) -/

/-- REGION_COMPLETION: a task whose region has completed and whose thread has halted, every store of it performed, completes; a region
that `rgstart` started makes its completion store and stops (R145, R218, R228). -/
def execRegionCompletion (r : Nat) (s : State) : Outcome :=
  event (budgeted fun w =>
    let g := w.region r
    if !regionDone w r then w
    else match g.armed, g.task with
      | some (va, v), _ =>
        if g.complStalled then w
        else match completionStore w r va v with
          | (_, .error _) => w
          | (w, .ok lost) =>
            let w := noteLostIn w r 7 0 0 0xFF 3 g.space lost
            let w := match g.owner with
              | some t => setFlag w t
              | none => w
            stopRegion w r
      | none, some k =>
        match w.task? k with
        | some x =>
          let rests := x.thread.all fun t => (w.thread t).phase == .halted && (w.thread t).path.isEmpty
          if rests && x.dying.isNone then completeTask w k else w
        | none => w
      | none, none => w) s

/-! ### Periods (R141, R143, R269, R295) -/

/-- A node as the next period opens: what passed a budget is carried over. DEDUCED: log 45. -/
def Node.reopen (x : Node) : Node :=
  { x with cnt := x.cnt.zipIdx.map fun (n, i) => let b := x.lim.getD i 0xFFFFFFFF; if b = 0xFFFFFFFF then 0 else n - b }

/-- The module node's budgets: `MBGT` of the record installed last, or half of it while a junction is hot; no limit
without a record (R295, R297). DEDUCED: log 45. -/
def moduleBudgets (j : Jibor) : List Nat :=
  let body := j.waiting.getD j.record
  if body.isEmpty then Node.free.lim
  else [0, 1, 2, 3].map fun i =>
    let b := at_ body (8 + 4 * i) 4
    if b = 0xFFFFFFFF then b else if j.hot then b / 2 else b

/-- A task's drain in cycles (R270). -/
def drainCycles (x : Task) : Nat := ceilDiv (x.drain * 33) 10

/-- The stop times of a victim chosen now: the stop request, the slice end and the force point (R270). -/
def stopTimes (w : World) (x : Task) : Nat × Nat × Nat :=
  let d := drainCycles x
  let e := w.cycle + periodCycles * ceilDiv d periodCycles
  (e - d, e, e - d + 2 * d)

/-- Would the place of task `y`, once freed, qualify for task `x`? -/
def freesPlace (w : World) (x y : Task) : Bool :=
  match y.region with
  | none => false
  | some r =>
    let w' := discardRegion w r
    let w' := match y.thread with
      | some t => w'.setThread t { w'.thread t with phase := .halted, task := none }
      | none => w'
    (placeOn w' x [r / 4]).isSome

/-- May task `y` be the victim of task `x` (R269, R294)? -/
def victimSuits (w : World) (x y : Task) : Bool :=
  y.phase == .running && y.csave != 0 && decide (y.effective w < x.effective w) && decide (y.sliceEnd ≤ w.cycle)
    && y.victim.isNone && (y.thread.all fun t => !(w.thread t).dheld) && freesPlace w x y

/-- The victim of a task: lowest effective priority, then highest insertion number (R269). -/
def victimOf (w : World) (d : Nat) (x : Task) : Option (Nat × Task) :=
  (((dieTasks w d).filter fun kv => victimSuits w x kv.2).foldl (fun l p => insertTask w p l) []).getLast?

/-- The tasks of a die that have waited a whole period and still find no place choose their victims. -/
def chooseVictims (w : World) (d : Nat) : World :=
  (readyTasks w d).foldl (fun w (k, x) =>
    if !x.waited w || (placeTask w d x).isSome
        || (dieTasks w d).any (fun kv => kv.2.victim.any fun v => v.1 == taskTag k) then w
    else match victimOf w d x with
      | some (j, y) => let (s, e, f) := stopTimes w y; w.setTask j { y with victim := some (taskTag k, s, e, f) }
      | none => w) w

/-- A task that waits for placement and finds none is noted, with the period. -/
def noteUnplaced (w : World) (d : Nat) : World :=
  (readyTasks w d).foldl (fun w (k, x) =>
    if x.unplaced.isNone && (placeTask w d x).isNone then w.setTask k { x with unplaced := some w.periods } else w) w

/-- PERIOD_START: the budgets open, and the dispatchers look for victims (R141, R269). -/
def execPeriodStart (s : State) : Outcome :=
  event (fun w =>
    if w.cycle < periodCycles * (w.periods + 1) then w
    else
      let w := { w with
        periods := w.periods + 1
        nodes := tabMap (fun _ (x : Node) => x.reopen) w.nodes
        moduleNode := { w.moduleNode.reopen with lim := moduleBudgets w.jibor } }
      (List.range 8).foldl (fun w d => noteUnplaced (chooseVictims w d) d) w) s

end Sys2Proof.Machine
end

