-- ==== Sys2Proof/Machine/EdgeOps.lean ====
section
/-! DEFINITION. The edge memory operations on strided patterns, thread ports and the Sluice (R109 to R120, R123, R124,
R232). -/

namespace Sys2Proof.Machine

/-- The handler begins its stream, if it has not: a waiting binding takes effect, and its count starts (R231, R233). -/
def beginStream (w : World) (e h : Nat) : World :=
  let x := w.elem e
  if x.work h wBegun = 1 then w
  else
    let k := streamKey w e h
    (w.setStream k { boundStream w e h with next := none, begun := true, cnt := 0 }).setElem e (x.setWork h wBegun 1)

/-- A source's stream has come to its end: it issues nothing more. -/
def endSource (w : World) (e h : Nat) : World :=
  let x := w.elem e
  let k := streamKey w e h
  (w.setStream k { w.stream k with begun := false }).setElem e { x with stopped := x.stopped ||| 2 ^ h }

/-- An end-of-stream has passed: the stream is no longer part-way (R231). DEDUCED: log 64. -/
def passedEos (w : World) (e h : Nat) (t : Token) : World :=
  if t.isCtl && t.code == 3 then
    let k := streamKey w e h
    w.setStream k { w.stream k with begun := false }
  else w

/-- A firing of an edge operation that uses a stream: its pattern is checked (R113), and its stream begun. A thread
port has no pattern, and only `ldst` and `stst` may use it (R232). -/
def fireEdge (op e h : Nat) (body : World → Elem → Handler → Pattern → World) (s : State) : Outcome :=
  fire op e h (fun w _ hd =>
    let st := boundStream w e h
    let p := patternOf st.blk
    if (if st.port then op != 0x80 && op != 0x81 else patternBad op hd.mode p) then elemFault w e 0x07
    else
      let w := beginStream w e h
      logFull (body w (w.elem e) hd p) e) s

/-- The value that the replay log holds for handler `h`'s next access, if any (R119). -/
def Elem.replayed (x : Elem) (h : Nat) : Option Nat := (x.replay.find? fun (g, n, _) => g == h && n == x.nth h).map (·.2.2)

/-- An access of handler `h` about to be issued. -/
def newAccess (x : Elem) (h : Nat) (op : AccessOp) (va len fmt val hint : Nat) (outs : List Out) (slot : Option Nat) : Access :=
  let a : Access := { h := h, ord := x.at_ h, nth := x.nth h, op := op, va := va, len := len, fmt := fmt, val := val, link := 0, hint := hint, pa := 0, cmp := false, outs := outs
                      slot := slot, phase := .issued, epoch := x.epoch, met := false, logged := none }
  match (if op.logs then x.replayed h else none) with
  | some v => if v < 2 ^ 32 then { a with logged := some v } else { a with op := .entry (v - slotTaken 0) none }
  | none => a

/-- The element with an access issued; a logged value it is to return is used up. -/
def Elem.issue (x : Elem) (a : Access) : Elem :=
  { x with acc := x.acc ++ [a], issued := tabSet a.h (a.nth + 1) x.issued
           replay := if a.logged.isSome || a.op.isEntry then x.replay.filter fun (g, n, _) => !(g == a.h && n == a.nth) else x.replay }

/-- A data token that waits for its access, and a control word behind it. -/
def Elem.dataOut (x : Elem) (now h : Nat) (v : W32) : Out :=
  { tok := { kind := 0, chan := (handler x.act h).och, pay := v }, lanes := outl x, ready := now }
def Elem.ctlOut (x : Elem) (now h code : Nat) : Out :=
  { tok := { kind := 2, chan := (handler x.act h).och, pay := BitVec.ofNat 32 code }, lanes := outl x, ready := now }

/-- Issue the load of element `n` of a pattern moved by `off`, with its header before it and its marks behind it
(R110 to R112, R115, R117). `run` counts the dimension-0 runs of the stream. -/
def loadElement (w : World) (x : Elem) (h : Nat) (p : Pattern) (off : Int) (n run : Nat) (last : List Out) : Elem :=
  let now := w.cycle
  let x := if p.headerAt n then
      let o : Out := { tok := { kind := 1, chan := (handler x.act h).och, pay := p.headerWord n }, lanes := outl x, ready := now }
      x.issue { newAccess x h .load (exactAddr (p.auxa + run)) 1 headerFmt 0 p.hint [o] (some 0) with fmt := headerFmt }
    else x
  let va := exactAddr (p.base + off + strideOffset p.cnt p.std n)
  let outs := x.dataOut now h 0 :: (p.marks n).map (x.ctlOut now h) ++ last
  (x.issue (newAccess x h .load va (fmtBytes p.fmt) p.fmt 0 p.hint outs (some 0))).setAt h (x.at_ h + 1)

/-- A token of a thread port's input queue goes out as it was pushed (R232). -/
def loadFromPort (w : World) (e h : Nat) (x : Elem) : World :=
  let k := streamKey w e h
  let st := w.stream k
  match st.inq with
  | [] => w
  | t :: rest =>
    let eos := t.isCtl && t.code == 3
    let w := w.setStream k { st with inq := rest, cnt := if t.isData then min (st.cnt + 1) 0xFFFFFFFF else st.cnt }
    let x := { x with stopped := if eos then x.stopped ||| 2 ^ h else x.stopped &&& (15 - 2 ^ h) }
    passedEos (fired w e h (x.emitOn w.cycle 1 (outl x) t)) e h t

/-- ldst: a feedback token is taken when one waits; else the next element of the pattern is read (R115, R69). -/
def execLdst (e h : Nat) (s : State) : Outcome :=
  fireEdge 0x80 e h (fun w x hd p =>
    if (w.stream (streamKey w e h)).port then loadFromPort w e h x
    else
      let finish (x : Elem) : World := endSource (fired w e h ((x.emitCtl w.cycle h (ctlWord 3 0)))) e h
      let back := if hd.qreq = 0 then none else x.seen hd.opa h
      match back with
      | some t =>
        let y := x.take hd.opa h
        if !t.isData || bit x.stopped h then fired w e h y
        else if t.pay = 0 then finish (y.setWork h wEnd (x.at_ h + 1))
        else fired w e h (y.setWork h wPhase (x.work h wPhase + 1))
      | none =>
        let n := x.at_ h
        if p.total ≤ n || x.ended h then finish x
        else
          let lastOne := decide (n + 1 = p.total)
          let y := loadElement w x h p 0 n (n / p.cnt.headD 1) (if lastOne then [x.ctlOut w.cycle h 3] else [])
          let w := fired w e h y
          if lastOne then endSource w e h else w) s

/-- A control word at every head passes behind every earlier access; heads that do not match are an alignment fault;
data runs the operation (R66, R116, R117, R120). -/
def passEdge (w : World) (e h : Nat) (x : Elem) (run : Unit → World) : World :=
  let ts := x.heads h
  match ts.find? Token.isCtl with
  | none => run ()
  | some t =>
    if ts.all (fun u => u.isCtl && u.code == t.code) then passedEos (fired w e h ((x.takeAll h).emitCtl w.cycle h t)) e h t
    else elemFault w e 0x05

/-- stst: each data token to the next element of the pattern; marks are discarded; an EOS passes behind every earlier
store (R116). A thread port takes every token into its output queue (R232). -/
def execStst (e h : Nat) (s : State) : Outcome :=
  fireEdge 0x81 e h (fun w x hd p =>
    match x.seen hd.opa h with
    | none => w
    | some t =>
      let k := streamKey w e h
      let st := w.stream k
      let y := x.takeAll h
      let eos := t.isCtl && t.code == 3
      if st.port then
        let w := w.setStream k { st with outq := st.outq ++ [t], cnt := if t.isData then min (st.cnt + 1) 0xFFFFFFFF else st.cnt }
        if eos then passedEos (fired w e h (y.emitCtl w.cycle h t)) e h t else fired w e h y
      else if t.isCtl then
        if eos then
          let w := w.setStream k { st with shrt := st.shrt || decide (x.at_ h < p.total) }
          passedEos (fired w e h (y.emitCtl w.cycle h t)) e h t
        else fired w e h y
      else
        let n := x.at_ h
        if p.total ≤ n then fired (w.setStream k { st with ovr := true }) e h y
        else
          let (v, f) := storeToken p.fmt t.pay
          let outs := if bit hd.mode 0 then [x.dataOut w.cycle h (BitVec.ofNat 32 n)] else []
          let y := (y.issue (newAccess x h .store (p.addr n) (fmtBytes p.fmt) p.fmt v p.hint outs none)).setAt h (n + 1)
          raiseNfl (fired w e h y) e f) s

/-- The byte offset of an index token (R117, R118, R120). -/
def indexOffset (p : Pattern) (t : W32) : Int := t.toInt * p.istr

/-- ldg: the elements of the pattern at `BASE` + i · `ISTR`, one a firing; the index is taken with the last (R117).
DEDUCED: log 64. DESIGN CHOICE: log 128. -/
def execLdg (e h : Nat) (s : State) : Outcome :=
  fireEdge 0x82 e h (fun w x hd p => passEdge w e h x fun _ =>
    let i := operand x h hd.opa
    if p.total = 0 then fired w e h (x.takeAll h)
    else
      let n := x.at_ h % p.total
      let y := if n + 1 = p.total then x.takeAll h else x
      fired w e h (loadElement w y h p (indexOffset p i) n (x.at_ h / p.cnt.headD 1) [])) s

/-- stg: b to `BASE` + i · `ISTR` (R117). -/
def execStg (e h : Nat) (s : State) : Outcome :=
  fireEdge 0x83 e h (fun w x hd p => passEdge w e h x fun _ =>
    let va := exactAddr (p.base + indexOffset p (operand x h hd.opa))
    let (v, f) := storeToken p.fmt (operand x h hd.opb)
    let y := ((x.takeAll h).issue (newAccess x h .store va (fmtBytes p.fmt) p.fmt v p.hint [] none)).setAt h (x.at_ h + 1)
    raiseNfl (fired w e h y) e f) s

/-- amo: one indivisible read-modify-write, which returns the old value (R118, R119). -/
def execAmo (e h : Nat) (s : State) : Outcome :=
  fireEdge 0x84 e h (fun w x hd p => passEdge w e h x fun _ =>
    let va := exactAddr (p.base + indexOffset p (operand x h hd.opa))
    if va % 4 != 0 then elemFault w e 0x07
    else
      let op := AccessOp.amo hd.mode (operand x h hd.opc).toNat
      let a := newAccess x h op va 4 p.fmt (operand x h hd.opb).toNat p.hint [x.dataOut w.cycle h 0] (some 0)
      fired w e h (((x.takeAll h).issue a).setAt h (x.at_ h + 1))) s

/-- A chain access of `BASE` + i · `ISTR` with its link word, aligned to its size (R120). -/
def fireChain (op e h : Nat) (aop : AccessOp) (val : Elem → Handler → Pattern → Nat × Flags)
    (outs : Elem → Handler → Nat → List Out) (s : State) : Outcome :=
  fireEdge op e h (fun w x hd p => passEdge w e h x fun _ =>
    let va := exactAddr (p.base + indexOffset p (operand x h hd.opa))
    let n := fmtBytes p.fmt
    if va % n != 0 then elemFault w e 0x07
    else
      let (v, f) := val x hd p
      let os := outs x hd w.cycle
      let a := newAccess x h aop va n p.fmt v p.hint os (if os.isEmpty then none else some 0)
      let a := { a with link := p.chain * 2 ^ 32 + (operand x h hd.opc).toNat }
      raiseNfl (fired w e h (((x.takeAll h).issue a).setAt h (x.at_ h + 1))) e f) s

def execChld (e h : Nat) (s : State) : Outcome :=
  fireChain 0x85 e h .chainLoad (fun _ _ _ => (0, 0)) (fun x _ now => [x.dataOut now h 0]) s

def execChst (e h : Nat) (s : State) : Outcome :=
  fireChain 0x86 e h .chainStore (fun x hd p => storeToken p.fmt (operand x h hd.opb)) (fun _ _ _ => []) s

/-- chadd: the addend goes as it came; the unit adds in the format (R120). -/
def execChadd (e h : Nat) (s : State) : Outcome :=
  fireChain 0x87 e h .chainAdd (fun x hd _ => ((operand x h hd.opb).toNat, 0))
    (fun x hd now => if bit hd.mode 0 then [x.dataOut now h 0] else []) s

/-- selin: the Sluice accepts the pair as it fires; EOR at both heads has it accept a drain; EOS and the others pass (R123, R322). -/
def execSelin (e h : Nat) (s : State) : Outcome :=
  fire 0x8A e h (fun w x hd =>
    let ts := x.heads h
    let c := eCore e
    let z := w.sluice c
    let accept (z : Sluice) : World := fired (w.setSluice c z) e h (x.takeAll h)
    match ts.find? Token.isCtl with
    | none => accept (z.enter (operand x h hd.opa).toNat (operand x h hd.opb).toNat)
    | some t =>
      if ts.all (fun u => u.isCtl && u.code == t.code) then
        if t.code = 1 then accept { z with drain := some (false, false, 0), posted := 0 } else fired w e h ((x.takeAll h).emitCtl w.cycle h t)
      else elemFault w e 0x05) s

/-- Entry `i` of an element's slots is performed at its home, one step of it for an append; what meets a memory fault stays (R49, R114,
R118, R119). -/
def performEntry (w : World) (e i : Nat) (a : Access) : World :=
  match a.logged with
  | some v => finishAccess w e i v
  | none =>
    match performAccess w e a with
    | .done w v f => raiseNfl (finishAccess w e i v) e f
    | .goesOn w slot b => goOnAccess w e i slot b
    | .stalls _ _ => w
    | .bad w c => elemFault w e c

/-- An access of an element that has power, is not stalled and need not wait is performed, or meets an element fault; one that meets a memory
fault stays, until its node takes the fault, and one that a budget does not admit waits (R114, R118, R119, R141, R295). -/
def execEdgeAccessComplete (e i : Nat) (s : State) : Outcome :=
  event (fun w =>
    let x := w.elem e
    match x.acc[i]? with
    | none => w
    | some a =>
      if a.phase != .issued || a.op.isChain || mustWait x i || !powered w (eCore e) then w
      else budgeted (fun w => performEntry w e i a) w) s

end Sys2Proof.Machine
end

