-- ==== Sys2Proof/Machine/Fpu.lean ====
section
/-! DEFINITION. The fw32 words and the conversions (R189 to R195). -/

namespace Sys2Proof.Machine

def execFadd (p : Pr) (d a b : Reg) (s : State) : Outcome := fwOp2 fwAdd p d a b s
def execFsub (p : Pr) (d a b : Reg) (s : State) : Outcome := fwOp2 fwSub p d a b s
def execFmul (p : Pr) (d a b : Reg) (s : State) : Outcome := fwOp2 fwMul p d a b s
def execFmin (p : Pr) (d a b : Reg) (s : State) : Outcome := fwOp2 (fun _ a b => (fwMin a b, 0)) p d a b s
def execFmax (p : Pr) (d a b : Reg) (s : State) : Outcome := fwOp2 (fun _ a b => (fwMax a b, 0)) p d a b s
def execFabs (p : Pr) (d a : Reg) (s : State) : Outcome := fwOp1 (fun _ a => (fwAbs a, 0)) p d a s
def execFneg (p : Pr) (d a : Reg) (s : State) : Outcome := fwOp1 (fun _ a => (fwNeg a, 0)) p d a s
def execFceq (p : Pr) (d : PReg) (a b : Reg) (s : State) : Outcome := fwCmp (fun a b => (fwEq a b, 0)) p d a b s
def execFclt (p : Pr) (d : PReg) (a b : Reg) (s : State) : Outcome := fwCmp fwLt p d a b s
def execFcle (p : Pr) (d : PReg) (a b : Reg) (s : State) : Outcome := fwCmp fwLe p d a b s

/-- fw32 to a signed 64-bit integer (R191). -/
def fcvti64 (th : Thread) (a : Word) : Nat × Flags :=
  let (x, f) := fwToInt th.rm (-2 ^ 63) (2 ^ 63 - 1) (a.setWidth 32)
  (wrap 64 x, f)

/-- A signed 64-bit integer to fw32 (R191). -/
def fcvtf64 (th : Thread) (a : Word) : Nat × Flags :=
  let (x, f) := roundFw (.ofInt a.toInt) th.rm
  (x.toNat, f)

def execFcvti (p : Pr) (d a : Reg) (s : State) : Outcome := convOp fcvti64 p d a s
def execFcvtf (p : Pr) (d a : Reg) (s : State) : Outcome := convOp fcvtf64 p d a s
def execFxexp (p : Pr) (d a : Reg) (s : State) : Outcome :=
  convOp (fun _ a => (((fwExp (a.setWidth 32)).signExtend 64).toNat, 0)) p d a s

/-- fscale reads its exponent as a full 64-bit signed value (R190). -/
def execFscale (p : Pr) (d a b : Reg) (s : State) : Outcome :=
  word 1 p (use .scalar [a, b] [d])
    (fun s => .ok (s.writeFw d (fwScale s.thr.rm ((s.readG a).setWidth 32) (s.readG b).toInt))) s

/-- ffma reads its addend in `GD` before it writes it (R190). -/
def execFfma (p : Pr) (d a b : Reg) (s : State) : Outcome :=
  word 1 p (use .scalar [a, b, d] [d]) (fun s =>
    .ok (s.writeFw d (fwFma s.thr.rm ((s.readG a).setWidth 32) ((s.readG b).setWidth 32) ((s.readG d).setWidth 32)))) s

def execFclass (p : Pr) (d a : Reg) (s : State) : Outcome := convOp (fun _ a => (fwClass (a.setWidth 32), 0)) p d a s

/-- fw32 to a storage format under frm (R194). -/
def narrow (f : Thread → Fmt) (th : Thread) (a : Word) : Nat × Flags := roundTo (fw (a.setWidth 32)) (f th) th.rm

/-- A storage format to fw32 under frm; exact for the formats that fw32 holds (R194, R302). -/
def widen (f : Thread → Fmt) (th : Thread) (a : Word) : Nat × Flags := roundTo ((f th).decode a.toNat) .fw32 th.rm

/-- The binary8 format that frm names (R194). -/
def frmB8 (th : Thread) : Fmt := .ofB8F th.b8f

def execFwbf (p : Pr) (d a : Reg) (s : State) : Outcome := convOp (narrow fun _ => .bf16) p d a s
def execBffw (p : Pr) (d a : Reg) (s : State) : Outcome := convOp (widen fun _ => .bf16) p d a s
def execFwh (p : Pr) (d a : Reg) (s : State) : Outcome := convOp (narrow fun _ => .fp16) p d a s
def execHfw (p : Pr) (d a : Reg) (s : State) : Outcome := convOp (widen fun _ => .fp16) p d a s
def execFws (p : Pr) (d a : Reg) (s : State) : Outcome := convOp (narrow fun _ => .fp32) p d a s
def execSfw (p : Pr) (d a : Reg) (s : State) : Outcome := convOp (widen fun _ => .fp32) p d a s
def execFwb8 (p : Pr) (d a : Reg) (s : State) : Outcome := convOp (narrow frmB8) p d a s
def execB8fw (p : Pr) (d a : Reg) (s : State) : Outcome := convOp (widen frmB8) p d a s

end Sys2Proof.Machine
end

