-- ==== Sys2Proof/Machine/Preempt.lean ====
section
/-! DEFINITION. Pre-emption: the stop of a victim, the freeze of its region, the save and the restore (R229, R269 to R279,
R297, R358). -/

namespace Sys2Proof.Machine

/-! ### The stop (R270) -/

/-- A thread stops at its block boundary: a wait is abandoned, and what it took is given back (R213); a halted thread stays halted. -/
def stopThread (w : World) (t : Nat) : World :=
  let th := w.thread t
  if th.phase = .halted then w
  else w.setThread t { th with phase := .saved, wait := none, since := none, flag := th.flag || decide (0 < th.wakes), wakes := 0 }

/-- A region's sources stop issuing: at once, or once a `DREAD` that has frozen the region lets it go on (R270, R294). -/
def drainRegion (w : World) (r : Nat) : World :=
  if readFrozen w r then
    { w with jibor := { w.jibor with reading := w.jibor.reading.map fun x => { x with before := x.before.map fun b => (b.1, true) } } }
  else w.setRegion r { w.region r with draining := true }

/-- STOP_REQUEST: the victim's sources stop issuing and its thread stops (R270). -/
def execStopRequest (d tag : Nat) (s : State) : Outcome :=
  event (fun w =>
    let k := taskKey d tag
    match w.task? k with
    | none => w
    | some x =>
      match x.victim with
      | none => w
      | some (_, start, _, _) =>
        if x.phase != .running || decide (w.cycle < start) then w
        else
          let w := match x.region with
            | some r => drainRegion w r
            | none => w
          let w := match x.thread with
            | some t => stopThread w t
            | none => w
          w.setTask k { x with phase := .stopping, stopped := true }) s

/-- Is a region quiescent: no token has moved for 64 cycles, and every access is performed or stalled (R270)? -/
def quiescent (w : World) (r : Nat) : Bool :=
  decide ((w.region r).movedAt + 64 ≤ w.cycle)
    && (regionElems w r).all fun e => (w.elem e).acc.all fun a => a.phase == .done || a.phase == .stalled

/-- FORCE_POINT: a save not yet frozen at the force point is forced; a wavefront completes first (R270). -/
def execForcePoint (d tag : Nat) (s : State) : Outcome :=
  event (fun w =>
    let k := taskKey d tag
    match w.task? k with
    | none => w
    | some x =>
      match x.victim, x.region with
      | some (_, _, _, f), some r =>
        let g := w.region r
        if x.phase != .stopping || decide (w.cycle < f) || !g.draining || readFrozen w r then w
        else
          let w := (w.setTask k { x with forced := true }).setRegion r { g with forced := true }
          if g.shadow = .wave then w else freezeRegion w r
      | _, _ => w) s

/-- REGION_FREEZE: a victim's region freezes once it is quiescent, or forced; never in a wavefront (R270). -/
def execRegionFreeze (r : Nat) (s : State) : Outcome :=
  event (fun w =>
    let g := w.region r
    if g.draining && g.shadow != .wave && !readFrozen w r && (g.forced || g.frozen || quiescent w r) then freezeRegion w r else w) s

/-! ### The save (R272 to R278) -/

/-- Does thread `t` hold an operand slot, which one whose release still waits is (R235, R272, R314), or a Sluice that it configured? -/
def holdsSlots (w : World) (t : Nat) : Bool := w.slotsOp.any fun kv => kv.2.phase == .claimed t
def holdsSluice (w : World) (t : Nat) : Bool := w.sluices.any fun kv => kv.2.owner == some t

/-- Has every copy of thread `t` written its stamp, or does it stand stalled, or behind a copy of the thread that does (R272)? -/
def copiesSettled (w : World) (t : Nat) : Bool :=
  w.channels.all fun (_, x) =>
    (x.stalled && x.cur.any fun y => y.thread == t) || (x.cur.toList ++ x.queue).all fun y => y.thread != t

/-- Has every matrix command of thread `t` completed (R272)? -/
def matrixSettled (w : World) (t : Nat) : Bool :=
  w.matrices.all fun (_, m) => (m.cur.toList ++ m.queue).all fun y => y.thread != t

/-- Is what a save of a thread waits for over (R272)? -/
def threadSettled (w : World) (t : Nat) : Bool :=
  (w.thread t).path.isEmpty && copiesSettled w t && matrixSettled w t

/-- The space in which the dispatcher accesses a task's save area. DEDUCED: log 52. -/
def saveSpace (x : Task) : Space := { x.space with user := false }

/-- The chains that region `a` owns are owned by `b` (R358). -/
def renameChains (w : World) (a b : Nat) : World :=
  { w with chains := tabMap (fun _ (x : Chain) => if x.owner = some a then { x with owner := some b } else x) w.chains }

/-- What a thread leaves on its core stands under the task's resident name, and the thread is free. -/
def parkThread (w : World) (k t : Nat) : World :=
  let w := rename w t (residentName k)
  let th := w.thread t
  let w := w.setThread (residentName k) { th with phase := .saved }
  w.setThread t { th with phase := .halted, wait := none, task := none, path := [], qfences := [], events := [], since := none }

/-- The save of a victim once everything has settled: the area, and its place is free (R270 to R278). The completion saved is the one that
the thread's `rgstart` armed on the task's region, if it did, and else the task's own. DEDUCED: log 50. -/
def saveTask (w : World) (k r : Nat) (x : Task) (due : Nat) : World :=
  let late := w.cycle - due
  let halted := match x.thread with
    | some t => (w.thread t).phase == .halted
    | none => false
  let slots := x.thread.any (holdsSlots w)
  let bound := slots || x.thread.any (holdsSluice w)
  let info : SaveInfo := { tag := taskTag k, thr := x.thread, halted := halted, forced := x.forced, armed := (w.region r).armed.or (some (x.caddr, x.cval))
                           overrun := late, tiles := slots }
  match writeArea w r (.ctrl (r / 4)) (some k) (saveSpace x) x.csave info (w.region r).cq (x.thread.map fun _ => residentName k) with
  | (w, .error _) => failTask w k 4
  | (w, .ok _) =>
    let w := renameChains w r (residentName k)
    let w := match x.thread with
      | some t => parkThread w k t
      | none => w
    let w := w.setTask k { x with
      phase := .saved, prio := x.effective w, readyAt := w.periods, region := none, thread := none, overrun := late, victim := none
      stopped := false, forced := false, sameCore := if bound then some (r / 4) else none }
    discardRegion (w.setRegion r { w.region r with task := none }) r

/-- The save that `rgsave` began: the area is written and the region left stopped (R229). DEDUCED: log 41. -/
def saveRegion (w : World) (r : Nat) (va : Nat) (sp : Space) : World :=
  let g := w.region r
  let info : SaveInfo := { tag := 0, thr := none, halted := false, forced := false, armed := g.armed, overrun := 0, tiles := false }
  match writeArea w r (cfgReach r) g.task sp va info [] none with
  | (_, .error _) => w
  | (w, .ok _) =>
    let w := stopRegion (w.setRegion r { w.region r with saveAt := none, met := false }) r true
    serveCfg w r

/-- CONTEXT_SAVE: after what the save waits for, the area is written and `STAT` released as 1 (R229, R272, R278). -/
def execContextSave (r : Nat) (s : State) : Outcome :=
  event (budgeted fun w =>
    let g := w.region r
    if !g.frozen || !accessesSettled w r || readFrozen w r then w
    else match g.saveAt with
      | some (va, sp) => if g.cqStalled then w else saveRegion w r va sp
      | none =>
        match g.task with
        | none => w
        | some k =>
          match w.task? k with
          | none => w
          | some x =>
            match x.victim with
            | none => w
            | some (_, _, due, _) =>
              if x.phase != .stopping || g.draining || !(x.thread.all (threadSettled w)) then w else saveTask w k r x due) s

/-! ### The restore (R279) -/

/-- The thread of a restored task. DEDUCED: log 55. -/
def restoreThread (w : World) (k t : Nat) (a : Area) (side : Side) : World :=
  let old := (side.thread).getD Thread.reset
  let here := w.thread t
  let parked := w.thread (residentName k)
  let flags := at_ a.body 4 4
  let th := if bit flags 1 then threadOf ((a.body.drop 0x100).take 1024) old (bit flags 7) (some k)
    else { old with phase := if bit flags 7 then .halted else .running, wait := none, task := some k }
  let w := w.setThread t { th with flag := th.flag || parked.flag, path := parked.path, qfences := parked.qfences
                                   bgtSel := here.bgtSel, ctxid := BitVec.ofNat 64 (at_ a.body 8 4) }
  let w := rename w (residentName k) t
  { w with threads := tabDel (residentName k) w.threads }

/-- A saved task takes the place found for it; its area is read once the place's sectors are awake (R71, R143). -/
def placeSaved (w : World) (k : Nat) (x : Task) (p : Place) : World :=
  let w := takePlace w k { x with binds := [] } p (placeThread w x p)
  w.setTask k { x with phase := .loading, prio := x.effective w, unplaced := none, region := some p.region }

/-- Restore a task in region `r`, which it has taken (R279): the completion value and address, the tag, the overrun and the thread area are
those of the save area (R274). -/
def restoreTask (w : World) (k : Nat) (x : Task) (r : Nat) : World :=
  let t := (w.region r).owner
  let who := Reach.ctrl (r / 4)
  let sp := saveSpace x
  match readArea w who (some k) sp x.csave (w.region r) with
  | (w, .error _) => failTask w k 4
  | (w, .ok a) =>
    if !areaGood (w.region r) a then failTask w k 1
    else
      let side := sideOf w who sp x.csave
      let takes := bit (at_ a.body 4 4) 2 && !side.own
      let w := renameChains w (residentName k) r
      let w := restoreRegion w r a side x.space (x.entry == 0)
      let w := match t with
        | some u => restoreThread w k u a side
        | none => w
      match nodeStore w who (some k) sp Touch.store (x.csave + 0x40) (leBytes 8 2) with
      | (w, .error _) => failTask w k 4
      | (w, .ok lost) =>
        let w := noteLostIn w r 3 0 0 0xFF 3 sp lost
        let w := w.setTask k { x with
          phase := .running, thread := t, overrun := at_ a.body 0x28 8
          caddr := if takes then at_ a.body 0x18 8 else x.caddr, cval := if takes then at_ a.body 0x20 8 else x.cval
          sliceEnd := w.cycle + max 1 (64 - ceilDiv (at_ a.body 0x28 8) periodCycles) * periodCycles, sameCore := none }
        let w := w.setRegion r { w.region r with armed := if side.own then (w.region r).armed else none }
        serveCfg w r

/-- TASK_RESTORE: a saved task that is the first to find a place takes it, and is restored there once the place's sectors are awake and
its core has power (R71, R143, R279, R295). -/
def execTaskRestore (d tag : Nat) (s : State) : Outcome :=
  event (fun w =>
    let k := taskKey d tag
    let w := match firstPlaced w d (readyTasks w d) false with
      | some (j, x, p) => if x.phase = TaskPhase.saved ∧ j = k then placeSaved w k x p else w
      | none => w
    match w.task? k with
    | some x => (match x.phase, x.region with
        | .loading, some r => if regionAwake w r && powered w (r / 4) then budgeted (restoreTask · k x r) w else w
        | _, _ => w)
    | none => w) s

/-! ### Fences (R297) -/

/-- DRAIN_TIME_EXPIRY: a running task under a service fence has not completed within its declared drain time (R297). -/
def execDrainTimeExpiry (d tag : Nat) (s : State) : Outcome :=
  event (fun w =>
    let k := taskKey d tag
    match w.task? k with
    | none => w
    | some x =>
      match x.fenceBy with
      | some c => if c ≤ w.cycle ∧ x.phase = .running then failTask w k 7 else w
      | none => w) s

end Sys2Proof.Machine
end

