-- ==== Sys2Proof/Machine/HostPort.lean ====
section
/-! DEFINITION. What the host and the I/O die do: CXL.mem accesses and snoops, register writes, launch queues, TLB
invalidations, and the quiet work of the memory hierarchy (R257, R281 to R286, R338, R342, R345, R371). -/

namespace Sys2Proof.Machine

/-! ### Memory seen from the host (R281, R338) -/

/-- Bytes of HBM that the host sees of each die. -/
def hostDieBytes : Nat := 48 * 2 ^ 30

/-- HOST_MEM_ACCESS: a host access of `n` bytes at offset `off` of the device's memory is served at its home (R281). The first of a host
that has not yet committed its HDM decoders stands for that commit, and is not served; a port trained for CXL.io only serves none (R287,
R288). DEDUCED: log 33. -/
def execHostMemAccess (wr : Bool) (off n v : Nat) (s : State) : Outcome :=
  event (fun w =>
    let d := off / hostDieBytes
    let pa := d * 2 ^ 36 + off % hostDieBytes
    if !w.jibor.released then w
    else if !w.jibor.hdm then { w with jibor := { w.jibor with hdm := true } }
    else if 8 ≤ d ∨ n = 0 ∨ 64 < off % 64 + n ∨ !served w (.dieAgent d) pa then w
    else if wr then (storeMem w (.dieAgent d) none pa Touch.store (leBytes n v)).1
    else w.touch d none pa n Touch.load) s

/-- HOST_SNOOP: a die's remote-data cache loses its copy of a host line (R338); a port trained for CXL.io only is never snooped (R288). -/
def execHostSnoop (d line : Nat) (s : State) : Outcome :=
  event (fun w =>
    match windowOf (128 * line), w.jibor.released with
    | .host, true => { w with cache := rdcDrop d line w.cache }
    | _, _ => w) s

/-! ### Invalidation (R257) -/

/-- TINVC: a store to the register of die `d` starts an invalidation, or is held behind the one in progress. -/
def execTinvc (d : Nat) (v : Word) (s : State) : Outcome :=
  event (fun w => if d < 8 then startInvalidation w d v.toNat else w) s

/-- Does an invalidation name a TLB entry: the page at `IVA`, or a larger page that covers it? -/
def named (kind asid iva : Nat) (e : TlbEntry) : Bool :=
  let page := decide (e.va ≤ iva ∧ iva < e.va + e.size.bytes)
  if kind = 0 then e.asid == asid && page
  else if kind = 1 then e.asid == asid
  else if kind = 2 then page
  else true

/-- Is a chain access buffered at a unit whose translation an invalidation names? DEDUCED: log 93. -/
def buffered (w : World) (kind asid iva : Nat) : Bool :=
  w.elems.any fun (e, x) => x.acc.any fun a => a.phase == .atUnit &&
    (kind == 3 || (edgeSpace w e).asid == asid || kind == 2) && (decide (kind = 1 ∨ kind = 3) || a.va / 2 ^ 31 == iva / 2 ^ 31)

/-- Has a store at a store path been translated in a page, or a larger page around it, whose translation an invalidation names?
DEDUCED: log 93. -/
def PathStore.usesNamed (kind asid iva : Nat) (x : PathStore) : Bool :=
  (kind == 3 || x.sp.asid == asid || kind == 2) && (decide (kind = 1 ∨ kind = 3) || x.va / 2 ^ 31 == iva / 2 ^ 31)

/-- Is a store that was translated so on its way, without an answer yet? DEDUCED: log 93. -/
def storesUnderWay (w : World) (kind asid iva : Nat) : Bool :=
  w.threads.any fun (_, th) => th.path.any fun x => x.phase == .sent && x.usesNamed kind asid iva

/-- The stores that were translated so and wait at their store paths for others take new walks. -/
def walkPathsAnew (w : World) (kind asid iva : Nat) : World :=
  w.threads.foldl (fun w (t, th) =>
    if th.path.any fun x => x.phase == .waiting && x.usesNamed kind asid iva then
      w.setThread t { th with path := th.path.map fun x =>
        if x.phase == .waiting && x.usesNamed kind asid iva then { x with phase := .again } else x }
    else w) w

/-- INVALIDATION_COMPLETE: no TLB holds a translation that it names, every access that used one is performed or is to be translated anew,
`BUSY` clears, and stalled node accesses are issued again (R257, R263). DEDUCED: log 93. -/
def execInvalidationComplete (d : Nat) (s : State) : Outcome :=
  event (fun w =>
    match (w.die d).tinvc with
    | [] => w
    | (kind, asid, iva) :: rest =>
      if buffered w kind asid iva || storesUnderWay w kind asid iva then w
      else
        let drop (t : Tab (List TlbEntry)) := tabMap (fun _ (l : List TlbEntry) => l.filter fun e => !named kind asid iva e) t
        let w := { w with cache := { w.cache with tlb := drop w.cache.tlb, dieTlb := drop w.cache.dieTlb } }
        reissueNodes (walkPathsAnew (w.setDie d { w.die d with tinvc := rest }) kind asid iva) fun _ => true) s

/-! ### Registers and launch queues (R6, R284 to R286) -/

/-- TAIL: a write of a launch queue's tail register. -/
def execTail (q : Nat) (v : Word) (s : State) : Outcome := event (fun w => if q < 4096 then writeTail w q v.toNat else w) s

/-- QEN: a launch queue is switched in or out. -/
def execQen (q : Nat) (on : Bool) (s : State) : Outcome := event (fun w => if q < 4096 then writeQen w q on else w) s

/-- INTERRUPT_REGISTER: a write raises an external interrupt of a thread, or ORs into the one pending. -/
def execInterruptRegister (t : Nat) (v : Word) (s : State) : Outcome := event (fun w => if t < 1280 then writeIrq w t v else w) s

/-- REGISTER_WRITE: a write of 4 or 8 bytes to any register of the aperture takes effect by its access codes. -/
def execRegisterWrite (pa n : Nat) (v : Word) (s : State) : Outcome :=
  event (fun w =>
    match windowOf pa with
    | .aperture => if (n = 4 ∨ n = 8) ∧ pa % n = 0 then mmioWrite w pa n v.toNat else w
    | _ => w) s

/-- PBR_ID_ASSIGN: the fabric manager assigns one ID to the four peer ports; differing IDs are not taken (R371). -/
def execPbrIdAssign (i0 i1 i2 i3 : Nat) (s : State) : Outcome :=
  event (fun w => if i0 = i1 ∧ i1 = i2 ∧ i2 = i3 ∧ i0 < 4096 then { w with pbr := { valid := true, id := i0 } } else w) s

/-- Records of a queue's ring. DEDUCED: log 92. -/
def ringSize (x : Queue) : Nat := 2 ^ min x.log 20

/-- LAUNCH_RECORD_OFFER: the next record of a queue, once the ring has not overrun, is read and offered to its die's dispatcher, and stands
on offer until it is inserted or failed, when `PROG` advances (R285). DEDUCED: log 92. -/
def execLaunchRecordOffer (q : Nat) (s : State) : Outcome :=
  event (fun w =>
    let x := w.queue q
    let sp : Space := { asid := x.asid, ptb := x.ptb, user := false }
    let offer (w : World) (b : Block) : World :=
      let i : Inbound := { launch := b, sp := sp, queue := some q, after := none }
      if accepts w x.die i then acceptRecord w x.die i else w
    if switchedOut w q || (w.die x.die).inbox.any (fun i => i.queue == some q) then w
    else match x.offered with
      | some b => offer w b
      | none =>
        if x.stuck || x.prog == x.tail then w
        else if ringSize x < (x.tail + 2 ^ 32 - x.prog) % 2 ^ 32 then w.setQueue q { x with ovf := true, stuck := true }
        else match nodeLoad w (.dieAgent x.die) none sp Touch.load (x.base + 64 * (x.prog % ringSize x)) 64 with
        | (w, .error _) => advanceProg w q
        | (w, .ok bs) =>
          let b := BitVec.ofNat 512 (leNat bs)
          offer (w.setQueue q { w.queue q with offered := some b }) b) s

/-! ### The L2 and the HBM slot tables (R342, R345) -/

/-- HOT_BIT_CLEAR: a line that no access has reached for 65,536 cycles is no longer hot (R342). -/
def execHotBitClear (line : Nat) (s : State) : Outcome :=
  event (fun w =>
    let key := setKey (128 * line)
    let cool (y : L2Line) : L2Line := if y.line = line ∧ y.last + 65536 ≤ w.cycle then { y with hot := false } else y
    { w with cache := { w.cache with l2 := tabMap (fun k (ls : List L2Line) => if k = key then ls.map cool else ls) w.cache.l2 } }) s

/-- SLOT_TABLE_ROUND: a pseudo-channel starts a round under the entries written last (R345). -/
def execSlotTableRound (d pc : Nat) (s : State) : Outcome :=
  event (fun w =>
    let x := w.die d
    let take (y : Die) (i : Nat) : Die :=
      if tabHas i y.slotNext then { y with slots := tabSet i (tabGet slotWordReset i y.slotNext) y.slots, slotNext := tabDel i y.slotNext }
      else y
    w.setDie d (([0, 1, 2, 3].map (4 * pc + ·)).foldl take x)) s

end Sys2Proof.Machine
end

