-- ==== Sys2Proof/Machine/Ed448.lean ====
section
/-! DEFINITION. Pure Ed448 with an empty context (RFC 8032), with which Jibor checks images and debug tokens and signs its reports
(R288, R290, R293). -/

namespace Sys2Proof.Machine

/-- The field's prime, the order of the base point, and the curve's d, which is -39081. PRESUMED: log 85. -/
def edPrime : Nat := 2 ^ 448 - 2 ^ 224 - 1
def edOrder : Nat := 2 ^ 446 - 0x8335DC163BB124B65129C96FDE933D8D723A70AADC873D6D54A7BB0D
def edD : Nat := edPrime - 39081

/-- Arithmetic of the field on numbers below the prime. -/
def fMul (a b : Nat) : Nat := a * b % edPrime
def fSub (a b : Nat) : Nat := (a + edPrime - b % edPrime) % edPrime

/-- Powers in the field, `k` bits of the exponent. -/
def fPow (a : Nat) : Nat → Nat → Nat
  | 0, _ => 1
  | k + 1, n => let h := fPow (fMul a a) k (n / 2); if n % 2 = 1 then fMul a h else h

def fInv (a : Nat) : Nat := fPow a 448 (edPrime - 2)

/-- A point of the curve x^2 + y^2 = 1 + d x^2 y^2, as X / Z and Y / Z. -/
structure EdPoint where
  x : Nat
  y : Nat
  z : Nat
  deriving DecidableEq, Repr

def edZero : EdPoint := { x := 0, y := 1, z := 1 }

/-- The base point. PRESUMED: log 85. -/
def edBase : EdPoint :=
  { x := 224580040295924300187604334099896036246789641632564134246125461686950415467406032909029192869357953282578032075146446173674602635247710
    y := 298819210078481492676017930443930673437544040154080242095928241372331506189835876003536878655418784733982303233503462500531545062832660
    z := 1 }

/-- The sum of two points: x is (x1 y2 + y1 x2) / (1 + d x1 x2 y1 y2), and y is (y1 y2 - x1 x2) / (1 - d x1 x2 y1 y2). -/
def edAdd (p q : EdPoint) : EdPoint :=
  let zz := fMul p.z q.z
  let z2 := fMul zz zz
  let xx := fMul p.x q.x
  let yy := fMul p.y q.y
  let k := fMul edD (fMul xx yy)
  let cross := fSub (fMul (p.x + p.y) (q.x + q.y)) (xx + yy)
  { x := fMul (fMul zz (fSub z2 k)) cross, y := fMul (fMul zz (z2 + k)) (fSub yy xx), z := fMul (fSub z2 k) (z2 + k) }

/-- `n` times a point, by `k` bits of `n`. -/
def edTimes (p : EdPoint) : Nat → Nat → EdPoint
  | 0, _ => edZero
  | k + 1, n => let h := edTimes (edAdd p p) k (n / 2); if n % 2 = 1 then edAdd p h else h

/-- Are two points the same? -/
def edSame (p q : EdPoint) : Bool := fMul p.x q.z == fMul q.x p.z && fMul p.y q.z == fMul q.y p.z

/-- The 57 bytes of a point: y, and the lowest bit of x at the top. -/
def edEncode (p : EdPoint) : List Byte :=
  let i := fInv p.z
  leBytes 57 (fMul p.y i + fMul p.x i % 2 * 2 ^ 455)

/-- The point of 57 bytes; none where y is not below the prime, or no x belongs to it. -/
def edDecode (bs : List Byte) : Option EdPoint :=
  let v := leNat (bs.take 57)
  let y := v % 2 ^ 455
  let u := fSub (fMul y y) 1
  let w := fSub (fMul edD (fMul y y)) 1
  let x := fMul (fMul (fMul (fMul u u) u) w) (fPow (fMul (fPow u 3 5) (fPow w 2 3)) 448 ((edPrime - 3) / 4))
  let neg := decide (x % 2 ≠ v / 2 ^ 455 % 2)
  if bs.length ≠ 57 ∨ edPrime ≤ y ∨ fMul w (fMul x x) ≠ u ∨ (x = 0 ∧ v / 2 ^ 455 = 1) then none
  else some { x := if neg then edPrime - x else x, y := y, z := 1 }

/-- The hash of Ed448 over an empty context: 114 bytes as a number. -/
def edHash (bs : List Byte) : Nat :=
  leNat (shake256 ([0x53, 0x69, 0x67, 0x45, 0x64, 0x34, 0x34, 0x38, 0x00, 0x00] ++ bs) 114)

/-- The secret scalar of a private key of 57 bytes, and the prefix that its signatures are drawn from. -/
def edSecret (seed : List Byte) : Nat × List Byte :=
  let h := shake256 seed 114
  (leNat (h.take 56) % 2 ^ 447 / 4 * 4 + 2 ^ 447, h.drop 57)

/-- The public key of a private key. -/
def ed448Public (seed : List Byte) : List Byte := edEncode (edTimes edBase 448 (edSecret seed).1)

/-- The signature of a message, 114 bytes. PRESUMED: log 85. -/
def ed448Sign (seed msg : List Byte) : List Byte :=
  let (s, pre) := edSecret seed
  let r := edHash (pre ++ msg) % edOrder
  let point := edEncode (edTimes edBase 448 r)
  let k := edHash (point ++ ed448Public seed ++ msg) % edOrder
  point ++ leBytes 57 ((r + k * s) % edOrder)

/-- Does a signature verify under a public key: S B = R + k A, with the cofactor? PRESUMED: log 85. -/
def ed448Verify (key msg sig : List Byte) : Bool :=
  match edDecode key, edDecode (sig.take 57) with
  | some a, some r =>
    let s := leNat (sig.drop 57)
    let k := edHash (sig.take 57 ++ key ++ msg) % edOrder
    sig.length == 114 && decide (s < edOrder) && edSame (edTimes (edTimes edBase 448 s) 3 4) (edTimes (edAdd r (edTimes a 448 k)) 3 4)
  | _, _ => false

end Sys2Proof.Machine
end

