-- ==== Sys2Proof/Machine/Jibor.lean ====
section
/-! DEFINITION. Jibor: signed images and the configuration record, attestation, debug, power states, fences and bring-up
(R287 to R297). -/

namespace Sys2Proof.Machine

/-! ### Signed images and the configuration record (R288, R289) -/

def imageType (h : List Byte) : Nat := at_ h 2 1
def imageVersion (h : List Byte) : Nat := at_ h 4 4
def imageLength (h : List Byte) : Nat := at_ h 8 8
def imageDigest (h : List Byte) : List Byte := (h.drop 0x10).take 64

/-- Are the fields of an image header well formed? -/
def imageFormed (h : List Byte) : Bool :=
  at_ h 3 1 == 0xB1 && decide (1 ≤ imageType h ∧ imageType h ≤ 4) && at_ h 0 2 == 0
    && decide (1 ≤ imageLength h ∧ imageLength h ≤ 2 ^ 28) && at_ h 0xC2 62 == 0

/-- Entry `i` of a record's lane list, and how many it has. -/
def laneCount (b : List Byte) : Nat := at_ b 0x100 4
def laneAt (b : List Byte) (i : Nat) : Nat := at_ b (0x108 + 4 * i) 4

/-- Are all bytes of a list from offset `o` to below `e` zero? -/
def clearFrom (b : List Byte) (o e : Nat) : Bool := ((b.drop o).take (e - o)).all (· == 0)

/-- Is the body of a configuration record well formed? -/
def recordFormed (b : List Byte) : Bool :=
  decide (at_ b 0 1 ≤ 2) && decide (at_ b 1 1 ≤ 1) && clearFrom b 2 8 && clearFrom b 0x28 0x40 && clearFrom b 0x79 0x80
    && clearFrom b 0xA8 0x100 && decide (laneCount b ≤ 4096) && clearFrom b 0x104 0x108
    && ((List.range (laneCount b)).all fun i => bits (laneAt b i) 7 0 == 0) && clearFrom b (0x108 + 4 * laneCount b) 0x5000

/-- The minimum `VERSION` of a type: the highest that a record has named. -/
def minVersion (j : Jibor) (ty : Nat) : Nat := tabGet 0 ty j.minver

/-- The result of checking an image, header and body (R288, R291): 0 when Jibor accepts it. DEDUCED: log 87. -/
def imageResult (j : Jibor) (img : List Byte) : Nat :=
  let h := img.take 256
  let body := (img.drop 256).take (imageLength h)
  if !imageFormed h || (imageType h == 4 && !recordFormed body) then 4
  else if shake256 body 64 != imageDigest h || !ed448Verify Config.rootKey (h.take 0x50) ((h.drop 0x50).take 114) then 1
  else if imageVersion h < minVersion j (imageType h) then 2
  else 0

/-- The image of a type that Jibor runs: of its two slots the valid one of higher version. -/
def runningImage (j : Jibor) (ty : Nat) : Option (List Byte) :=
  let good (i : Nat) : Option (List Byte) := match tabGet [] (2 * ty + i) j.flash with
    | [] => none
    | b :: bs => if imageResult j (b :: bs) = 0 ∧ imageType (b :: bs) = ty then some (b :: bs) else none
  match good 0, good 1 with
  | some a, some b => if imageVersion a < imageVersion b then some b else some a
  | some a, none => some a
  | none, x => x

/-- The slot that a new image of a type takes: an empty one, else the one of lower version. DEDUCED: log 87. -/
def slotFor (j : Jibor) (ty : Nat) : Nat :=
  match tabGet [] (2 * ty) j.flash, tabGet [] (2 * ty + 1) j.flash with
  | [], _ => 0
  | _, [] => 1
  | a, b => if imageVersion b < imageVersion a then 1 else 0

/-- The minimums that a record names count from then on. -/
def raiseMinimums (j : Jibor) (body : List Byte) : Jibor :=
  { j with minver := [1, 2, 3, 4].foldl (fun t ty => tabSet ty (max (tabGet 0 ty t) (at_ body (0x18 + 4 * (ty - 1)) 4)) t) j.minver }

/-- Keep an accepted image in flash; a record waits to take effect (R288, R297). -/
def installImage (j : Jibor) (img : List Byte) : Jibor :=
  let ty := imageType img
  let j := { j with flash := tabSet (2 * ty + slotFor j ty) img j.flash
                    highest := tabSet ty (max (tabGet 0 ty j.highest) (imageVersion img)) j.highest }
  if ty = 4 then raiseMinimums { j with waiting := some (img.drop 256) } (img.drop 256) else j

/-- `n` bytes of a list, padded with zeros. -/
def exactly (n : Nat) (bs : List Byte) : List Byte := bs.take n ++ zeros (n - bs.length)

/-- A mailbox command is done: its result, and `BUSY` is clear (R291). -/
def answer (w : World) (r : Nat) : World := { w with jibor := { w.jibor with result := r, busy := false } }

/-- Bytes written to `MPAY`, which holds 4,096. -/
def writePay (w : World) (bs : List Byte) : World :=
  { w with jibor := { w.jibor with payload := (bs ++ w.jibor.payload.drop bs.length).take 4096 } }

/-- The first `n` bytes of `MPAY`. -/
def readPay (w : World) (n : Nat) : List Byte := exactly n w.jibor.payload

/-- The host has written `MARG` and `MPAY` as far as a command uses them (R291). -/
def fillMailbox (w : World) (args : List Word) (pay : List Byte) : World :=
  let j := w.jibor
  writePay { w with jibor := { j with arg0 := args.getD 0 j.arg0, arg1 := args.getD 1 j.arg1 } } pay

/-- A command that Jibor accepts only once it runs valid images and a record (R288). -/
def whenUp (f : World → World) (w : World) : World := if w.jibor.released then f w else answer w 3

/-- Bytes at a host physical address. -/
def hostBytes (w : World) (pa n : Nat) : List Byte := bytesAt w.mem (2 ^ 48 + pa) n

/-- IMAGE and RECORD: an image at a host physical address is checked and installed. -/
def takeImage (w : World) (pa : Nat) (rec : Bool) : World :=
  let h := hostBytes w pa 256
  if !imageFormed h || ((imageType h == 4) != rec) || decide (2 ^ 51 - 2 ^ 48 < pa + 256 + imageLength h) then answer w 4
  else
    let img := h ++ hostBytes w (pa + 256) (imageLength h)
    let r := imageResult w.jibor img
    if r = 0 then answer { w with jibor := installImage w.jibor img } 0 else answer w r

/-- Is a core enabled by a record's body? No body enables every core. -/
def coreEnabled (b : List Byte) (c : Nat) : Bool := b.isEmpty || bit (at_ b (0x80 + c / 8) 1) (c % 8)

/-- The dead lanes that a record lists, of the cores that meet `f`; an entry whose core or row the module does not have lists none. -/
def deadLanes (b : List Byte) (f : Nat → Bool) : List Nat :=
  (List.range (laneCount b)).filterMap fun i =>
    let x := laneAt b i
    let c := bits x 31 23
    if f c ∧ c < 320 ∧ bits x 22 17 < 48 then some (((c * 48 + bits x 22 17) * 64 + bits x 16 11) * 8 + 2 * bits x 10 9 + bits x 8 8) else none

/-- The `CORES` and `LANE` entries of a record take effect for the cores that meet `f`. -/
def applyRecord (w : World) (b : List Byte) (f : Nat → Bool) : World :=
  let w := (List.range 320).foldl (fun w c =>
    if f c && coreEnabled b c != (w.core c).enabled then w.setCore c { w.core c with enabled := coreEnabled b c } else w) w
  let kept := w.dead.filter fun kv => !f (kv.1 / 24576)
  { w with dead := (deadLanes b f).foldl (fun t k => tabSet k () t) kept }

/-- The digests of the running images of some types. -/
def runDigests (j : Jibor) (tys : List Nat) : Jibor :=
  { j with digests := tys.foldl (fun t ty => match runningImage j ty with
      | some img => tabSet ty (imageDigest img) t
      | none => t) j.digests }

/-! ### Attestation (R290) -/

/-- `DLVL`, `DMAX`, `LIFE` and the fences of a report's first 8 bytes. -/
def reportHead (w : World) : List Byte :=
  let j := w.jibor
  let dies := packBits ((List.range 8).map fun d => (w.die d).fenced)
  let core := if w.cores.any fun kv => kv.2.fenced then 2 ^ 8 else 0
  wordBytes 4 [0xA7 * 2 ^ 24 + j.life * 2 ^ 16 + j.level * 2 ^ 8 + j.dmax, dies + core]

/-- The module's identity public key (R290). -/
def identityKey (returned : Bool) : List Byte := ed448Public (Config.identitySeed returned)

/-- The report for a nonce. -/
def attestReport (w : World) (nonce : List Byte) : List Byte :=
  let j := w.jibor
  let meas := [1, 2, 3, 4].flatMap fun ty => exactly 64 (tabGet [] ty j.digests)
  let part := reportHead w ++ zeros 56 ++ nonce ++ meas ++ exactly 57 (identityKey j.returned) ++ zeros 7
  part ++ exactly 114 (ed448Sign (Config.identitySeed j.returned) (shake256 part 64)) ++ zeros 14

/-- `ATTEST`: the report for the nonce in `MPAY`, signed; in the returned state the deployed key and the handover signature follow it. -/
def attest (w : World) : World :=
  let n := readPay w 32
  let more := if w.jibor.returned then exactly 64 (identityKey false) ++ exactly 114 (ed448Sign (Config.identitySeed false) (identityKey true))
    else []
  let w := writePay w (attestReport w n ++ more)
  answer { w with jibor := { w.jibor with nonce := some n } } 0

/-! ### Debug (R292 to R294, R296) -/

/-- May program-level debug be opened (R296)? -/
def programAllowed (j : Jibor) : Bool := j.life != 1 || bit (at_ j.record 1 1) 0

/-- The result of checking a debug token of 256 bytes (R293). -/
def tokenResult (j : Jibor) (t : List Byte) : Nat :=
  let id := t.take 64
  if at_ t 0x60 1 ≠ 2 ∨ !clearFrom t 0x61 0x80 ∨ !clearFrom t 0xF2 256 then 4
  else if !((j.life == 0 && clearFrom t 0 64) || id == shake256 (exactly 57 (identityKey j.returned)) 64) then 1
  else if j.nonce != some ((t.drop 0x40).take 32) then 1
  else if !ed448Verify ((j.record.drop 0x40).take 57) (t.take 128) ((t.drop 0x80).take 114) then 1
  else 0

/-- Debug is open at a level. -/
def openDebug (w : World) (level asid : Nat) (nonce : Option (List Byte)) : World :=
  answer { w with jibor := { w.jibor with level := level, asid := asid, dmax := max w.jibor.dmax level, nonce := nonce } } 0

/-- `DBGOPEN`: program level for the ASID in argument 1, or full level with a token in `MPAY`. -/
def dbgOpen (w : World) : World :=
  let j := w.jibor
  if j.arg0 = 1 then (if programAllowed j then openDebug w 1 (j.arg1.toNat % 2 ^ 16) j.nonce else answer w 3)
  else if j.arg0 = 2 then
    let r := tokenResult j (readPay w 256)
    if r = 0 then openDebug w 2 0 none else answer w r
  else answer w 4

/-- `DBGCLOSE`: every hold is released, and debug is closed. -/
def dbgClose (w : World) : World :=
  answer { w with
    threads := tabMap (fun _ (th : Thread) => { th with dheld := false, dstep := false, drun := false }) w.threads
    jibor := { w.jibor with level := 0 } } 0

/-- Does the open debug level cover a thread (R292)? -/
def covers (w : World) (t : Nat) : Bool :=
  w.jibor.level == 2 || (w.jibor.level == 1 && (w.thread t).asid.toNat == w.jibor.asid)

/-- Is a thread Running: a thread that debug holds is Waiting (R294)? -/
def Thread.runs (th : Thread) : Bool := th.phase == .running && (!th.dheld || th.dstep)

/-- Is a core idle: no thread Running, and every element clock-gated, which an unconfigured one of a sector that is on is after 1,024 cycles
(R70, R295)? -/
def coreIdle (w : World) (c : Nat) : Bool :=
  ([0, 1, 2, 3].all fun i => !(w.thread (4 * c + i)).runs) &&
    (w.elems.all fun kv => eCore kv.1 != c || kv.2.gated
      || (!kv.2.holds && kv.2.acc.isEmpty && !planeConfigured kv.2.act && decide (kv.2.busyAt + 1024 ≤ w.cycle)))
    && (List.range 12).all fun k => !tabHas (12 * c + k) w.sectors || decide (tabGet 0 (12 * c + k) w.sectors + 1024 ≤ w.cycle)

/-- Debug access to core `c`: refused, or served after the unit has been woken where R296 says so. -/
def debugReach (w : World) (c : Nat) : Option World :=
  let full := w.jibor.level == 2
  let d := dieOf c
  let k := w.core c
  if (w.die d).off then none
  else if ((w.die d).retention || k.off) && !full then none
  else
    let w := if (w.die d).retention then w.setDie d { w.die d with retention := false } else w
    if k.off || coreIdle w c then some (w.setCore c { k with off := false, dbgWake := some w.cycle }) else some w

/-- A debug command on the thread in argument 0: its result, or its effect when the level covers the thread. -/
def debugThread (f : World → Nat → World) (w : World) : World :=
  let t := w.jibor.arg0.toNat
  if 1280 ≤ t then answer w 4
  else if !covers w t then answer w 3
  else match debugReach w (coreOf t) with
    | none => answer w 3
    | some w => f w t

/-- `DHOLD`: the thread is held at its next block boundary. -/
def dHold (w : World) (t : Nat) : World := answer (w.setThread t { w.thread t with dheld := true, dstep := false, drun := false }) 0

/-- `DSTEP`: a held thread commits one block. DEDUCED: log 88. -/
def dStep (w : World) (t : Nat) : World :=
  if (w.thread t).dheld then answer (w.setThread t { w.thread t with dstep := true }) 0 else answer w 3

/-- `DRUN`: a held thread is released. -/
def dRun (w : World) (t : Nat) : World := answer (w.setThread t { w.thread t with dheld := false, dstep := false, drun := true }) 0

/-- Write bytes to a host physical address for Jibor. -/
def writeHost (w : World) (a : Nat) (bs : List Byte) : World :=
  (storeMem w (.dieAgent 0) none (2 ^ 48 + a) Touch.store bs).1

/-- The thread area that a debugger reads: at program level the supervisor CSRs read as zero (R292). -/
def debugThreadImage (w : World) (t : Nat) : List Byte :=
  let th := w.thread t
  threadImage (if w.jibor.level = 2 then th else { th with asid := 0, ptbase := 0 })

/-- May debug read region `r`: it is live, and the level covers it (R292)? -/
def coversRegion (w : World) (r : Nat) : Bool :=
  (w.region r).live && (w.jibor.level == 2 || (w.region r).owner.any (covers w))

/-- A region that was frozen for `DREAD` goes on as it was: its chain accesses are issued again, unless it stood frozen before (R294). -/
def thawRegion (w : World) (r : Nat) (frozen draining : Bool) : World :=
  let w := (if frozen then [] else regionElems w r).foldl (fun w e =>
    let x := w.elem e
    if x.acc.any fun a => a.op.isChain && a.phase == .atUnit then
      w.setElem e { x with acc := x.acc.map fun a => if a.op.isChain && a.phase == .atUnit then { a with phase := .issued } else a }
    else w) w
  w.setRegion r { w.region r with frozen := (w.region r).frozen && frozen, draining := draining && (w.region r).live }

/-- The image of a frozen region as `rgsave` would write it, at a host address (R294). -/
def writeRegion (w : World) (r a : Nat) : World :=
  let info : SaveInfo :=
    { tag := 0, thr := none, halted := false, forced := false, armed := (w.region r).armed, overrun := 0, tiles := false }
  (areaPieces w r info (w.region r).cq ++ [(0x40, leBytes 8 1)]).foldl (fun w (o, bs) => writeHost w (a + o) bs) w

/-- The next part of a `DREAD` of a region: it is frozen, unless a wavefront must end first; once its accesses have settled its image is
written, and it goes on (R229, R294). A region that was freed meanwhile is read no more. DEDUCED: log 88. -/
def readTurn (w : World) : World :=
  match w.jibor.reading with
  | none => w
  | some x =>
    let done (w : World) (r : Nat) : World := answer { w with jibor := { w.jibor with reading := none } } r
    let w := match x.before with
      | some _ => w
      | none =>
        let g := w.region x.region
        if g.shadow = .wave then w
        else
          let w := freezeRegion w x.region
          { w with jibor := { w.jibor with reading := some { x with before := some (g.frozen, g.draining) } } }
    match w.jibor.reading.bind (·.before) with
    | none => w
    | some (f, d) =>
      if !(w.region x.region).live then done w 3
      else if !accessesSettled w x.region then w
      else done (thawRegion (writeRegion w x.region x.addr) x.region f d) 0

/-- A `DREAD` of a region starts. -/
def readRegion (w : World) (r a : Nat) : World :=
  if 1280 ≤ r ∨ 2 ^ 51 - 2 ^ 48 < a + 2187520 then answer w 4
  else if !coversRegion w r then answer w 3
  else match debugReach w (r / 4) with
    | none => answer w 3
    | some w => readTurn { w with jibor := { w.jibor with reading := some { region := r, addr := a, before := none } } }

/-- `DREAD`: a thread area, or a region image with bit 63 of argument 0 set, is written to the host address in argument 1.
DEDUCED: log 88. -/
def dRead (w : World) : World :=
  let a := w.jibor.arg1.toNat
  if w.jibor.arg0.getLsbD 63 then readRegion w (w.jibor.arg0.toNat % 2 ^ 63) a
  else debugThread (fun w t =>
    if 2 ^ 51 - 2 ^ 48 < a + 1024 then answer w 4 else answer (writeHost w a (debugThreadImage w t)) 0) w

/-- DEBUG_WAKE_EXPIRY: a core woken for debug returns to idle after 1,024 idle cycles (R296). -/
def execDebugWakeExpiry (c : Nat) (s : State) : Outcome :=
  event (fun w =>
    match (w.core c).dbgWake with
    | some t => if t + 1024 ≤ w.cycle ∧ coreIdle w c then w.setCore c { w.core c with dbgWake := none } else w
    | none => w) s

/-! ### Power (R295) -/

/-- May a core be switched off: idle, no region owned or running, no slot or Sluice held, its copy channels empty?
DEDUCED: log 90. -/
def coreMayOff (w : World) (c : Nat) : Bool :=
  coreIdle w c && !(w.core c).off && (w.core c).dbgWake.isNone
    && ([0, 1, 2, 3].all fun i =>
      let g := w.region (4 * c + i)
      let ch := w.channel (4 * c + i)
      g.owner.isNone && !g.running && ch.queue.isEmpty && ch.cur.isNone)
    && ((List.range 16).all fun i => (w.slotOp (16 * c + i)).phase == .free) && (w.sluice c).owner.isNone && !(w.sluice c).on

/-- CORE_OFF: a core that meets the conditions is power-gated. -/
def execCoreOff (c : Nat) (s : State) : Outcome :=
  event (fun w => if coreMayOff w c then w.setCore c { w.core c with off := true } else w) s

/-- Has work reached a core that is off? -/
def coreWanted (w : World) (c : Nat) : Bool :=
  [0, 1, 2, 3].any fun i =>
    let th := w.thread (4 * c + i)
    let g := w.region (4 * c + i)
    th.runs || (th.phase == .waiting && (!th.events.isEmpty || th.wait.any (waitOver w (4 * c + i)))) || g.running || !g.cq.isEmpty || (g.task.isSome && !g.reusable)

/-- CORE_WAKE: work has reached the core, and it is active again. -/
def execCoreWake (c : Nat) (s : State) : Outcome :=
  event (fun w =>
    if (w.core c).off && coreWanted w c then
      [0, 1, 2, 3].foldl (fun w i => serveCfg w (4 * c + i)) (w.setCore c { w.core c with off := false })
    else w) s

/-- May a die go to retention? DEDUCED: log 90. -/
def dieMayRetain (w : World) (d : Nat) : Bool :=
  decide (d < 8) && !(w.die d).off && (coresOf d).all (fun c => (w.core c).off || !(w.core c).enabled) && (dieTasks w d).isEmpty
    && (w.die d).inbox.isEmpty && w.sessions.all (fun kv => kv.1 / 128 != d)
    && w.queues.all fun (q, x) => x.die != d || switchedOut w q

/-- DIE_RETENTION: the die's L2 and remote-data cache are written back and emptied, and HBM refreshes itself. -/
def execDieRetention (d : Nat) (s : State) : Outcome :=
  event (fun w =>
    if !dieMayRetain w d then w
    else
      let mine (key : Nat) : Bool := key / 32768 == d
      let k := w.cache
      let lines := (k.l2.filter fun kv => mine kv.1).flatMap (·.2)
      let k := lines.foldl (fun k x => (writeBack w.mem x k).1) k
      let clear (x : BitVec 8) : BitVec 8 := x &&& ~~~(BitVec.ofNat 8 (2 ^ d))
      let k := { k with l2 := k.l2.filter fun kv => !mine kv.1, rdc := tabDel d k.rdc
                        sharers := tabMap (fun _ x => clear x) k.sharers }
      ({ w with cache := k }).setDie d { w.die d with retention := true }) s

/-- What Jibor does between steps: a die that no longer meets the conditions leaves retention, and a core woken for debug counts its idle
cycles from its last activity (R295, R296). -/
def powerTurn (w : World) : World :=
  let w := w.dies.foldl (fun w (d, x) =>
    if x.retention && !dieMayRetain w d then w.setDie d { w.die d with retention := false } else w) w
  w.cores.foldl (fun w (c, x) =>
    if x.dbgWake.isSome && !coreIdle w c then w.setCore c { x with dbgWake := some w.cycle } else w) w

/-- DIE_WAKE: a die in retention serves an access that it has held. -/
def execDieWake (d : Nat) (s : State) : Outcome :=
  event (fun w => if (w.die d).retention then w.setDie d { w.die d with retention := false } else w) s

/-- JUNCTION_TEMPERATURE: a junction above 105 °C, or every junction below 95 °C. -/
def execJunctionTemperature (hot : Bool) (s : State) : Outcome :=
  event (fun w => { w with jibor := { w.jibor with hot := hot } }) s

/-! ### Fences (R297) -/

/-- A unit as the mailbox names it: the whole die or one core of it, and a full fence. -/
structure FenceUnit where
  die : Nat
  core : Option Nat
  full : Bool
  deriving DecidableEq, Repr

/-- The unit of an argument; none when it is malformed. -/
def unitOf (u : Nat) : Option FenceUnit :=
  let d := bits u 10 8
  if u / 2 ^ 18 != 0 || bits u 15 11 != 0 || bit u 7 then none
  else if bit u 16 then (if bits u 6 0 = 0 then some { die := d, core := none, full := bit u 17 } else none)
  else if bit u 17 || bit u 3 || decide (4 < bits u 6 4) then none
  else some { die := d, core := some (40 * d + 8 * bits u 6 4 + bits u 2 0), full := false }

/-- Does a unit hold a core? -/
def FenceUnit.has (u : FenceUnit) (c : Nat) : Bool := match u.core with
  | some k => k == c
  | none => c / 40 == u.die

/-- The running tasks of a unit, one that is being restored among them. -/
def unitTasks (w : World) (u : FenceUnit) : List (Nat × Task) :=
  w.tasks.filter fun (_, x) => (x.phase == .running || x.phase == .stopping || x.phase == .loading) && x.region.any fun r => u.has (r / 4)

/-- Steps 2 and 3 of a service fence: a task with a save area is stopped now, any other has its declared drain time. -/
def fenceTasks (w : World) (u : FenceUnit) : World :=
  (unitTasks w u).foldl (fun w (k, x) =>
    let d := drainCycles x
    if x.phase = .stopping then w
    else if x.csave != 0 then
      w.setTask k { x with victim := some ((x.victim.map (·.1)).getD 0, w.cycle, w.cycle + d, w.cycle + 2 * d) }
    else w.setTask k { x with fenceBy := some (w.cycle + d) }) w

/-- A unit is fenced, or no longer. -/
def setFenced (w : World) (u : FenceUnit) (on : Bool) : World :=
  match u.core with
  | some c => w.setCore c { w.core c with fenced := on }
  | none =>
    let out := { w with queues := tabMap (fun q (x : Queue) =>
      if on && x.die == u.die && !switchedOut w q then { x with outProg := x.prog } else x) w.queues }
    let out := if on then withdrawOffers out fun q => (w.queue q).die == u.die else out
    out.setDie u.die { out.die u.die with fenced := on }

/-- `FENCE`: a core or a die is fenced for service, or a die fully. DEDUCED: log 89. -/
def fenceUnit (w : World) : World :=
  match unitOf w.jibor.arg0.toNat with
  | none => answer w 4
  | some u =>
    if u.full && w.sessions.any (fun kv => kv.1 / 128 == u.die) then answer w 5
    else
      let w := fenceTasks (setFenced w u true) u
      answer (if u.full then w.setDie u.die { w.die u.die with fullFence := true } else w) 0

/-- Have the engines of die `d` come to rest: no copy under way or queued, no matrix command, nothing in a Sluice's queue, no run and no
drain, but behind what stands stalled? -/
def enginesRest (w : World) (d : Nat) : Bool :=
  (w.channels.all fun (k, x) => dieOf (k / 4) != d || x.stalled || (x.cur.isNone && x.queue.isEmpty))
    && (w.matrices.all fun (c, m) => dieOf c != d || m.stalled || (m.cur.isNone && m.queue.isEmpty))
    && w.sluices.all fun (c, x) => dieOf c != d || x.stalled || (x.run.isNone && x.queue.isEmpty && x.drain.isNone)

/-- A full fence powers its die off once no task runs on it and its engines rest. DEDUCED: log 89. -/
def finishFences (w : World) : World :=
  w.dies.foldl (fun w (d, x) =>
    if x.fullFence && (unitTasks w { die := d, core := none, full := true }).isEmpty && enginesRest w d then
      w.setDie d { w.die d with off := true, fullFence := false }
    else w) w

/-- `UNFENCE`: installed entries and images take effect for the unit, and its dispatcher binds again. -/
def unfenceUnit (w : World) : World :=
  match unitOf w.jibor.arg0.toNat with
  | none => answer w 4
  | some u =>
    let w := match w.jibor.waiting with
      | some b => applyRecord w b u.has
      | none => w
    let w := { w with
      jibor := runDigests w.jibor [2, 3]
      tasks := tabMap (fun _ (x : Task) =>
        if x.region.any fun r => u.has (r / 4) then
          { x with fenceBy := none, victim := if x.phase != .stopping ∧ x.victim.any (fun v => v.1 == 0) then none else x.victim }
        else x) w.tasks }
    let w := setFenced w u false
    answer (match u.core with
      | none => w.setDie u.die { w.die u.die with off := false, fullFence := false }
      | some _ => w) 0

/-! ### The mailbox (R291) -/

/-- What a command code starts, with the arguments in `MARG` and the payload in `MPAY`; a code that is none is malformed.
DEDUCED: log 87. -/
def runCommand (code : Nat) (w : World) : World :=
  match code with
  | 1 => whenUp attest w
  | 2 => whenUp dbgOpen w
  | 3 => whenUp dbgClose w
  | 4 => whenUp fenceUnit w
  | 5 => whenUp unfenceUnit w
  | 6 => takeImage w w.jibor.arg0.toNat false
  | 7 => takeImage w w.jibor.arg0.toNat true
  | 8 => whenUp (debugThread dHold) w
  | 9 => whenUp (debugThread dStep) w
  | 10 => whenUp (debugThread dRun) w
  | 11 => whenUp dRead w
  | _ => answer w 4

/-- A write of `MCMD` starts a command in bits 7..0; while `BUSY` is set it is ignored. -/
def writeMcmd (w : World) (v : Nat) : World :=
  if w.jibor.busy then w else runCommand (v % 256) { w with jibor := { w.jibor with busy := true } }

/-- `MSTS`: `BUSY` in bit 63 and the result in bits 7..0. -/
def mstsWord (j : Jibor) : Nat := (if j.busy then 2 ^ 63 else 0) + j.result % 256

/-- The 8 bytes at a mailbox word's BAR2 offset, as the host reads them: `MCMD` is write-only and reads zero. -/
def mailboxWord (j : Jibor) (off : Nat) : Nat :=
  if off = 0x08 then j.arg0.toNat
  else if off = 0x10 then j.arg1.toNat
  else if off = 0x18 then mstsWord j
  else if 0x1000 ≤ off ∧ off < 0x2000 then at_ (exactly 4096 j.payload) (off - 0x1000) 8
  else 0

/-- A host read of `n` bytes of BAR2, 4 or 8 and aligned. -/
def mailboxRead (j : Jibor) (off n : Nat) : Nat := mailboxWord j (off / 8 * 8) / 2 ^ (8 * (off % 8)) % 2 ^ (8 * n)

/-- A host write of `n` bytes to BAR2, 4 or 8 and aligned, by the access codes of R291. DEDUCED: log 87. -/
def mailboxWrite (w : World) (off n v : Nat) : World :=
  let j := w.jibor
  let part (old : Word) : Word := BitVec.ofNat 64 (leNat (listWrite (leBytes 8 old.toNat) (off % 8) (leBytes n v)))
  if !((n == 4 || n == 8) && off % n == 0) then w
  else if off = 0 then writeMcmd w v
  else if off / 8 = 1 then { w with jibor := { j with arg0 := part j.arg0 } }
  else if off / 8 = 2 then { w with jibor := { j with arg1 := part j.arg1 } }
  else if 0x1000 ≤ off ∧ off < 0x2000 then
    { w with jibor := { j with payload := listWrite (exactly 4096 j.payload) (off - 0x1000) (leBytes n v) } }
  else w
where
  /-- A byte list with the bytes from `o` on replaced. -/
  listWrite (bs : List Byte) (o : Nat) (v : List Byte) : List Byte := bs.take o ++ v ++ bs.drop (o + v.length)

/-- A mailbox command: the host writes `MARG` and `MPAY` as far as it uses them, then its code to `MCMD`. DEDUCED: log 87. -/
def mailbox (code : Nat) (args : List Word) (pay : List Byte) (s : State) : Outcome :=
  event (fun w => mailboxWrite (fillMailbox w args pay) 0 8 code) s

def execAttest (nonce : List Byte) (s : State) : Outcome := mailbox 1 [] nonce s
def execDbgopen (lvl asid : Word) (tok : List Byte) (s : State) : Outcome := mailbox 2 [lvl, asid] tok s
def execDbgclose (s : State) : Outcome := mailbox 3 [] [] s
/-- DEDUCED: log 89. -/
def execFence (u : Word) (s : State) : Outcome := mailbox 4 [u] [] s
def execUnfence (u : Word) (s : State) : Outcome := mailbox 5 [u] [] s
def execImage (pa : Word) (s : State) : Outcome := mailbox 6 [pa] [] s
def execRecord (pa : Word) (s : State) : Outcome := mailbox 7 [pa] [] s
def execDhold (t : Word) (s : State) : Outcome := mailbox 8 [t] [] s
/-- DEDUCED: log 88. -/
def execDstep (t : Word) (s : State) : Outcome := mailbox 9 [t] [] s
def execDrun (t : Word) (s : State) : Outcome := mailbox 10 [t] [] s
/-- DEDUCED: log 88. -/
def execDread (a0 a1 : Word) (s : State) : Outcome := mailbox 11 [a0, a1] [] s

/-! ### Bring-up (R287, R290) -/

/-- POWER_ON: Jibor verifies its images, runs them, applies the record and releases the cores, every thread Halted and
every sector off; without valid images of types 1 and 4 no core is released (R287, R288). DEDUCED: log 91. -/
def execPowerOn (s : State) : Outcome :=
  event (fun w =>
    let old := w.jibor
    let body := ((runningImage old 4).map (·.drop 256)).getD []
    let life := if body.isEmpty then old.life else at_ body 0 1
    let up := (runningImage old 1).isSome && (runningImage old 4).isSome
    let j : Jibor := { Jibor.reset with
      flash := old.flash, highest := old.highest, minver := old.minver, record := body, life := life
      returned := old.returned || life == 2, released := up }
    let w' := { State.reset.w with fresh := w.fresh, jibor := runDigests j [1, 2, 3, 4]
                                   moduleNode := { Node.free with lim := moduleBudgets j } }
    if body.isEmpty then w' else applyRecord w' body fun _ => true) s

end Sys2Proof.Machine
end

