-- ==== Sys2Proof/Machine/LoadStore.lean ====
section
/-! DEFINITION. Loads, stores, hints and the ordering words (R196 to R203). -/

namespace Sys2Proof.Machine

def execLdB (p : Pr) (d a : Reg) (imm : BitVec 10) (s : State) : Outcome := loadI true 1 p d a imm s
def execLdBn (p : Pr) (d a : Reg) (imm : BitVec 10) (s : State) : Outcome := loadI false 1 p d a imm s
def execLdH (p : Pr) (d a : Reg) (imm : BitVec 10) (s : State) : Outcome := loadI true 2 p d a imm s
def execLdHn (p : Pr) (d a : Reg) (imm : BitVec 10) (s : State) : Outcome := loadI false 2 p d a imm s
def execLdW (p : Pr) (d a : Reg) (imm : BitVec 10) (s : State) : Outcome := loadI true 4 p d a imm s
def execLdWn (p : Pr) (d a : Reg) (imm : BitVec 10) (s : State) : Outcome := loadI false 4 p d a imm s
def execLdD (p : Pr) (d a : Reg) (imm : BitVec 10) (s : State) : Outcome := loadI false 8 p d a imm s
def execStB (p : Pr) (d a : Reg) (imm : BitVec 10) (s : State) : Outcome := storeI 1 p d a imm s
def execStH (p : Pr) (d a : Reg) (imm : BitVec 10) (s : State) : Outcome := storeI 2 p d a imm s
def execStW (p : Pr) (d a : Reg) (imm : BitVec 10) (s : State) : Outcome := storeI 4 p d a imm s
def execStD (p : Pr) (d a : Reg) (imm : BitVec 10) (s : State) : Outcome := storeI 8 p d a imm s
def execLdxD (p : Pr) (d a b : Reg) (s : State) : Outcome := loadX false 8 p d a b s
def execStxD (p : Pr) (d a b : Reg) (s : State) : Outcome := storeX 8 p d a b s
def execLdxW (p : Pr) (d a b : Reg) (s : State) : Outcome := loadX true 4 p d a b s
def execStxW (p : Pr) (d a b : Reg) (s : State) : Outcome := storeX 4 p d a b s

/-- The offset of ld.l and st.l is not scaled (R172). -/
def execLdL (p : Pr) (d a : Reg) (imm : BitVec 32) (s : State) : Outcome :=
  word 2 p (use .other [a] [d]) (fun s => loadTo .plain Touch.load false 8 d (s.readG a + imm.signExtend 64) s) s
def execStL (p : Pr) (d a : Reg) (imm : BitVec 32) (s : State) : Outcome :=
  word 2 p (quiet (use .other [d, a] [])) (fun s => storeFrom .plain Touch.store 8 d (s.readG a + imm.signExtend 64) s) s

/-! ### Hints (R199) -/

def execLdNa (p : Pr) (d a : Reg) (s : State) : Outcome :=
  word 1 p (use .other [a] [d]) (fun s => loadTo .plain { Touch.load with na := true } false 8 d (s.readG a) s) s
def execStNa (p : Pr) (d a : Reg) (s : State) : Outcome :=
  word 1 p (quiet (use .other [d, a] [])) (fun s => storeFrom .plain { Touch.store with na := true } 8 d (s.readG a) s) s

/-- pref starts a fill and never traps: a fill that would fault is dropped. -/
def execPref (p : Pr) (a : Reg) (s : State) : Outcome :=
  word 1 p (use .other [a] []) (fun s =>
    match checkAccess s.w s.core (wordSpace s) .load .plain ((s.readG a).toNat / 128 * 128) 1 with
    | (w, .ok gs) => .ok { s with w := touchSegs w s.turn Touch.load gs }
    | (_, .error _) => .ok s) s

/-- A hint on the line holding gA, checked as a 1-byte load; without effect on the local window. -/
def lineHint (f : World → Nat → Nat → Cache → Cache) (p : Pr) (a : Reg) (s : State) : Outcome :=
  word 1 p (use .other [a] []) (fun s =>
    match checkAccess s.w s.core (wordSpace s) .load .plain (s.readG a).toNat 1 with
    | (_, .error t) => .trap t.code t.val
    | (w, .ok gs) =>
      let pa := homeOf w ((gs.map (·.pa)).headD 0)
      match windowOf pa with
      | .hbm _ | .host | .peer .. => .ok { s with w := { w with cache := f w s.die pa w.cache } }
      | _ => .ok { s with w := w }) s

def execClean (p : Pr) (a : Reg) (s : State) : Outcome :=
  lineHint (fun w _ pa k => match windowOf pa with
    | .hbm _ => cleanLine w.mem pa k
    | _ => k) p a s
def execFlush (p : Pr) (a : Reg) (s : State) : Outcome := lineHint (fun w d pa k => flushLine w.mem d pa k) p a s

/-! ### Acquire, release and fences (R201 to R203): a load is performed at its word, and a store at its home when it leaves the store path,
for every agent at once, so the scope changes no value that this machine shows -/

def execLdAcqCore (p : Pr) (d a : Reg) (s : State) : Outcome := loadAcq p d a s
def execLdAcqDie (p : Pr) (d a : Reg) (s : State) : Outcome := loadAcq p d a s
def execLdAcqPkg (p : Pr) (d a : Reg) (s : State) : Outcome := loadAcq p d a s
def execLdAcqSys (p : Pr) (d a : Reg) (s : State) : Outcome := loadAcq p d a s
def execStRelCore (p : Pr) (d a : Reg) (s : State) : Outcome := storeRel p d a s
def execStRelDie (p : Pr) (d a : Reg) (s : State) : Outcome := storeRel p d a s
def execStRelPkg (p : Pr) (d a : Reg) (s : State) : Outcome := storeRel p d a s
def execStRelSys (p : Pr) (d a : Reg) (s : State) : Outcome := storeRel p d a s

/-- A fence: every earlier access is already performed, but for stores that stand at the store path, which later stores, later loads and
commands of later blocks then wait for (R202). -/
def fenceWord (p : Pr) (s : State) : Outcome := word 1 p (quiet (use .other [] [])) (fun s => .ok (fencePath s)) s

def execFenceCore (p : Pr) (s : State) : Outcome := fenceWord p s
def execFenceDie (p : Pr) (s : State) : Outcome := fenceWord p s
def execFencePkg (p : Pr) (s : State) : Outcome := fenceWord p s
def execFenceSys (p : Pr) (s : State) : Outcome := fenceWord p s

end Sys2Proof.Machine
end

