-- ==== Sys2Proof/Machine/Sys.lean ====
section
/-! DEFINITION. The system words (R217). -/

namespace Sys2Proof.Machine

def execNop (p : Pr) (s : State) : Outcome := word 1 p (quiet (use .other [] [])) (fun s => .ok s) s

/-- halt commits the block and puts the thread in Halted; the block counter stands at the fall-through address. -/
def execHalt (p : Pr) (s : State) : Outcome :=
  word 1 p (use .exit [] []) (fun s =>
    match s.txn with
    | none => .ok s
    | some x =>
      let t := s.turn
      let s := commit s (fallThrough x)
      let w := s.w.setThread t { s.w.thread t with phase := .halted }
      .left { s with w := w, turn := nextTurn w t }) s

/-- trap: the block does not commit; software trap, tval the code. -/
def execTrap (p : Pr) (code : BitVec 6) (s : State) : Outcome :=
  word 1 p (use .exit [] []) (fun _ => .trap 0x04 (code.setWidth 64)) s

/-- eret: in user mode a privilege trap; else the block commits, the mode and `EVM` are restored, and the thread
continues at tepc. Its stalled node accesses are reissued (R263). -/
def execEret (p : Pr) (s : State) : Outcome :=
  word 1 p (use .exit [] []) (fun s =>
    if !s.thr.sup then .trap 0x03 s.wordVal
    else
      let t := s.turn
      let s := commit s s.thr.tepc
      let w := s.w.setThread t (trapReturn (s.w.thread t))
      .left { s with w := reissueThread w t }) s

/-- ecall: the block commits, then trap entry with tepc at the fall-through block and tidx 0. -/
def execEcall (p : Pr) (code : BitVec 6) (s : State) : Outcome :=
  word 1 p (use .exit [] []) (fun s =>
    match s.txn with
    | none => .ok s
    | some x =>
      let t := s.turn
      let s := commit s (fallThrough x)
      .left { s with w := trapInto s.w t 0x05 (code.setWidth 64) (fallThrough x) 0 }) s

/-- The thread is held by the debugger before the block in hand, which does not commit (R294). -/
def holdBefore (s : State) : State :=
  let w := abandon s
  { s with w := w.setThread s.turn { w.thread s.turn with dheld := true }, txn := none, turn := nextTurn w s.turn }

/-- bkpt: in a block that a debugger steps, nothing; in a covered thread that is not released, the thread is held before
the block; else a breakpoint trap (R217, R294). -/
def execBkpt (p : Pr) (code : BitVec 6) (s : State) : Outcome :=
  word 1 p (quiet (use .other [] [])) (fun s =>
    if covers s.w s.turn && !s.thr.drun then
      if s.thr.dstep then .ok s else .aside (holdBefore s)
    else .trap 0x06 (code.setWidth 64)) s

/-- yield: passed over at its next turn. -/
def execYield (p : Pr) (s : State) : Outcome :=
  word 1 p (quiet (use .other [] [])) (fun s => .ok (s.setThr { s.thr with yielded := true })) s

/-- sev acts at commit. -/
def execSev (p : Pr) (s : State) : Outcome :=
  word 1 p (quiet (use .other [] [])) (fun s => .ok { s with txn := s.txn.map fun x => { x with sev := true } }) s

/-- wfe clears the event flag if it is set, else waits until it is. A `wfe` whose wait ended before the block began to wait again
has cleared the flag already (R213, R217). DEDUCED: log 42. -/
def execWfe (p : Pr) (s : State) : Outcome :=
  word 1 p (quiet (use .other [] [])) (fun s =>
    match s.txn with
    | none => .ok s
    | some x =>
      let passed : State := { s with txn := some { x with wakes := x.wakes + 1 } }
      if x.wakes < s.thr.wakes then .ok passed
      else if s.thr.flag then .ok (passed.setThr { s.thr with flag := false })
      else .wait .flag) s

end Sys2Proof.Machine
end

