-- ==== Sys2Proof/Machine/Walk.lean ====
section
/-! DEFINITION. The operations that walk a block tensor: btwalk, cfrd and mvcell (R21 to R26, R36, R121, R122, R125). -/

namespace Sys2Proof.Machine

/-! ### Reading memory inside a firing -/

/-- Why a firing that reads memory does not come to its result: a memory fault at a word, an earlier store of the
element to the same bytes that is not yet performed (R124), or an element fault. -/
inductive Stop where
  | miss (va len : Nat)
  | wait
  | bad (cause : Nat)
  deriving DecidableEq, Repr

/-- A computation that reads memory. -/
abbrev Rd (α : Type) := StateT World (Except Stop) α

/-- Read `n` bytes at `va` as element `e`. -/
def rd (e : Nat) (hint va n : Nat) : Rd (List Byte) := fun w =>
  if (w.elem e).acc.any (fun a => a.op.writes && a.phase != .done && decide (va < a.va + a.len ∧ a.va < va + n)) then .error .wait
  else
    let k : Touch := { Touch.load with na := bit hint 1, evf := bit hint 0 }
    match nodeLoad w (edgeReach e) (edgeTask w e) (edgeSpace w e) k va n with
    | (w, .ok bs) => .ok (bs, w)
    | (_, .error f) => .error (.miss (f.va / 4 * 4) 4)

/-- Read a number. -/
def rdNum (e hint va n : Nat) : Rd Nat := do return leNat (← rd e hint va n)

/-- Read a block of 64 bytes. -/
def rdBlock (e hint va : Nat) : Rd Block := do return BitVec.ofNat 512 (← rdNum e hint va 64)

/-- An element fault of cause *descriptor*. DEDUCED: log 30. -/
def rdBad {α : Type} (b : Bool) (k : Rd α) : Rd α := if b then fun _ => .error (.bad 0x07) else k

/-- Come to the result of a firing that reads memory: a word that faults is issued as an access of its own, and the
firing waits for it; the firing also waits while a budget that its reads are charged to has been reached (R114, R141). -/
def reading {α : Type} (w : World) (e h : Nat) (r : Rd α) (k : World → α → World) : World :=
  match r w with
  | .ok (a, v) => if w.overrun w v then w else k v a
  | .error .wait => w
  | .error (.bad c) => elemFault w e c
  | .error (.miss va n) =>
    let x := w.elem e
    w.setElem e (x.issue (newAccess x h .load va n probeFmt 0 0 [] none))

/-! ### Block tensors (R21 to R26) -/

/-- The fields of a block tensor header that the walkers use. -/
structure Tensor where
  base : Nat
  wid : Nat
  hgt : Nat
  nctu : Nat
  nrec : Nat
  ix : Nat
  recs : Nat
  pool : Nat
  poolLen : Nat
  deriving DecidableEq, Repr

/-- The parts of a tensor lie where R21 puts them: each but an empty one at the next multiple of 64 bytes after the end of the one before.
The offset of an empty pool or luma record area may be any; that of an empty chroma part is 0 (R22). -/
def partsBad (b : Block) : Bool :=
  let at_ (o : Nat) : Nat := fld b o 31 0
  let part (e : Nat) (x : Nat × Nat) : Nat × Bool := if x.2 = 0 then (e, true) else (x.1 + x.2, x.1 == roundUp e 64)
  let chroma (n : Nat) : Nat := if at_ 0x10 = 0 then 0 else n
  let parts := [(at_ 0x14, 8 * at_ 8), (at_ 0x18, chroma (8 * at_ 8)), (at_ 0x1C, 32 * at_ 0xC), (at_ 0x20, 32 * at_ 0x10), (at_ 0x24, at_ 0x28)]
  let ok := (parts.foldl (fun (acc : Nat × Bool) x => let (e, b) := part acc.1 x; (e, acc.2 && b)) (64, true)).2
  !ok || (at_ 0x10 == 0 && (at_ 0x18 != 0 || at_ 0x20 != 0))

/-- Does a header break its layout (R21, R22)? -/
def headerBad (b : Block) : Bool :=
  partsBad b || decide (3 < fld b 0 31 24) || decide (2 < fld b 0 23 20) || !decide (4 ≤ fld b 0 19 16 ∧ fld b 0 19 16 ≤ 7)
    || !(fld b 0 15 8 == 8 || fld b 0 15 8 == 10) || fld b 0 7 4 != 0 || fld b 0x34 31 0 != 0 || fld8 b 0x38 != 0

/-- Read the header at `base`, for the luma or the chroma records (R22, R121). A truncated tensor ends at its count of
records. DEDUCED: log 30. -/
def rdTensor (e hint base : Nat) (chroma : Bool) : Rd Tensor := do
  let b ← rdBlock e hint base
  rdBad (base % 64 != 0 || headerBad b) (pure
    { base := base, wid := fld b 4 15 0, hgt := fld b 4 31 16, nctu := fld b 8 31 0
      nrec := if fld b 0 2 2 = 1 then fld b (if chroma then 0x10 else 0xC) 31 0 else 2 ^ 64
      ix := if chroma && fld b 0x18 31 0 == 0 then 0 else base + fld b (if chroma then 0x18 else 0x14) 31 0
      recs := base + fld b (if chroma then 0x20 else 0x1C) 31 0, pool := base + fld b 0x24 31 0, poolLen := fld b 0x28 31 0 })

/-- The first record and the number of records of CTU `i` (R23); none when there is no chroma index. -/
def rdCtu (e hint : Nat) (t : Tensor) (i : Nat) : Rd (Nat × Nat) := do
  if t.ix = 0 then return (0, 0)
  else
    let x ← rdNum e hint (t.ix + 8 * i) 8
    let first := bits x 31 0
    return (first, min (bits x 47 32) (t.nrec - first))

/-- Word `i` of a 32-byte record. -/
def recWord (r : Nat) (i : Nat) : Nat := bits r (32 * i + 31) (32 * i)

/-- Does a record hold `COMP` 3 or `KIND` 5 to 7 (R24)? -/
def recBad (w1 : Nat) : Bool := bits w1 31 30 == 3 || decide (5 ≤ bits w1 29 27)

/-- A transform unit: its place and size in samples, as log2, and the pool offset of its storage, if it has any (R25). -/
structure TUnit where
  x : Nat
  y : Nat
  lw : Nat
  lh : Nat
  off : Option Nat
  deriving DecidableEq, Repr

/-- Bytes of a unit's storage (R26). -/
def TUnit.size (u : TUnit) : Nat := 2 * 2 ^ (u.lw + u.lh)

/-- Give the units that have storage their offsets, in order. -/
def placeUnits (off : Nat) : List (TUnit × Bool) → List TUnit
  | [] => []
  | (u, coded) :: rest =>
    if coded then { u with off := some off } :: placeUnits (off + u.size) rest else u :: placeUnits off rest

/-- The units of a record, in unit order or list order (R25). -/
def rdUnits (e hint : Nat) (t : Tensor) (r : Nat) : Rd (List TUnit) := do
  let w0 := recWord r 0
  let w1 := recWord r 1
  let w4 := recWord r 4
  let rx := 4 * bits w0 15 0
  let ry := 4 * bits w0 31 16
  let lw := bits w1 26 24
  let lh := bits w1 23 21
  let cbfm := bits (recWord r 5) 31 16
  let poff := recWord r 6
  match bits w4 21 20 with
  | 0 => return []
  | 1 => return placeUnits poff [({ x := rx, y := ry, lw := lw, lh := lh, off := none }, bit cbfm 0)]
  | 2 =>
    let tlw := bits w4 19 17
    let tlh := bits w4 16 14
    return placeUnits poff ((List.range (2 ^ ((lw - tlw) + (lh - tlh)))).map fun i =>
      let (c, q) := unitPlace (lw - tlw) (lh - tlh) i
      ({ x := rx + c * 2 ^ tlw, y := ry + q * 2 ^ tlh, lw := tlw, lh := tlh, off := none }, bit cbfm i))
  | _ =>
    let n ← rdNum e hint (t.pool + poff) 4
    let us ← (List.range n).mapM fun i => do
      let d ← rdNum e hint (t.pool + poff + 4 + 4 * i) 4
      return ({ x := rx + 4 * bits d 7 0, y := ry + 4 * bits d 15 8, lw := bits d 18 16, lh := bits d 21 19, off := none }, bit d 22)
    return placeUnits (poff + roundUp (4 + 4 * n) 32) us

/-- Does a unit contain a sample? -/
def TUnit.contains (u : TUnit) (x y : Nat) : Bool :=
  decide (u.x ≤ x ∧ x < u.x + 2 ^ u.lw ∧ u.y ≤ y ∧ y < u.y + 2 ^ u.lh)

/-! ### The token of an ordinal -/

/-- What a search for a token finds: the token, or how many more to pass over. -/
abbrev Found := Token ⊕ Nat

/-- Search pieces of a stream, each worked out only when it is reached. -/
def search : List (Rd (List Token)) → Nat → Rd Found
  | [], n => pure (.inr n)
  | p :: rest, n => do
    let ts ← p
    match ts[n]? with
    | some t => return .inl t
    | none => search rest (n - ts.length)

/-- Search records, each of which gives its pieces. -/
def searchAll : List (Rd (List (Rd (List Token)))) → Nat → Rd Found
  | [], n => pure (.inr n)
  | r :: rest, n => do
    let ps ← r
    match ← search ps n with
    | .inl t => return .inl t
    | .inr n => searchAll rest n

/-- Search CTUs in raster order, `k` of them from `i` on. -/
def searchCtus (f : Nat → Rd (List (Rd (List (Rd (List Token)))))) : Nat → Nat → Nat → Rd Found
  | 0, _, n => pure (.inr n)
  | k + 1, i, n => do
    let rs ← f i
    match ← searchAll rs n with
    | .inl t => return .inl t
    | .inr n => searchCtus f k (i + 1) n

/-- A data token and a control word of a walker. -/
def datum (x : Nat) : Token := { kind := 0, chan := 0, pay := BitVec.ofNat 32 x }

/-- The records of a CTU: index and 32 bytes. -/
def rdRecords (e hint : Nat) (t : Tensor) (i : Nat) : Rd (List Nat) := do
  let (first, n) ← rdCtu e hint t i
  return (List.range n).map (first + ·)

def rdRecord (e hint : Nat) (t : Tensor) (i : Nat) : Rd Nat := rdNum e hint (t.recs + 32 * i) 32

/-- A firing of a walker: the token of its stream's ordinal, and EOS at the end. -/
def fireWalk (op e h : Nat) (f : Elem → Handler → Pattern → Nat → Rd Found) (s : State) : Outcome :=
  fireEdge op e h (fun w x hd p =>
    reading w e h (f x hd p (x.at_ h)) fun w found =>
      let x := w.elem e
      match found with
      | .inl t => fired w e h ((x.emitOn w.cycle 1 (outl x) { t with chan := hd.och }).setAt h (x.at_ h + 1))
      | .inr _ => endSource (fired w e h (x.emitCtl w.cycle h (ctlWord 3 0))) e h) s

/-- Token `n` of btwalk: the words of each record that `k0` names, EOR after each record, EOG after each CTU (R121). -/
def btwalkFind (e k0 : Nat) (p : Pattern) (n : Nat) : Rd Found := do
  let t ← rdTensor e p.hint p.base p.cmp
  searchCtus (fun i => do
    let rs ← rdRecords e p.hint t i
    return (rs.map fun r => (pure [do
      let b ← rdRecord e p.hint t r
      return ((List.range 8).filter (bit k0)).map (fun j => datum (recWord b j)) ++ [ctlWord 1 0]] : Rd _))
      ++ [pure [pure [ctlWord 2 0]]]) t.nctu 0 n

def execBtwalk (e h : Nat) (s : State) : Outcome :=
  fireWalk 0x88 e h (fun x _ p n => btwalkFind e (x.kreg h 0).toNat p n) s

/-- The class of a kind (R122). -/
def kindClass (k : Nat) : Nat := if k = 0 then 0 else if k ≤ 2 then 1 else 2

/-- The tokens of a coded unit: one for each nonzero value, then EOG (R122). -/
def unitTokens (e hint : Nat) (t : Tensor) (kind : Nat) (u : TUnit) (off : Nat) : Rd (List Token) :=
  rdBad (decide (t.poolLen < off + u.size)) do
    let d ← rdNum e hint (t.pool + off) u.size
    let cls := (5 * kindClass kind + (max u.lw u.lh - 2)) % 16
    let vs := (List.range (2 ^ (u.lw + u.lh))).filterMap fun i =>
      let v := bits d (16 * i + 15) (16 * i)
      if v = 0 then none else some (datum (v * 2 ^ 16 + cls * 2 ^ 12 + i % 4096))
    return vs ++ [ctlWord 2 0]

/-- Token `n` of cfrd: the nonzero values of each coded unit, and with `eor` an EOR after each record that has one (R122). -/
def cfrdFind (e : Nat) (eor : Bool) (p : Pattern) (n : Nat) : Rd Found := do
  let t ← rdTensor e p.hint p.base p.cmp
  searchCtus (fun i => do
    let rs ← rdRecords e p.hint t i
    return rs.map fun r => do
      let b ← rdRecord e p.hint t r
      rdBad (recBad (recWord b 1)) do
        let us ← rdUnits e p.hint t b
        let coded := us.filterMap fun u => u.off.map fun o => (u, o)
        return (coded.map fun (u, o) => unitTokens e p.hint t (bits (recWord b 1) 29 27) u o)
          ++ (if eor && !coded.isEmpty then [pure [ctlWord 1 0]] else [])) t.nctu 0 n

def execCfrd (e h : Nat) (s : State) : Outcome :=
  fireWalk 0x89 e h (fun _ hd p n => cfrdFind e (bit hd.mode 0) p n) s

/-! ### mvcell (R125) -/

/-- The cells that a record governs on a grid of cells of `c` samples, in raster order: those whose top-left sample lies inside
the picture (R36). DESIGN CHOICE: log 67. -/
def governed (t : Tensor) (c b : Nat) : List (Nat × Nat) :=
  let rx := 4 * bits (recWord b 0) 15 0
  let ry := 4 * bits (recWord b 0) 31 16
  let ex := min (rx + 2 ^ bits (recWord b 1) 26 24) t.wid
  let ey := min (ry + 2 ^ bits (recWord b 1) 23 21) t.hgt
  let xs := (List.range (ceilDiv ex c - ceilDiv rx c)).map (ceilDiv rx c + ·)
  (List.range (ceilDiv ey c - ceilDiv ry c)).flatMap fun j => xs.map fun x => (x, ceilDiv ry c + j)

/-- A cell token. -/
def cellToken (xy : Nat × Nat) : Token := datum (xy.2 % 2 ^ 11 * 2 ^ 11 + xy.1 % 2 ^ 11)

/-- The units of every record of a CTU but one. -/
def rdOthers (e hint : Nat) (t : Tensor) (rs : List Nat) (r : Nat) : Rd (List TUnit) := do
  let us ← (rs.filter (· != r)).mapM fun q => do rdUnits e hint t (← rdRecord e hint t q)
  return us.flatten

/-- The tokens of record `r` among the records `rs` of its CTU; a chroma record governs no cell (R36). -/
def recordTokens (e hint : Nat) (t : Tensor) (c : Nat) (rs : List Nat) (r : Nat) : Rd (List Token) := do
  let b ← rdRecord e hint t r
  rdBad (recBad (recWord b 1)) do
    let us ← rdUnits e hint t b
    let cells := if bits (recWord b 1) 31 30 = 0 then governed t c b else []
    if cells.isEmpty && us.all (·.off.isNone) then return []
    else
      let unitOf (xy : Nat × Nat) : Option Nat := us.findIdx? fun u => u.contains (c * xy.1) (c * xy.2)
      let groups := us.mapIdx fun i u =>
        [datum (2 ^ 31 + (if u.off.isSome then 1 else 0))] ++ (cells.filter fun xy => unitOf xy == some i).map cellToken ++ [ctlWord 2 0]
      let rest := cells.filter fun xy => unitOf xy == none
      let others ← if rest.isEmpty then pure [] else rdOthers e hint t rs r
      let shared := rest.any fun xy => others.any fun u => u.contains (c * xy.1) (c * xy.2)
      let last := if rest.isEmpty then [] else [datum (2 ^ 31 + (if shared then 2 else 0))] ++ rest.map cellToken ++ [ctlWord 2 0]
      return [datum (0xA0000000 + r % 2 ^ 29)] ++ [1, 2, 3, 4, 5].map (fun i => datum (recWord b i)) ++ groups.flatten ++ last

/-- Token `n` of mvcell: each record that governs a cell or has a coded unit, with its cells in groups (R125). -/
def mvcellFind (e : Nat) (p : Pattern) (n : Nat) : Rd Found := do
  let t ← rdTensor e p.hint p.base false
  searchCtus (fun i => do
    let rs ← rdRecords e p.hint t i
    return rs.map fun r => (pure [recordTokens e p.hint t (4 * 2 ^ p.lvl) rs r] : Rd _)) t.nctu 0 n

def execMvcell (e h : Nat) (s : State) : Outcome :=
  fireWalk 0xA2 e h (fun _ _ p n => mvcellFind e p n) s

end Sys2Proof.Machine
end

