-- ==== Sys2Proof/Machine/Video.lean ====
section
/-! DEFINITION. The operations on feature grids and lineage planes: warp, drift and rfq (R36 to R50, R126 to R128). -/

namespace Sys2Proof.Machine

/-! ### Grid descriptors (R37, R38) -/

/-- A grid descriptor's fields. -/
structure Grid where
  level : Nat
  fmt : Nat
  cm1 : Nat
  refn0 : Nat
  refn1 : Nat
  wc : Nat
  hc : Nat
  data : Nat
  pitch : Nat
  lin : Nat
  dmodel : Nat
  rq : Nat
  prec : Nat
  refbase : Nat
  deriving DecidableEq, Repr

/-- Read the fields of a descriptor (R37). -/
def gridOf (b : Block) : Grid :=
  { level := fld b 0 31 29, fmt := fld b 0 28 23, cm1 := fld b 0 19 10, refn1 := fld b 0 9 5, refn0 := fld b 0 4 0
    wc := fld b 4 15 0, hc := fld b 4 31 16, data := fld8 b 8, pitch := fld b 0x10 31 0, lin := fld8 b 0x18
    dmodel := fld8 b 0x20, rq := fld8 b 0x28, prec := fld8 b 0x30, refbase := fld8 b 0x38 }

/-- Bytes of an element and of a cell. -/
def Grid.elem (g : Grid) : Nat := fmtBytes g.fmt
def Grid.cell (g : Grid) : Nat := (g.cm1 + 1) * g.elem

/-- Does a descriptor at `va` break R38? DEDUCED: log 65. -/
def gridBad (va : Nat) (b : Block) : Bool :=
  let g := gridOf b
  decide (5 < g.level) || !(g.fmt == 0x08 || g.fmt == 0x0B || isBinary8 g.fmt) || decide (16 < g.refn0) || decide (16 < g.refn1)
    || !decide (1 ≤ g.wc ∧ g.wc ≤ 2048) || !decide (1 ≤ g.hc ∧ g.hc ≤ 2048) || g.pitch % 4 != 0
    || decide (g.pitch < g.wc * g.cell) || fld b 0 22 20 != 0 || fld b 0x14 31 0 != 0 || va % 64 != 0 || g.lin % 4 != 0
    || g.dmodel % 64 != 0 || g.rq % 32 != 0 || g.prec % 128 != 0 || g.refbase % 64 != 0

/-- Read a descriptor, for a reference with the output descriptor it must match (R38). -/
def rdGrid (e hint va : Nat) (like? : Option Grid) : Rd Grid := do
  let b ← rdBlock e hint va
  let g := gridOf b
  rdBad (gridBad va b || (match like? with
    | some o => !(g.level == o.level && g.wc == o.wc && g.hc == o.hc && g.cm1 == o.cm1)
    | none => false)) (pure g)

/-- The output descriptor of an operation that queues refreshes; the descriptors of its references and of the level below need no queue
(R38). DEDUCED: log 107. -/
def rdQueueing (e hint va : Nat) : Rd Grid := do
  let g ← rdGrid e hint va none
  rdBad (g.level != 0 && g.rq == 0) (pure g)

/-- The address of cell (x, y), and of its lineage word (R37). -/
def Grid.cellAt (g : Grid) (x y : Nat) : Nat := g.data + y * g.pitch + x * g.cell
def Grid.linAt (g : Grid) (x y : Nat) : Nat := g.lin + 4 * (y * g.wc + x)

/-! ### The governing record in hand (R24, R125) -/

/-- Word `i`, from 0 to 4, of the record words that a handler keeps. -/
def Elem.recW (x : Elem) (h i : Nat) : Nat := x.work h (wRec + i)
def Elem.kind (x : Elem) (h : Nat) : Nat := bits (x.recW h 0) 29 27
/-- Motion vector component: list `k`, horizontal 0 or vertical 1. -/
def Elem.mv (x : Elem) (h k v : Nat) : Int := sgn 16 (bits (x.recW h (1 + k)) (16 * v + 15) (16 * v))
def Elem.usesList (x : Elem) (h k : Nat) : Bool := bit (x.recW h 3) (22 + k)
def Elem.refIx (x : Elem) (h k : Nat) : Nat := bits (x.recW h 3) (4 * k + 27) (4 * k + 24)
def Elem.nnz (x : Elem) (h : Nat) : Nat := bits (x.recW h 4) 15 0
def Elem.usedLists (x : Elem) (h : Nat) : List Nat := [0, 1].filter (x.usesList h)

/-- Is at least one list used and every used reference described (R40, R43)? -/
def described (x : Elem) (h : Nat) (g : Grid) : Bool :=
  !(x.usedLists h).isEmpty && (x.usedLists h).all fun k => decide (x.refIx h k < if k = 0 then g.refn0 else g.refn1)

/-- The descriptor of the reference of list `k`. -/
def rdRef (e hint : Nat) (x : Elem) (h : Nat) (g : Grid) (k : Nat) : Rd Grid :=
  rdGrid e hint (g.refbase + 64 * (16 * k + x.refIx h k)) (some g)

/-- The used lists with their references' descriptors, which are read and checked before any cell is (R38). -/
def rdRefs (e hint : Nat) (x : Elem) (h : Nat) (g : Grid) : Rd (List (Nat × Grid)) :=
  (x.usedLists h).mapM fun k => do return (k, ← rdRef e hint x h g k)

/-! ### Warp (R41 to R43) -/

/-- Whole cells and the fraction in 1/64 of a cell of a vector component (R41). -/
def displace (level : Nat) (m : Int) : Int × Nat :=
  let i := m / ((2 ^ (6 + level) : Nat) : Int)
  (i, (m - i * ((2 ^ (6 + level) : Nat) : Int)).toNat / 2 ^ level)

/-- `clamp` to a grid's range. -/
def clampTo (n : Nat) (u : Int) : Nat := (max 0 (min u ((n : Int) - 1))).toNat

/-- The four cells of `term` for a vector, clamped, with their weights (R42). -/
def taps (g : Grid) (level : Nat) (mx my : Int) (x y : Nat) : List (Nat × Nat × Nat) :=
  let (ix, fx) := displace level mx
  let (iy, fy) := displace level my
  let at_ (dx dy : Int) (wt : Nat) := (clampTo g.wc (x + ix + dx), clampTo g.hc (y + iy + dy), wt)
  [at_ 0 0 ((64 - fx) * (64 - fy)), at_ 1 0 (fx * (64 - fy)), at_ 0 1 ((64 - fx) * fy), at_ 1 1 (fx * fy)]

/-- `term`: a weighted cell value; a cell of weight 0 is not read (R42). -/
def term (e hint : Nat) (g : Grid) (c : Nat) (t : Nat × Nat × Nat) : Rd (W32 × Flags) := do
  let (u, v, wt) := t
  if wt = 0 then return (0, 0)
  else
    let x ← rdNum e hint (g.cellAt u v + c * g.elem) g.elem
    return roundFw (mulVal (fmtVal g.fmt x) (Val.make false wt (-12))).1 0

/-- `warp1` (R42). -/
def warp1 (e hint : Nat) (g : Grid) (mx my : Int) (x y c : Nat) : Rd (W32 × Flags) := do
  let ts ← (taps g g.level mx my x y).mapM (term e hint g c)
  let t (i : Nat) : W32 × Flags := ts.getD i (0, 0)
  let a := fwAdd 0 (t 0).1 (t 1).1
  let b := fwAdd 0 (t 2).1 (t 3).1
  let r := fwAdd 0 a.1 b.1
  return (r.1, (t 0).2 ||| (t 1).2 ||| (t 2).2 ||| (t 3).2 ||| a.2 ||| b.2 ||| r.2)

/-- `halve`: one less in the exponent; below 2^−510 a zero of the sign with UF and NX (R43). -/
def halve (v : W32) : W32 × Flags :=
  let ex := bits v.toNat 30 21
  if ex = 0 ∨ ex = 1023 then (v, 0)
  else if ex = 1 then (v &&& 0x80000000, fUF ||| fNX)
  else (v - BitVec.ofNat 32 (2 ^ 21), 0)

/-- The warp term of channel c of a cell (R43). -/
def warpTerm (e hint : Nat) (x : Elem) (h : Nat) (g : Grid) (cx cy c : Nat) : Rd (W32 × Flags) := do
  let kind := x.kind h
  if kind = 0 ∨ kind = 3 ∨ kind = 4 ∨ described x h g = false then return (0, 0)
  else
    let refs ← rdRefs e hint x h g
    let rs ← refs.mapM fun (k, ref) => warp1 e hint ref (x.mv h k 0) (x.mv h k 1) cx cy c
    match rs with
    | [a, b] =>
      let s := fwAdd 0 a.1 b.1
      let v := halve s.1
      return (v.1, a.2 ||| b.2 ||| s.2 ||| v.2)
    | a :: _ => return a
    | [] => return (0, 0)

/-- The stored value of channel c of a cell (R43). DEDUCED: log 66. -/
def warpValue (e hint : Nat) (x : Elem) (h : Nat) (g : Grid) (cx cy c : Nat) : Rd (Nat × Flags) := do
  let a ← warpTerm e hint x h g cx cy c
  let v := if x.work h wCoded = 1 then fwAdd 0 a.1 (BitVec.ofNat 32 (x.work h (wVals + c))) else (a.1, 0)
  let s := storeToken g.fmt v.1
  return (s.1, a.2 ||| v.2 ||| s.2)

/-! ### The sequence of R125 on port a -/

/-- Does a token at the head of port a take the handler on in the sequence, and where to? None breaks the sequence;
a record has a group at least, the
trailing group is its last, and one with bit 1 set has a cell (R125, R126). `coded` says whether a group opener with storage starts taking values. -/
def sequenceStep (phase : Nat) (coded : Bool) (t : Token) : Option Nat :=
  let p := t.pay.toNat
  if t.isCtl then
    if t.code = 2 ∧ phase = phCells then some phMore
    else if t.code = 2 ∧ phase = phLast then some phRec
    else if t.code = 3 ∧ (phase = phRec ∨ phase = phMore) then some phRec
    else none
  else if !t.isData then none
  else if 1 ≤ phase ∧ phase ≤ 5 then some (phase + 1)
  else if bits p 31 29 = 5 then (if phase = phRec ∨ phase = phMore then some 1 else none)
  else if bits p 31 29 = 4 then
    if bits p 28 2 = 0 ∧ bits p 1 0 ≠ 3 ∧ (phase = phGroup ∨ phase = phMore) then
      some (if bit p 1 then phShared else if coded && bit p 0 then phVals else phCells)
    else none
  else if inCells phase ∧ p < 2 ^ 22 then some (if phase = phShared then phLast else phase)
  else none

/-- The handler's working state after a token that is no cell and no control word. -/
def keepToken (x : Elem) (h next : Nat) (t : Token) : Elem :=
  let phase := x.work h wPhase
  let y := x.setWork h wPhase next
  if 1 ≤ phase ∧ phase ≤ 5 then y.setWork h (wRec + phase - 1) t.pay.toNat
  else if next = phVals ∨ inCells next then ((y.setWork h wCoded (if next = phVals then 1 else 0)).setWork h wCount 0).setWork h wChan 0
  else y

/-- A firing that follows the sequence of R125 on port a: control words are emitted, with one from b where a group took
values and at the end; the cells are the operation's own; a record with `COMP` 3 or `KIND` 5 to 7 faults (R24). -/
def fireSequence (w : World) (e h : Nat) (x : Elem) (hd : Handler) (b : Option Nat) (cell : Nat → Nat → Nat → World) : World :=
  match x.seen hd.opa h with
  | none => w
  | some t =>
    let phase := x.work h wPhase
    match sequenceStep phase b.isSome t with
    | none => elemFault w e 0x05
    | some next =>
      if t.isCtl then
        let done (x : Elem) : World :=
          passedEos (fired w e h ((((x.take hd.opa h).setWork h wPhase next).setWork h wCoded 0).emitCtl w.cycle h t)) e h t
        match b with
        | some p =>
          if t.code = 3 ∨ x.work h wCoded = 1 then
            match x.seen p h with
            | some u => if u.isCtl && u.code == t.code then done (x.take p h) else elemFault w e 0x05
            | none => w
          else done x
        | none => done x
      else if inCells phase then cell (bits t.pay.toNat 10 0) (bits t.pay.toNat 21 11) next
      else if phase = 1 ∧ recBad t.pay.toNat then elemFault w e 0x07
      else fired w e h (keepToken (x.take hd.opa h) h next t)

/-- warp: values of a coded group from b, then one channel of the cell in hand a firing, and the cell token after its
last (R126). DEDUCED: log 66. -/
def execWarp (e h : Nat) (s : State) : Outcome :=
  fireEdge 0xA0 e h (fun w x hd p =>
    let b := warpB hd
    let grid : Rd Grid := do
      let g ← rdGrid e p.hint p.base none
      rdBad (g.fmt != p.fmt) (pure g)
    if x.work h wPhase = phVals then
      match b.bind (x.seen · h) with
      | none => w
      | some t =>
        if !t.isData then elemFault w e 0x05
        else reading w e h grid fun w g =>
          let x := w.elem e
          let n := x.work h wCount
          let y := ((x.take (b.getD 0) h).setWork h (wVals + n) t.pay.toNat).setWork h wCount (n + 1)
          fired w e h (if n + 1 = g.cm1 + 1 then y.setWork h wPhase phCells else y)
    else fireSequence w e h x hd b fun cx cy next =>
      reading w e h (do
        let g ← grid
        rdBad (decide (g.wc ≤ cx) || decide (g.hc ≤ cy) || decide (5 ≤ x.kind h) || bits (x.recW h 0) 31 30 == 3) do
          let v ← warpValue e p.hint x h g cx cy (x.work h wChan)
          return (g, v)) fun w (g, v) =>
        let x := w.elem e
        let c := x.work h wChan
        let lastOne := c == g.cm1
        let cell : Out := x.dataOut w.cycle h (BitVec.ofNat 32 (cy * 2 ^ 11 + cx))
        let a := newAccess x h .store (g.cellAt cx cy + c * g.elem) g.elem g.fmt v.1 p.hint (if lastOne then [cell] else []) none
        let y := x.issue a
        let y := if lastOne then (((y.take hd.opa h).setWork h wPhase next).setWork h wChan 0).setAt h (x.at_ h + 1) else y.setWork h wChan (c + 1)
        raiseNfl (fired w e h y) e v.2) s

/-! ### Drift (R39, R40, R45 to R47, R50, R127) -/

/-- A lineage word (R39). -/
def lineage (bound depth : Nat) (rfp deg anc : Bool) : Nat :=
  bound * 2 ^ 16 + (if rfp then 2 ^ 10 else 0) + (if deg then 2 ^ 9 else 0) + (if anc then 2 ^ 8 else 0) + depth

/-- What drift does to a cell: its new lineage word, whether it asks for an anchor, whether it is queued. -/
structure Drifted where
  word : Nat
  request : Bool
  queued : Bool
  deriving DecidableEq, Repr

/-- The entry of a grid's level in its drift model (R45). -/
def rdModel (e hint : Nat) (g : Grid) : Rd Nat := do
  let m ← rdNum e hint (g.dmodel + 8 * g.level) 8
  rdBad (bits m 63 56 != 0) (pure m)

/-- The lineage words of the contributing cells of list `k` in its reference, and its fractional class (R46). -/
def rdContributing (e hint : Nat) (x : Elem) (h : Nat) (g : Grid) (cx cy k : Nat) (ref : Grid) : Rd (List Nat × Nat) := do
  let mx := x.mv h k 0
  let my := x.mv h k 1
  let cells := (taps ref g.level mx my cx cy).filter fun t => t.2.2 != 0
  let ws ← cells.mapM fun t => rdNum e hint (ref.linAt t.1 t.2.1) 4
  return (ws, (if (displace g.level mx).2 = 0 then 0 else 1) + (if (displace g.level my).2 = 0 then 0 else 1))

/-- A prediction step (R46, R47). -/
def rdPredicted (e hint : Nat) (x : Elem) (h : Nat) (g : Grid) (cx cy : Nat) : Rd Drifted := do
  let refs ← rdRefs e hint x h g
  let m ← rdModel e hint g
  let cs ← refs.mapM fun (k, ref) => rdContributing e hint x h g cx cy k ref
  let ws := cs.flatMap (·.1)
  let d := ws.foldl (fun d k => max d (bits k 7 0)) 0
  let b := ws.foldl (fun b k => max b (bits k 31 16)) 0
  let deg := ws.any (bit · 9)
  let pend := ws.any (bit · 10)
  let f := cs.foldl (fun f c => max f c.2) 0
  let ee := min 15 (Nat.log2 (x.nnz h + 1))
  let d' := min 255 (d + 1)
  let b' := min 0xFFFF (b + bits m 15 0 + bits m 23 16 * f + bits m 31 24 * ee)
  let beyond := decide (bits m 39 32 < d') || decide (bits m 55 40 < b') || pend
  if g.level = 0 then return { word := lineage b' d' false (beyond || deg) false, request := beyond || deg, queued := false }
  else return { word := lineage b' d' beyond deg false, request := false, queued := beyond }

/-- The new lineage of a cell by its governing record (R40); only a prediction reads the drift model. DEDUCED: log 108. -/
def rdDrift (e hint : Nat) (x : Elem) (h : Nat) (g : Grid) (cx cy : Nat) : Rd Drifted :=
  let kind := x.kind h
  if 5 ≤ kind ∨ bits (x.recW h 0) 31 30 = 3 then rdBad true (pure { word := 0, request := false, queued := false })
  else if kind = 0 then
    pure (if g.level = 0 then { word := lineage 0 0 false false true, request := false, queued := false }
      else { word := lineage 0 0 true false false, request := false, queued := true })
  else if kind = 3 ∨ kind = 4 then
    pure (if g.level = 0 then { word := lineage 0xFFFF 0 false true false, request := true, queued := false }
      else { word := lineage 0 0 true false false, request := false, queued := true })
  else if described x h g then rdPredicted e hint x h g cx cy
  else
    pure (if g.level = 0 then { word := lineage 0xFFFF 255 false true false, request := true, queued := false }
      else { word := lineage 0xFFFF 255 true false false, request := false, queued := true })

/-- The refreshed lineage of a cell from the level below, extended by `k` cells (R50). -/
def rdRefresh (e hint auxa : Nat) (g : Grid) (k cx cy : Nat) : Rd Drifted := do
  let low ← rdGrid e hint auxa none
  rdBad (g.level == 0 || low.level + 1 != g.level) do
    let span (c n : Nat) : List Nat := (List.range (2 + 2 * k)).map fun (i : Nat) => clampTo n (2 * (c : Int) - k + i)
    let cells := (span cy low.hc).flatMap fun y => (span cx low.wc).map fun x => (x, y)
    let ws ← cells.mapM fun xy => rdNum e hint (low.linAt xy.1 xy.2) 4
    let b := ws.foldl (fun b k => max b (bits k 31 16)) 0
    let deg := ws.any (bit · 9)
    let pend := ws.any (bit · 10)
    return { word := lineage b 0 pend deg (b == 0 && !deg), request := false, queued := pend }

/-- The entry of a refresh queue (R48). -/
def queueEntry (level cx cy : Nat) : Nat := 2 ^ 63 + level * 2 ^ 32 + cy * 2 ^ 16 + cx

/-- Issue what a cell's drift does: the lineage word, which is emitted once it is written, the anchor request, and the
append, in this order (R47, R49, R127). -/
def issueDrift (w : World) (e h : Nat) (hd : Handler) (p : Pattern) (g : Grid) (d : Drifted) (cx cy : Nat) : World :=
  let x := w.elem e
  let y := x.issue (newAccess x h .store (g.linAt cx cy) 4 0x05 d.word p.hint [x.dataOut w.cycle h (BitVec.ofNat 32 d.word)] none)
  let y := if d.request && g.prec != 0 then y.issue (newAccess y h .orWord (g.prec + 0x10) 4 probeFmt 0x40 p.hint [] none) else y
  let y := if d.queued then y.issue (newAccess y h .append (g.rq + 8) 8 probeFmt (queueEntry g.level cx cy) p.hint [] none) else y
  fired w e h ((y.take hd.opa h).setAt h (x.at_ h + 1))

/-- The grid of a drift cell, which must lie inside it (R127). -/
def rdDriftGrid (e : Nat) (p : Pattern) (cx cy : Nat) : Rd Grid := do
  let g ← rdQueueing e p.hint p.base
  rdBad (decide (g.wc ≤ cx) || decide (g.hc ≤ cy)) (pure g)

/-- drift, in its plain form and its refresh form (R127). -/
def execDrift (e h : Nat) (s : State) : Outcome :=
  fireEdge 0xA1 e h (fun w x hd p =>
    let cell (f : Grid → Rd Drifted) (x : Elem → Elem) (cx cy : Nat) : World :=
      reading w e h (do
        let g ← rdDriftGrid e p cx cy
        return (g, ← f g)) fun w (g, d) => issueDrift (w.setElem e (x (w.elem e))) e h hd p g d cx cy
    if bit hd.mode 0 then
      passEdge w e h x fun _ =>
        let t := (operand x h hd.opa).toNat
        let cx := bits t 10 0
        let cy := bits t 21 11
        cell (fun g => rdRefresh e p.hint p.auxa g (bits hd.mode 2 1) cx cy) id cx cy
    else fireSequence w e h x hd none fun cx cy next => cell (fun g => rdDrift e p.hint x h g cx cy) (·.setWork h wPhase next) cx cy) s

/-- rfq: append the cell, and emit the slot, or all ones when the queue is full (R128). -/
def execRfq (e h : Nat) (s : State) : Outcome :=
  fireEdge 0xA3 e h (fun w x hd p => passEdge w e h x fun _ =>
    let t := (operand x h hd.opa).toNat
    reading w e h (do
      let g ← rdQueueing e p.hint p.base
      rdBad (g.rq == 0) (pure g)) fun w g =>
      let x := w.elem e
      let a := newAccess x h .append (g.rq + 8) 8 0x05 (queueEntry g.level (bits t 10 0) (bits t 21 11)) p.hint
        [x.dataOut w.cycle h 0] (some 0)
      fired w e h (((x.takeAll h).issue a).setAt h (x.at_ h + 1))) s

end Sys2Proof.Machine
end

