-- ==== Sys2Proof/Machine/Dispatch.lean ====
section
/-! DEFINITION. One arm per constructor of `Instr`: a direct call of its meaning. -/

namespace Sys2Proof.Machine

/-- The meaning of one step at a state. -/
def exec (i : Instr) (s : State) : Host.Outcome State Fault Refusal :=
  match i with
  | .nop p => Sys2Proof.Machine.execNop p s
  | .halt p => Sys2Proof.Machine.execHalt p s
  | .trap p code => Sys2Proof.Machine.execTrap p code s
  | .eret p => Sys2Proof.Machine.execEret p s
  | .ecall p code => Sys2Proof.Machine.execEcall p code s
  | .bkpt p code => Sys2Proof.Machine.execBkpt p code s
  | .yield p => Sys2Proof.Machine.execYield p s
  | .wfe p => Sys2Proof.Machine.execWfe p s
  | .sev p => Sys2Proof.Machine.execSev p s
  | .add p d a b => Sys2Proof.Machine.execAdd p d a b s
  | .sub p d a b => Sys2Proof.Machine.execSub p d a b s
  | .and p d a b => Sys2Proof.Machine.execAnd p d a b s
  | .or p d a b => Sys2Proof.Machine.execOr p d a b s
  | .xor p d a b => Sys2Proof.Machine.execXor p d a b s
  | .andn p d a b => Sys2Proof.Machine.execAndn p d a b s
  | .orn p d a b => Sys2Proof.Machine.execOrn p d a b s
  | .shl p d a b => Sys2Proof.Machine.execShl p d a b s
  | .shr p d a b => Sys2Proof.Machine.execShr p d a b s
  | .sra p d a b => Sys2Proof.Machine.execSra p d a b s
  | .rol p d a b => Sys2Proof.Machine.execRol p d a b s
  | .ror p d a b => Sys2Proof.Machine.execRor p d a b s
  | .min p d a b => Sys2Proof.Machine.execMin p d a b s
  | .max p d a b => Sys2Proof.Machine.execMax p d a b s
  | .minn p d a b => Sys2Proof.Machine.execMinn p d a b s
  | .maxn p d a b => Sys2Proof.Machine.execMaxn p d a b s
  | .mul p d a b => Sys2Proof.Machine.execMul p d a b s
  | .mulh p d a b => Sys2Proof.Machine.execMulh p d a b s
  | .mulhn p d a b => Sys2Proof.Machine.execMulhn p d a b s
  | .div p d a b => Sys2Proof.Machine.execDiv p d a b s
  | .divn p d a b => Sys2Proof.Machine.execDivn p d a b s
  | .rem p d a b => Sys2Proof.Machine.execRem p d a b s
  | .remn p d a b => Sys2Proof.Machine.execRemn p d a b s
  | .clz p d a => Sys2Proof.Machine.execClz p d a s
  | .ctz p d a => Sys2Proof.Machine.execCtz p d a s
  | .popc p d a => Sys2Proof.Machine.execPopc p d a s
  | .brev p d a => Sys2Proof.Machine.execBrev p d a s
  | .bswap p d a => Sys2Proof.Machine.execBswap p d a s
  | .addW p d a b => Sys2Proof.Machine.execAddW p d a b s
  | .subW p d a b => Sys2Proof.Machine.execSubW p d a b s
  | .mulW p d a b => Sys2Proof.Machine.execMulW p d a b s
  | .shlW p d a b => Sys2Proof.Machine.execShlW p d a b s
  | .shrW p d a b => Sys2Proof.Machine.execShrW p d a b s
  | .sraW p d a b => Sys2Proof.Machine.execSraW p d a b s
  | .addsat p d a b => Sys2Proof.Machine.execAddsat p d a b s
  | .subsat p d a b => Sys2Proof.Machine.execSubsat p d a b s
  | .sextb p d a => Sys2Proof.Machine.execSextb p d a s
  | .sexth p d a => Sys2Proof.Machine.execSexth p d a s
  | .sextw p d a => Sys2Proof.Machine.execSextw p d a s
  | .zextw p d a => Sys2Proof.Machine.execZextw p d a s
  | .ceq p d a b => Sys2Proof.Machine.execCeq p d a b s
  | .cne p d a b => Sys2Proof.Machine.execCne p d a b s
  | .clt p d a b => Sys2Proof.Machine.execClt p d a b s
  | .cle p d a b => Sys2Proof.Machine.execCle p d a b s
  | .cltn p d a b => Sys2Proof.Machine.execCltn p d a b s
  | .clen p d a b => Sys2Proof.Machine.execClen p d a b s
  | .cbit p d a b => Sys2Proof.Machine.execCbit p d a b s
  | .pand p d a b => Sys2Proof.Machine.execPand p d a b s
  | .por p d a b => Sys2Proof.Machine.execPor p d a b s
  | .pxor p d a b => Sys2Proof.Machine.execPxor p d a b s
  | .pandn p d a b => Sys2Proof.Machine.execPandn p d a b s
  | .pnot p d a => Sys2Proof.Machine.execPnot p d a s
  | .p2g p d a => Sys2Proof.Machine.execP2g p d a s
  | .g2p p d a => Sys2Proof.Machine.execG2p p d a s
  | .mov p d a => Sys2Proof.Machine.execMov p d a s
  | .sel p d a b => Sys2Proof.Machine.execSel p d a b s
  | .lea1 p d a b => Sys2Proof.Machine.execLea1 p d a b s
  | .lea2 p d a b => Sys2Proof.Machine.execLea2 p d a b s
  | .lea4 p d a b => Sys2Proof.Machine.execLea4 p d a b s
  | .lea8 p d a b => Sys2Proof.Machine.execLea8 p d a b s
  | .lea16 p d a b => Sys2Proof.Machine.execLea16 p d a b s
  | .alignd p d a b => Sys2Proof.Machine.execAlignd p d a b s
  | .alignn p d a b => Sys2Proof.Machine.execAlignn p d a b s
  | .addi p d a imm => Sys2Proof.Machine.execAddi p d a imm s
  | .andi p d a imm => Sys2Proof.Machine.execAndi p d a imm s
  | .ori p d a imm => Sys2Proof.Machine.execOri p d a imm s
  | .xori p d a imm => Sys2Proof.Machine.execXori p d a imm s
  | .shli p d a imm => Sys2Proof.Machine.execShli p d a imm s
  | .shri p d a imm => Sys2Proof.Machine.execShri p d a imm s
  | .srai p d a imm => Sys2Proof.Machine.execSrai p d a imm s
  | .ceqi p d a imm => Sys2Proof.Machine.execCeqi p d a imm s
  | .clti p d a imm => Sys2Proof.Machine.execClti p d a imm s
  | .cltni p d a imm => Sys2Proof.Machine.execCltni p d a imm s
  | .ldB p d a imm => Sys2Proof.Machine.execLdB p d a imm s
  | .ldBn p d a imm => Sys2Proof.Machine.execLdBn p d a imm s
  | .ldH p d a imm => Sys2Proof.Machine.execLdH p d a imm s
  | .ldHn p d a imm => Sys2Proof.Machine.execLdHn p d a imm s
  | .ldW p d a imm => Sys2Proof.Machine.execLdW p d a imm s
  | .ldWn p d a imm => Sys2Proof.Machine.execLdWn p d a imm s
  | .ldD p d a imm => Sys2Proof.Machine.execLdD p d a imm s
  | .stB p d a imm => Sys2Proof.Machine.execStB p d a imm s
  | .stH p d a imm => Sys2Proof.Machine.execStH p d a imm s
  | .stW p d a imm => Sys2Proof.Machine.execStW p d a imm s
  | .stD p d a imm => Sys2Proof.Machine.execStD p d a imm s
  | .ldxD p d a b => Sys2Proof.Machine.execLdxD p d a b s
  | .stxD p d a b => Sys2Proof.Machine.execStxD p d a b s
  | .ldxW p d a b => Sys2Proof.Machine.execLdxW p d a b s
  | .stxW p d a b => Sys2Proof.Machine.execStxW p d a b s
  | .ldNa p d a => Sys2Proof.Machine.execLdNa p d a s
  | .stNa p d a => Sys2Proof.Machine.execStNa p d a s
  | .pref p a => Sys2Proof.Machine.execPref p a s
  | .clean p a => Sys2Proof.Machine.execClean p a s
  | .flush p a => Sys2Proof.Machine.execFlush p a s
  | .ldAcqCore p d a => Sys2Proof.Machine.execLdAcqCore p d a s
  | .ldAcqDie p d a => Sys2Proof.Machine.execLdAcqDie p d a s
  | .ldAcqPkg p d a => Sys2Proof.Machine.execLdAcqPkg p d a s
  | .ldAcqSys p d a => Sys2Proof.Machine.execLdAcqSys p d a s
  | .stRelCore p d a => Sys2Proof.Machine.execStRelCore p d a s
  | .stRelDie p d a => Sys2Proof.Machine.execStRelDie p d a s
  | .stRelPkg p d a => Sys2Proof.Machine.execStRelPkg p d a s
  | .stRelSys p d a => Sys2Proof.Machine.execStRelSys p d a s
  | .fenceCore p => Sys2Proof.Machine.execFenceCore p s
  | .fenceDie p => Sys2Proof.Machine.execFenceDie p s
  | .fencePkg p => Sys2Proof.Machine.execFencePkg p s
  | .fenceSys p => Sys2Proof.Machine.execFenceSys p s
  | .amoadd p d a b => Sys2Proof.Machine.execAmoadd p d a b s
  | .amoand p d a b => Sys2Proof.Machine.execAmoand p d a b s
  | .amoor p d a b => Sys2Proof.Machine.execAmoor p d a b s
  | .amoxor p d a b => Sys2Proof.Machine.execAmoxor p d a b s
  | .amomin p d a b => Sys2Proof.Machine.execAmomin p d a b s
  | .amomax p d a b => Sys2Proof.Machine.execAmomax p d a b s
  | .amominn p d a b => Sys2Proof.Machine.execAmominn p d a b s
  | .amomaxn p d a b => Sys2Proof.Machine.execAmomaxn p d a b s
  | .amoswap p d a b => Sys2Proof.Machine.execAmoswap p d a b s
  | .amocas p d a b => Sys2Proof.Machine.execAmocas p d a b s
  | .amoaddW p d a b => Sys2Proof.Machine.execAmoaddW p d a b s
  | .amoswapW p d a b => Sys2Proof.Machine.execAmoswapW p d a b s
  | .amocasW p d a b => Sys2Proof.Machine.execAmocasW p d a b s
  | .sfence p d => Sys2Proof.Machine.execSfence p d s
  | .qfence p d => Sys2Proof.Machine.execQfence p d s
  | .barrive p d a => Sys2Proof.Machine.execBarrive p d a s
  | .bwait p d a => Sys2Proof.Machine.execBwait p d a s
  | .wstamp p d a => Sys2Proof.Machine.execWstamp p d a s
  | .rinit p d a b => Sys2Proof.Machine.execRinit p d a b s
  | .rget p d a b => Sys2Proof.Machine.execRget p d a b s
  | .waitc p ld st cp tl => Sys2Proof.Machine.execWaitc p ld st cp tl s
  | .fadd p d a b => Sys2Proof.Machine.execFadd p d a b s
  | .fsub p d a b => Sys2Proof.Machine.execFsub p d a b s
  | .fmul p d a b => Sys2Proof.Machine.execFmul p d a b s
  | .fmin p d a b => Sys2Proof.Machine.execFmin p d a b s
  | .fmax p d a b => Sys2Proof.Machine.execFmax p d a b s
  | .fabs p d a => Sys2Proof.Machine.execFabs p d a s
  | .fneg p d a => Sys2Proof.Machine.execFneg p d a s
  | .fceq p d a b => Sys2Proof.Machine.execFceq p d a b s
  | .fclt p d a b => Sys2Proof.Machine.execFclt p d a b s
  | .fcle p d a b => Sys2Proof.Machine.execFcle p d a b s
  | .fcvti p d a => Sys2Proof.Machine.execFcvti p d a s
  | .fcvtf p d a => Sys2Proof.Machine.execFcvtf p d a s
  | .fxexp p d a => Sys2Proof.Machine.execFxexp p d a s
  | .fscale p d a b => Sys2Proof.Machine.execFscale p d a b s
  | .ffma p d a b => Sys2Proof.Machine.execFfma p d a b s
  | .fclass p d a => Sys2Proof.Machine.execFclass p d a s
  | .fwbf p d a => Sys2Proof.Machine.execFwbf p d a s
  | .bffw p d a => Sys2Proof.Machine.execBffw p d a s
  | .fwh p d a => Sys2Proof.Machine.execFwh p d a s
  | .hfw p d a => Sys2Proof.Machine.execHfw p d a s
  | .fws p d a => Sys2Proof.Machine.execFws p d a s
  | .sfw p d a => Sys2Proof.Machine.execSfw p d a s
  | .fwb8 p d a => Sys2Proof.Machine.execFwb8 p d a s
  | .b8fw p d a => Sys2Proof.Machine.execB8fw p d a s
  | .csrr p d csr => Sys2Proof.Machine.execCsrr p d csr s
  | .csrw p d a csr => Sys2Proof.Machine.execCsrw p d a csr s
  | .csrs p d a csr => Sys2Proof.Machine.execCsrs p d a csr s
  | .csrc p d a csr => Sys2Proof.Machine.execCsrc p d a csr s
  | .rgalloc p d a => Sys2Proof.Machine.execRgalloc p d a s
  | .rgfree p d => Sys2Proof.Machine.execRgfree p d s
  | .cfgld p d a => Sys2Proof.Machine.execCfgld p d a s
  | .cfgwr p d a => Sys2Proof.Machine.execCfgwr p d a s
  | .cfgsw p d => Sys2Proof.Machine.execCfgsw p d s
  | .cfgdrop p d => Sys2Proof.Machine.execCfgdrop p d s
  | .cfgst p d a => Sys2Proof.Machine.execCfgst p d a s
  | .rgstart p d a b => Sys2Proof.Machine.execRgstart p d a b s
  | .rgstop p d => Sys2Proof.Machine.execRgstop p d s
  | .rgsave p d a => Sys2Proof.Machine.execRgsave p d a s
  | .rgload p d a => Sys2Proof.Machine.execRgload p d a s
  | .marker p d => Sys2Proof.Machine.execMarker p d s
  | .tenq p d a => Sys2Proof.Machine.execTenq p d a s
  | .cfgwrI p d imm => Sys2Proof.Machine.execCfgwrI p d imm s
  | .sbind p d a => Sys2Proof.Machine.execSbind p d a s
  | .sunbind p d => Sys2Proof.Machine.execSunbind p d s
  | .sstat p d a => Sys2Proof.Machine.execSstat p d a s
  | .spush p d a => Sys2Proof.Machine.execSpush p d a s
  | .spop p d a => Sys2Proof.Machine.execSpop p d a s
  | .seos p d => Sys2Proof.Machine.execSeos p d s
  | .sctl p d a => Sys2Proof.Machine.execSctl p d a s
  | .chainset p d a => Sys2Proof.Machine.execChainset p d a s
  | .chainst p d a => Sys2Proof.Machine.execChainst p d a s
  | .oclaim p d a => Sys2Proof.Machine.execOclaim p d a s
  | .orel p d => Sys2Proof.Machine.execOrel p d s
  | .odesc p d a => Sys2Proof.Machine.execOdesc p d a s
  | .mzero p d a => Sys2Proof.Machine.execMzero p d a s
  | .mtile p d a b => Sys2Proof.Machine.execMtile p d a b s
  | .mtilet p d a b => Sys2Proof.Machine.execMtilet p d a b s
  | .mrec p d a b => Sys2Proof.Machine.execMrec p d a b s
  | .mread p d a b => Sys2Proof.Machine.execMread p d a b s
  | .cpy p d a => Sys2Proof.Machine.execCpy p d a s
  | .cpym p d a b => Sys2Proof.Machine.execCpym p d a b s
  | .cpwp p d a => Sys2Proof.Machine.execCpwp p d a s
  | .cpcancel p d => Sys2Proof.Machine.execCpcancel p d s
  | .selcfg p d => Sys2Proof.Machine.execSelcfg p d s
  | .selput p d a => Sys2Proof.Machine.execSelput p d a s
  | .seldrain p d => Sys2Proof.Machine.execSeldrain p d s
  | .selhist p d a => Sys2Proof.Machine.execSelhist p d a s
  | .selarm p d a => Sys2Proof.Machine.execSelarm p d a s
  | .topk p d a => Sys2Proof.Machine.execTopk p d a s
  | .hwopen p d a => Sys2Proof.Machine.execHwopen p d a s
  | .hwfeed p d a b => Sys2Proof.Machine.execHwfeed p d a b s
  | .hwpic p d a b => Sys2Proof.Machine.execHwpic p d a b s
  | .hwclose p d a => Sys2Proof.Machine.execHwclose p d a s
  | .hwstat p d a => Sys2Proof.Machine.execHwstat p d a s
  | .li p d imm => Sys2Proof.Machine.execLi p d imm s
  | .lih p d imm => Sys2Proof.Machine.execLih p d imm s
  | .addiL p d a imm => Sys2Proof.Machine.execAddiL p d a imm s
  | .ldL p d a imm => Sys2Proof.Machine.execLdL p d a imm s
  | .stL p d a imm => Sys2Proof.Machine.execStL p d a imm s
  | .br p off => Sys2Proof.Machine.execBr p off s
  | .call p off => Sys2Proof.Machine.execCall p off s
  | .jmp p d => Sys2Proof.Machine.execJmp p d s
  | .callx p d => Sys2Proof.Machine.execCallx p d s
  | .ret p => Sys2Proof.Machine.execRet p s
  | .tbr p d a => Sys2Proof.Machine.execTbr p d a s
  | .bdec p d off => Sys2Proof.Machine.execBdec p d off s
  | .eventEntry t => Sys2Proof.Machine.execEventEntry t s
  | .waitSatisfied t => Sys2Proof.Machine.execWaitSatisfied t s
  | .iadd e h => Sys2Proof.Machine.execIadd e h s
  | .isub e h => Sys2Proof.Machine.execIsub e h s
  | .imul e h => Sys2Proof.Machine.execImul e h s
  | .imulh e h => Sys2Proof.Machine.execImulh e h s
  | .iand e h => Sys2Proof.Machine.execIand e h s
  | .ior e h => Sys2Proof.Machine.execIor e h s
  | .ixor e h => Sys2Proof.Machine.execIxor e h s
  | .ishl e h => Sys2Proof.Machine.execIshl e h s
  | .ishr e h => Sys2Proof.Machine.execIshr e h s
  | .isra e h => Sys2Proof.Machine.execIsra e h s
  | .imin e h => Sys2Proof.Machine.execImin e h s
  | .imax e h => Sys2Proof.Machine.execImax e h s
  | .iminn e h => Sys2Proof.Machine.execIminn e h s
  | .imaxn e h => Sys2Proof.Machine.execImaxn e h s
  | .iabs e h => Sys2Proof.Machine.execIabs e h s
  | .iaddsat e h => Sys2Proof.Machine.execIaddsat e h s
  | .iclamp e h => Sys2Proof.Machine.execIclamp e h s
  | .iceq e h => Sys2Proof.Machine.execIceq e h s
  | .iclt e h => Sys2Proof.Machine.execIclt e h s
  | .icltn e h => Sys2Proof.Machine.execIcltn e h s
  | .fabricFadd e h => Sys2Proof.Machine.execFabricFadd e h s
  | .fabricFsub e h => Sys2Proof.Machine.execFabricFsub e h s
  | .fabricFmul e h => Sys2Proof.Machine.execFabricFmul e h s
  | .fabricFfma e h => Sys2Proof.Machine.execFabricFfma e h s
  | .fabricFmin e h => Sys2Proof.Machine.execFabricFmin e h s
  | .fabricFmax e h => Sys2Proof.Machine.execFabricFmax e h s
  | .fabricFabs e h => Sys2Proof.Machine.execFabricFabs e h s
  | .fabricFneg e h => Sys2Proof.Machine.execFabricFneg e h s
  | .fabricFceq e h => Sys2Proof.Machine.execFabricFceq e h s
  | .fabricFclt e h => Sys2Proof.Machine.execFabricFclt e h s
  | .frcp e h => Sys2Proof.Machine.execFrcp e h s
  | .frsq e h => Sys2Proof.Machine.execFrsq e h s
  | .fexp2 e h => Sys2Proof.Machine.execFexp2 e h s
  | .flog2 e h => Sys2Proof.Machine.execFlog2 e h s
  | .fabricFscale e h => Sys2Proof.Machine.execFabricFscale e h s
  | .fabricFxexp e h => Sys2Proof.Machine.execFabricFxexp e h s
  | .fabricFcvti e h => Sys2Proof.Machine.execFabricFcvti e h s
  | .fabricFcvtf e h => Sys2Proof.Machine.execFabricFcvtf e h s
  | .fabricMov e h => Sys2Proof.Machine.execFabricMov e h s
  | .fabricSel e h => Sys2Proof.Machine.execFabricSel e h s
  | .steer e h => Sys2Proof.Machine.execSteer e h s
  | .merge e h => Sys2Proof.Machine.execMerge e h s
  | .carry e h => Sys2Proof.Machine.execCarry e h s
  | .inv e h => Sys2Proof.Machine.execInv e h s
  | .gate e h => Sys2Proof.Machine.execGate e h s
  | .filt e h => Sys2Proof.Machine.execFilt e h s
  | .dup e h => Sys2Proof.Machine.execDup e h s
  | .drop e h => Sys2Proof.Machine.execDrop e h s
  | .cntr e h => Sys2Proof.Machine.execCntr e h s
  | .sink e h => Sys2Proof.Machine.execSink e h s
  | .accg e h => Sys2Proof.Machine.execAccg e h s
  | .maxg e h => Sys2Proof.Machine.execMaxg e h s
  | .argmx e h => Sys2Proof.Machine.execArgmx e h s
  | .cntg e h => Sys2Proof.Machine.execCntg e h s
  | .hdrw e h => Sys2Proof.Machine.execHdrw e h s
  | .scal e h => Sys2Proof.Machine.execScal e h s
  | .grpc e h => Sys2Proof.Machine.execGrpc e h s
  | .ldst e h => Sys2Proof.Machine.execLdst e h s
  | .stst e h => Sys2Proof.Machine.execStst e h s
  | .ldg e h => Sys2Proof.Machine.execLdg e h s
  | .stg e h => Sys2Proof.Machine.execStg e h s
  | .amo e h => Sys2Proof.Machine.execAmo e h s
  | .chld e h => Sys2Proof.Machine.execChld e h s
  | .chst e h => Sys2Proof.Machine.execChst e h s
  | .chadd e h => Sys2Proof.Machine.execChadd e h s
  | .btwalk e h => Sys2Proof.Machine.execBtwalk e h s
  | .cfrd e h => Sys2Proof.Machine.execCfrd e h s
  | .selin e h => Sys2Proof.Machine.execSelin e h s
  | .warp e h => Sys2Proof.Machine.execWarp e h s
  | .drift e h => Sys2Proof.Machine.execDrift e h s
  | .mvcell e h => Sys2Proof.Machine.execMvcell e h s
  | .rfq e h => Sys2Proof.Machine.execRfq e h s
  | .edgeAccessComplete e j => Sys2Proof.Machine.execEdgeAccessComplete e j s
  | .headerLatch e q h => Sys2Proof.Machine.execHeaderLatch e q h s
  | .tokenSend e src => Sys2Proof.Machine.execTokenSend e src s
  | .rollback r => Sys2Proof.Machine.execRollback r s
  | .watchdog r => Sys2Proof.Machine.execWatchdog r s
  | .snapshotRecord e => Sys2Proof.Machine.execSnapshotRecord e s
  | .cutComplete r => Sys2Proof.Machine.execCutComplete r s
  | .loadBegin r => Sys2Proof.Machine.execLoadBegin r s
  | .loadCommand r => Sys2Proof.Machine.execLoadCommand r s
  | .seal r => Sys2Proof.Machine.execSeal r s
  | .flip e => Sys2Proof.Machine.execFlip e s
  | .elementClockGate e => Sys2Proof.Machine.execElementClockGate e s
  | .elementWake e => Sys2Proof.Machine.execElementWake e s
  | .sectorWake c x => Sys2Proof.Machine.execSectorWake c x s
  | .regionCompletion r => Sys2Proof.Machine.execRegionCompletion r s
  | .taskInsertion d => Sys2Proof.Machine.execTaskInsertion d s
  | .dependencePoll d => Sys2Proof.Machine.execDependencePoll d s
  | .taskBinding d => Sys2Proof.Machine.execTaskBinding d s
  | .periodStart => Sys2Proof.Machine.execPeriodStart s
  | .stopRequest d tag => Sys2Proof.Machine.execStopRequest d tag s
  | .forcePoint d tag => Sys2Proof.Machine.execForcePoint d tag s
  | .regionFreeze r => Sys2Proof.Machine.execRegionFreeze r s
  | .contextSave r => Sys2Proof.Machine.execContextSave r s
  | .taskRestore d tag => Sys2Proof.Machine.execTaskRestore d tag s
  | .pictureComplete n => Sys2Proof.Machine.execPictureComplete n s
  | .abortClose n => Sys2Proof.Machine.execAbortClose n s
  | .chunkConsumed n => Sys2Proof.Machine.execChunkConsumed n s
  | .copyBegin k n => Sys2Proof.Machine.execCopyBegin k n s
  | .copyCompletionPoint k => Sys2Proof.Machine.execCopyCompletionPoint k s
  | .matrixCommandStart c => Sys2Proof.Machine.execMatrixCommandStart c s
  | .matrixCommandComplete c => Sys2Proof.Machine.execMatrixCommandComplete c s
  | .slotRelease k => Sys2Proof.Machine.execSlotRelease k s
  | .slotCleared k => Sys2Proof.Machine.execSlotCleared k s
  | .sluiceAccept c => Sys2Proof.Machine.execSluiceAccept c s
  | .sluiceDrain c => Sys2Proof.Machine.execSluiceDrain c s
  | .chainAccept e j => Sys2Proof.Machine.execChainAccept e j s
  | .chainPerform k => Sys2Proof.Machine.execChainPerform k s
  | .chainGap k => Sys2Proof.Machine.execChainGap k s
  | .chainOverflow u => Sys2Proof.Machine.execChainOverflow u s
  | .memoryNodeFault agt k => Sys2Proof.Machine.execMemoryNodeFault agt k s
  | .storeErrorResponse t j => Sys2Proof.Machine.execStoreErrorResponse t j s
  | .hotBitClear line => Sys2Proof.Machine.execHotBitClear line s
  | .slotTableRound d pc => Sys2Proof.Machine.execSlotTableRound d pc s
  | .hostMemAccess wr off n v => Sys2Proof.Machine.execHostMemAccess wr off n v s
  | .hostSnoop d line => Sys2Proof.Machine.execHostSnoop d line s
  | .tinvc d v => Sys2Proof.Machine.execTinvc d v s
  | .invalidationComplete d => Sys2Proof.Machine.execInvalidationComplete d s
  | .tail q v => Sys2Proof.Machine.execTail q v s
  | .qen q on => Sys2Proof.Machine.execQen q on s
  | .launchRecordOffer q => Sys2Proof.Machine.execLaunchRecordOffer q s
  | .interruptRegister t v => Sys2Proof.Machine.execInterruptRegister t v s
  | .registerWrite pa n v => Sys2Proof.Machine.execRegisterWrite pa n v s
  | .pbrIdAssign i0 i1 i2 i3 => Sys2Proof.Machine.execPbrIdAssign i0 i1 i2 i3 s
  | .attest nonce => Sys2Proof.Machine.execAttest nonce s
  | .dbgopen lvl asid tok => Sys2Proof.Machine.execDbgopen lvl asid tok s
  | .dbgclose => Sys2Proof.Machine.execDbgclose s
  | .fence u => Sys2Proof.Machine.execFence u s
  | .unfence u => Sys2Proof.Machine.execUnfence u s
  | .image pa => Sys2Proof.Machine.execImage pa s
  | .record pa => Sys2Proof.Machine.execRecord pa s
  | .dhold t => Sys2Proof.Machine.execDhold t s
  | .dstep t => Sys2Proof.Machine.execDstep t s
  | .drun t => Sys2Proof.Machine.execDrun t s
  | .dread a0 a1 => Sys2Proof.Machine.execDread a0 a1 s
  | .powerOn => Sys2Proof.Machine.execPowerOn s
  | .coreOff c => Sys2Proof.Machine.execCoreOff c s
  | .coreWake c => Sys2Proof.Machine.execCoreWake c s
  | .dieRetention d => Sys2Proof.Machine.execDieRetention d s
  | .dieWake d => Sys2Proof.Machine.execDieWake d s
  | .debugWakeExpiry c => Sys2Proof.Machine.execDebugWakeExpiry c s
  | .illegalBlock t => Sys2Proof.Machine.execIllegalBlock t s
  | .illegalInstruction t => Sys2Proof.Machine.execIllegalInstruction t s
  | .drainTimeExpiry d tag => Sys2Proof.Machine.execDrainTimeExpiry d tag s
  | .sectorPowerOff c x => Sys2Proof.Machine.execSectorPowerOff c x s
  | .junctionTemperature hot => Sys2Proof.Machine.execJunctionTemperature hot s

end Sys2Proof.Machine
end

