-- ==== Sys2Proof/Machine/Step.lean ====
section
/-! DEFINITION. One step of the device: a word of the block in hand, a step of another agent, or the next block of a
thread. -/

namespace Sys2Proof.Machine

/-- End a block whose last word has run without an exit: it commits, or what holds the commit holds it (R132, R141, R168, R212).
DEDUCED: log 42. -/
def commitAtEnd (s : State) : State :=
  match s.txn with
  | some x =>
    if x.nwrd < x.idx then
      match blockHeld s with
      | some c => holdBlock s c
      | none => commit s (fallThrough x)
    else s
  | none => s

/-- Run the word in hand, and end the block if it was the last. -/
def runWord (s : State) (x : Txn) : Outcome :=
  match x.instr with
  | .error _ => execIllegalInstruction s.turn s
  | .ok i =>
    match exec i s with
    | .next t => .next (commitAtEnd t)
    | .fault f => .fault f
    | .refused r => .refused r

/-- The thread whose turn it is waits before its block is fetched (R141, R178). -/
def waitUnbegun (s : State) (c : Wait) : State :=
  let w := s.w.setThread s.turn { s.thr with phase := .waiting, wait := some c }
  { s with w := w, turn := nextTurn w s.turn }

/-- Would the fetch of a thread's next block read otherwise once its stores that a fence has come after are performed (R178)?
DEDUCED: log 12. -/
def fetchWaits (w : World) (t : Nat) : Bool :=
  (w.thread t).path.any (·.fenced) && decide ((fetchBlock { w with mem := ownView w t w.mem } t).2 ≠ (fetchBlock w t).2)

/-- Begin the next block of the thread whose turn it is and run its first word; an illegal block takes its trap instead
(R131, R167). -/
def runBlock (s : State) : Outcome :=
  if fetchWaits s.w s.turn then .next (waitUnbegun s .path)
  else match fetchBlock s.w s.turn with
  | (_, .error _) => execIllegalBlock s.turn s
  | (w, .ok b) =>
    if s.w.overrun s.w w then .next (waitUnbegun s .budget)
    else
      let s' := beginBlock s w b
      match s'.txn with
      | some x => runWord s' x
      | none => .next s'

/-- A turn of the thread: passed over after a yield (R217), its oldest event (R259), its next block, or nothing to do.
DESIGN CHOICE: log 6. -/
def threadTurn (s : State) : Outcome :=
  let th := s.thr
  if !threadReady s.w s.turn th then .next { s with turn := nextTurn s.w s.turn }
  else if th.yielded then
    let s := s.setThr { th with yielded := false }
    .next { s with turn := nextTurn s.w s.turn }
  else if !th.events.isEmpty && !th.evm && !th.dheld then execEventEntry s.turn s
  else runBlock s

/-- Between blocks the controllers of the device do what is due. -/
def serve (s : State) : State :=
  match s.txn with
  | some _ => s
  | none => { s with w := finishFences (powerTurn (readTurn (serveStreams (controllers (deliverOwed s.w))))) }

/-- A cycle goes by, for the machine that an open block may be taken back to as well: the fabric has done by its end what it could do in it.
Then the controllers act. DESIGN CHOICE: log 9. -/
def tick (s : State) : State :=
  let go (w : World) : World := passCycle (fabricCycle w)
  serve { s with w := go s.w, txn := s.txn.map fun x => { x with saved := go x.saved } }

/-- The machine as the step of another agent finds it: an error response comes before any other step, or not at all (R196). -/
def settleFor (i : Instr) (w : World) : World :=
  match i with
  | .storeErrorResponse _ _ => w
  | _ => settlePaths w

/-- An outcome with `f` of its next state. -/
def after (f : State → State) : Outcome → Outcome
  | .next t => .next (f t)
  | .fault e => .fault e
  | .refused r => .refused r

/-- One step of the device. While a block is open its words run one after another, and no other agent acts: its effects appear at one
commit (R130). A step of a thread takes a cycle; steps of other agents take none, so that any number of them may fall in one cycle.
A cycle may pass between two blocks without a step of a thread. DESIGN CHOICE: log 5, 10, 94. -/
def step (s : State) : Host.Outcome State Fault Refusal :=
  match s.txn with
  | some x => after tick (runWord s x)
  | none =>
    match s.agenda with
    | .agent i :: rest => if i.wf then after serve (exec i { s with agenda := rest, w := settleFor i s.w }) else .fault .illFormedStep
    | .thread :: rest => after tick (threadTurn { s with agenda := rest, w := settlePaths s.w })
    | .mailbox off n v :: rest => .next (serve { s with agenda := rest, w := mailboxWrite (settlePaths s.w) off n v })
    | .pass :: rest => .next (tick { s with agenda := rest, w := settlePaths s.w })
    | [] => after tick (threadTurn { s with w := settlePaths s.w })

/-- The physical address of the block that `withFetchWord` places: the first line of the core memory of the thread
whose turn it is. -/
def fetchWordBase (s : State) : Nat := coreMemBase + s.core * 2 ^ 22

/-- The state with one instruction placed where the next step fetches: the thread whose turn it is is Running at the
local window's first line, which holds a header and the instruction. DEDUCED: log 4. -/
def State.withFetchWord (s : State) (_nbits w : Nat) : State :=
  let first := BitVec.ofNat 32 w
  let n := if isLong first then 2 else 1
  let m := (List.range 32).foldl (fun m i =>
    setNum m (fetchWordBase s + 4 * i) 4
      (if i = 0 then 0xA5000000 + n else if i = 1 then w % 2 ^ 32 else if i = 2 ∧ n = 2 then w / 2 ^ 32 % 2 ^ 32 else 0)) s.w.mem
  let w' := { s.w with mem := m }
  let th := w'.thread s.turn
  { s with w := w'.setThread s.turn { th with pc := BitVec.ofNat 64 localBase, phase := .running, wait := none, events := [], yielded := false
                                              dheld := false, dstep := false, wakes := 0 }
           txn := none, agenda := [] }

end Sys2Proof.Machine
end

