-- ==== Sys2Proof/Laws/PerInstr.lean ====
section
/-! SUPPORT. Per instruction: the decoder reads back what the encoder writes (R169 to R177). -/

namespace Sys2Proof.Laws.Encoding

open Sys2Proof

/-- For a well-formed instruction with words: the decoder reads the instruction back, whatever word follows a short form, and
the first word says whether an extension word follows (R172). -/
def Statement (i : Instr) : Prop :=
  i.wf = true → ∀ w o, encode i = some (w, o) → (∀ e, decode w (o.getD e) = .ok i) ∧ isLong w = o.isSome

theorem fieldsOf_wordOf (f : Fields) : fieldsOf (wordOf f) = f := by
  obtain ⟨⟨pr, pn⟩, maj, gd, ga, gb, fn⟩ := f
  simp only [fieldsOf, wordOf, Fields.mk.injEq, Pr.mk.injEq]
  refine ⟨⟨?_, ?_⟩, ?_, ?_, ?_, ?_, ?_⟩
  case refine_2 => simp only [BitVec.getLsbD_append, BitVec.getLsbD_ofBool]; simp
  all_goals
    apply BitVec.eq_of_getLsbD_eq; intro i hi
    simp only [BitVec.getLsbD_extractLsb', BitVec.getLsbD_append, BitVec.getLsbD_ofBool, hi, decide_true, Bool.true_and]
    repeat' split
    all_goals first | omega | (congr 1; omega)

theorem low10_fieldsI (p : Pr) (maj gd ga : BitVec 6) (imm : BitVec 10) : (fieldsI p maj gd ga imm).low10 = imm := by
  simp only [Fields.low10, fieldsI]
  exact BitVec.eq_of_getLsbD_eq fun i hi => by
    simp only [BitVec.getLsbD_append, BitVec.getLsbD_extractLsb']
    split
    · simp [*]
    · simp only [show i - 4 < 6 by omega, decide_true, Bool.true_and]; congr 1; omega

theorem low16_fieldsC (p : Pr) (maj gd : BitVec 6) (off : BitVec 16) : (fieldsC p maj gd off).low16 = off := by
  simp only [Fields.low16, fieldsC]
  exact BitVec.eq_of_getLsbD_eq fun i hi => by
    simp only [BitVec.getLsbD_append, BitVec.getLsbD_extractLsb']
    repeat' split
    · simp [*]
    · simp only [show i - 4 < 6 by omega, decide_true, Bool.true_and]; congr 1; omega
    · simp only [show i - 4 - 6 < 6 by omega, decide_true, Bool.true_and]; congr 1; omega

theorem low22_fieldsB (p : Pr) (maj : BitVec 6) (off : BitVec 22) : (fieldsB p maj off).low22 = off := by
  simp only [Fields.low22, fieldsB]
  exact BitVec.eq_of_getLsbD_eq fun i hi => by
    simp only [BitVec.getLsbD_append, BitVec.getLsbD_extractLsb']
    repeat' split
    · simp [*]
    · simp only [show i - 4 < 6 by omega, decide_true, Bool.true_and]; congr 1; omega
    · simp only [show i - 4 - 6 < 6 by omega, decide_true, Bool.true_and]; congr 1; omega
    · simp only [show i - 4 - 6 - 6 < 6 by omega, decide_true, Bool.true_and]; congr 1; omega

theorem high_append (x y : BitVec 5) : (x ++ y).extractLsb' 5 5 = x :=
  BitVec.eq_of_getLsbD_eq fun i hi => by
    simp only [BitVec.getLsbD_extractLsb', BitVec.getLsbD_append, hi, decide_true, Bool.true_and]
    rw [if_neg (by omega)]; congr 1; omega

theorem low_append (x y : BitVec 5) : (x ++ y).extractLsb' 0 5 = y :=
  BitVec.eq_of_getLsbD_eq fun i hi => by
    simp only [BitVec.getLsbD_extractLsb', BitVec.getLsbD_append, hi, decide_true, Bool.true_and]
    rw [if_pos (by omega)]; congr 1; omega

theorem predOf_predField (d : PReg) : predOf (predField d) = .ok d := by
  have h : ∀ d : BitVec 3, predOf (predField d) = .ok d := by decide
  exact h d

theorem bind_pred {β : Type} (d : PReg) (k : PReg → Except Illegal β) : (predOf (predField d)).bind k = k d := by
  rw [predOf_predField]; rfl

theorem long_form {p : Pr} {m d a : BitVec 6} : ((fieldsR p m d a 0 0).low10 == 0) = true := by
  show ((0#6 ++ 0#4 : BitVec 10) == 0) = true
  decide

/-- An instruction with words satisfies the statement when its fields decode to it. -/
theorem of_fields {i : Instr} {f : Fields} {o : Option W32} (h : encodeFields i = some (f, o))
    (hd : i.wf = true → ∀ e, decodeFields f (o.getD e) = .ok i) (hl : isLongMajor f.maj = o.isSome) : Statement i := by
  intro hw w o' he
  simp only [encode, h, Option.map_some, Option.some.injEq, Prod.mk.injEq] at he
  obtain ⟨rfl, rfl⟩ := he
  exact ⟨fun e => by rw [decode, fieldsOf_wordOf]; exact hd hw e, by rw [isLong, fieldsOf_wordOf]; exact hl⟩

/-- A step that no word names satisfies it. -/
theorem of_none {i : Instr} (h : encodeFields i = none) : Statement i := by
  intro _ w o he
  simp [encode, h] at he

theorem nop : ∀ p, Statement (.nop p) := fun _ => of_fields rfl (fun _ _ => rfl) rfl
theorem halt : ∀ p, Statement (.halt p) := fun _ => of_fields rfl (fun _ _ => rfl) rfl
theorem trap : ∀ p code, Statement (.trap p code) := fun _ _ => of_fields rfl (fun _ _ => rfl) rfl
theorem eret : ∀ p, Statement (.eret p) := fun _ => of_fields rfl (fun _ _ => rfl) rfl
theorem ecall : ∀ p code, Statement (.ecall p code) := fun _ _ => of_fields rfl (fun _ _ => rfl) rfl
theorem bkpt : ∀ p code, Statement (.bkpt p code) := fun _ _ => of_fields rfl (fun _ _ => rfl) rfl
theorem yield : ∀ p, Statement (.yield p) := fun _ => of_fields rfl (fun _ _ => rfl) rfl
theorem wfe : ∀ p, Statement (.wfe p) := fun _ => of_fields rfl (fun _ _ => rfl) rfl
theorem sev : ∀ p, Statement (.sev p) := fun _ => of_fields rfl (fun _ _ => rfl) rfl
theorem add : ∀ p d a b, Statement (.add p d a b) := fun _ _ _ _ => of_fields rfl (fun _ _ => rfl) rfl
theorem sub : ∀ p d a b, Statement (.sub p d a b) := fun _ _ _ _ => of_fields rfl (fun _ _ => rfl) rfl
theorem and : ∀ p d a b, Statement (.and p d a b) := fun _ _ _ _ => of_fields rfl (fun _ _ => rfl) rfl
theorem or : ∀ p d a b, Statement (.or p d a b) := fun _ _ _ _ => of_fields rfl (fun _ _ => rfl) rfl
theorem xor : ∀ p d a b, Statement (.xor p d a b) := fun _ _ _ _ => of_fields rfl (fun _ _ => rfl) rfl
theorem andn : ∀ p d a b, Statement (.andn p d a b) := fun _ _ _ _ => of_fields rfl (fun _ _ => rfl) rfl
theorem orn : ∀ p d a b, Statement (.orn p d a b) := fun _ _ _ _ => of_fields rfl (fun _ _ => rfl) rfl
theorem shl : ∀ p d a b, Statement (.shl p d a b) := fun _ _ _ _ => of_fields rfl (fun _ _ => rfl) rfl
theorem shr : ∀ p d a b, Statement (.shr p d a b) := fun _ _ _ _ => of_fields rfl (fun _ _ => rfl) rfl
theorem sra : ∀ p d a b, Statement (.sra p d a b) := fun _ _ _ _ => of_fields rfl (fun _ _ => rfl) rfl
theorem rol : ∀ p d a b, Statement (.rol p d a b) := fun _ _ _ _ => of_fields rfl (fun _ _ => rfl) rfl
theorem ror : ∀ p d a b, Statement (.ror p d a b) := fun _ _ _ _ => of_fields rfl (fun _ _ => rfl) rfl
theorem min : ∀ p d a b, Statement (.min p d a b) := fun _ _ _ _ => of_fields rfl (fun _ _ => rfl) rfl
theorem max : ∀ p d a b, Statement (.max p d a b) := fun _ _ _ _ => of_fields rfl (fun _ _ => rfl) rfl
theorem minn : ∀ p d a b, Statement (.minn p d a b) := fun _ _ _ _ => of_fields rfl (fun _ _ => rfl) rfl
theorem maxn : ∀ p d a b, Statement (.maxn p d a b) := fun _ _ _ _ => of_fields rfl (fun _ _ => rfl) rfl
theorem mul : ∀ p d a b, Statement (.mul p d a b) := fun _ _ _ _ => of_fields rfl (fun _ _ => rfl) rfl
theorem mulh : ∀ p d a b, Statement (.mulh p d a b) := fun _ _ _ _ => of_fields rfl (fun _ _ => rfl) rfl
theorem mulhn : ∀ p d a b, Statement (.mulhn p d a b) := fun _ _ _ _ => of_fields rfl (fun _ _ => rfl) rfl
theorem div : ∀ p d a b, Statement (.div p d a b) := fun _ _ _ _ => of_fields rfl (fun _ _ => rfl) rfl
theorem divn : ∀ p d a b, Statement (.divn p d a b) := fun _ _ _ _ => of_fields rfl (fun _ _ => rfl) rfl
theorem rem : ∀ p d a b, Statement (.rem p d a b) := fun _ _ _ _ => of_fields rfl (fun _ _ => rfl) rfl
theorem remn : ∀ p d a b, Statement (.remn p d a b) := fun _ _ _ _ => of_fields rfl (fun _ _ => rfl) rfl
theorem clz : ∀ p d a, Statement (.clz p d a) := fun _ _ _ => of_fields rfl (fun _ _ => rfl) rfl
theorem ctz : ∀ p d a, Statement (.ctz p d a) := fun _ _ _ => of_fields rfl (fun _ _ => rfl) rfl
theorem popc : ∀ p d a, Statement (.popc p d a) := fun _ _ _ => of_fields rfl (fun _ _ => rfl) rfl
theorem brev : ∀ p d a, Statement (.brev p d a) := fun _ _ _ => of_fields rfl (fun _ _ => rfl) rfl
theorem bswap : ∀ p d a, Statement (.bswap p d a) := fun _ _ _ => of_fields rfl (fun _ _ => rfl) rfl
theorem addW : ∀ p d a b, Statement (.addW p d a b) := fun _ _ _ _ => of_fields rfl (fun _ _ => rfl) rfl
theorem subW : ∀ p d a b, Statement (.subW p d a b) := fun _ _ _ _ => of_fields rfl (fun _ _ => rfl) rfl
theorem mulW : ∀ p d a b, Statement (.mulW p d a b) := fun _ _ _ _ => of_fields rfl (fun _ _ => rfl) rfl
theorem shlW : ∀ p d a b, Statement (.shlW p d a b) := fun _ _ _ _ => of_fields rfl (fun _ _ => rfl) rfl
theorem shrW : ∀ p d a b, Statement (.shrW p d a b) := fun _ _ _ _ => of_fields rfl (fun _ _ => rfl) rfl
theorem sraW : ∀ p d a b, Statement (.sraW p d a b) := fun _ _ _ _ => of_fields rfl (fun _ _ => rfl) rfl
theorem addsat : ∀ p d a b, Statement (.addsat p d a b) := fun _ _ _ _ => of_fields rfl (fun _ _ => rfl) rfl
theorem subsat : ∀ p d a b, Statement (.subsat p d a b) := fun _ _ _ _ => of_fields rfl (fun _ _ => rfl) rfl
theorem sextb : ∀ p d a, Statement (.sextb p d a) := fun _ _ _ => of_fields rfl (fun _ _ => rfl) rfl
theorem sexth : ∀ p d a, Statement (.sexth p d a) := fun _ _ _ => of_fields rfl (fun _ _ => rfl) rfl
theorem sextw : ∀ p d a, Statement (.sextw p d a) := fun _ _ _ => of_fields rfl (fun _ _ => rfl) rfl
theorem zextw : ∀ p d a, Statement (.zextw p d a) := fun _ _ _ => of_fields rfl (fun _ _ => rfl) rfl
theorem ceq : ∀ p d a b, Statement (.ceq p d a b) := fun p d a b => of_fields rfl (fun _ _ => (bind_pred d (fun d => Except.ok (Instr.ceq p d a b)))) rfl
theorem cne : ∀ p d a b, Statement (.cne p d a b) := fun p d a b => of_fields rfl (fun _ _ => (bind_pred d (fun d => Except.ok (Instr.cne p d a b)))) rfl
theorem clt : ∀ p d a b, Statement (.clt p d a b) := fun p d a b => of_fields rfl (fun _ _ => (bind_pred d (fun d => Except.ok (Instr.clt p d a b)))) rfl
theorem cle : ∀ p d a b, Statement (.cle p d a b) := fun p d a b => of_fields rfl (fun _ _ => (bind_pred d (fun d => Except.ok (Instr.cle p d a b)))) rfl
theorem cltn : ∀ p d a b, Statement (.cltn p d a b) := fun p d a b => of_fields rfl (fun _ _ => (bind_pred d (fun d => Except.ok (Instr.cltn p d a b)))) rfl
theorem clen : ∀ p d a b, Statement (.clen p d a b) := fun p d a b => of_fields rfl (fun _ _ => (bind_pred d (fun d => Except.ok (Instr.clen p d a b)))) rfl
theorem cbit : ∀ p d a b, Statement (.cbit p d a b) := fun p d a b => of_fields rfl (fun _ _ => (bind_pred d (fun d => Except.ok (Instr.cbit p d a b)))) rfl
theorem pand : ∀ p d a b, Statement (.pand p d a b) := fun p d a b => of_fields rfl (fun _ _ => (bind_pred d (fun d => (predOf (predField a)).bind fun a => (predOf (predField b)).bind fun b => Except.ok (Instr.pand p d a b))).trans ((bind_pred a (fun a => (predOf (predField b)).bind fun b => Except.ok (Instr.pand p d a b))).trans ((bind_pred b (fun b => Except.ok (Instr.pand p d a b)))))) rfl
theorem por : ∀ p d a b, Statement (.por p d a b) := fun p d a b => of_fields rfl (fun _ _ => (bind_pred d (fun d => (predOf (predField a)).bind fun a => (predOf (predField b)).bind fun b => Except.ok (Instr.por p d a b))).trans ((bind_pred a (fun a => (predOf (predField b)).bind fun b => Except.ok (Instr.por p d a b))).trans ((bind_pred b (fun b => Except.ok (Instr.por p d a b)))))) rfl
theorem pxor : ∀ p d a b, Statement (.pxor p d a b) := fun p d a b => of_fields rfl (fun _ _ => (bind_pred d (fun d => (predOf (predField a)).bind fun a => (predOf (predField b)).bind fun b => Except.ok (Instr.pxor p d a b))).trans ((bind_pred a (fun a => (predOf (predField b)).bind fun b => Except.ok (Instr.pxor p d a b))).trans ((bind_pred b (fun b => Except.ok (Instr.pxor p d a b)))))) rfl
theorem pandn : ∀ p d a b, Statement (.pandn p d a b) := fun p d a b => of_fields rfl (fun _ _ => (bind_pred d (fun d => (predOf (predField a)).bind fun a => (predOf (predField b)).bind fun b => Except.ok (Instr.pandn p d a b))).trans ((bind_pred a (fun a => (predOf (predField b)).bind fun b => Except.ok (Instr.pandn p d a b))).trans ((bind_pred b (fun b => Except.ok (Instr.pandn p d a b)))))) rfl
theorem pnot : ∀ p d a, Statement (.pnot p d a) := fun p d a => of_fields rfl (fun _ _ => (bind_pred d (fun d => (predOf (predField a)).bind fun a => Except.ok (Instr.pnot p d a))).trans ((bind_pred a (fun a => Except.ok (Instr.pnot p d a))))) rfl
theorem p2g : ∀ p d a, Statement (.p2g p d a) := fun p d a => of_fields rfl (fun _ _ => (bind_pred a (fun a => Except.ok (Instr.p2g p d a)))) rfl
theorem g2p : ∀ p d a, Statement (.g2p p d a) := fun p d a => of_fields rfl (fun _ _ => (bind_pred d (fun d => Except.ok (Instr.g2p p d a)))) rfl
theorem mov : ∀ p d a, Statement (.mov p d a) := fun _ _ _ => of_fields rfl (fun _ _ => rfl) rfl
theorem sel : ∀ p d a b, Statement (.sel p d a b) := fun _ _ _ _ => of_fields rfl (fun _ _ => rfl) rfl
theorem lea1 : ∀ p d a b, Statement (.lea1 p d a b) := fun _ _ _ _ => of_fields rfl (fun _ _ => rfl) rfl
theorem lea2 : ∀ p d a b, Statement (.lea2 p d a b) := fun _ _ _ _ => of_fields rfl (fun _ _ => rfl) rfl
theorem lea4 : ∀ p d a b, Statement (.lea4 p d a b) := fun _ _ _ _ => of_fields rfl (fun _ _ => rfl) rfl
theorem lea8 : ∀ p d a b, Statement (.lea8 p d a b) := fun _ _ _ _ => of_fields rfl (fun _ _ => rfl) rfl
theorem lea16 : ∀ p d a b, Statement (.lea16 p d a b) := fun _ _ _ _ => of_fields rfl (fun _ _ => rfl) rfl
theorem alignd : ∀ p d a b, Statement (.alignd p d a b) := fun _ _ _ _ => of_fields rfl (fun _ _ => rfl) rfl
theorem alignn : ∀ p d a b, Statement (.alignn p d a b) := fun _ _ _ _ => of_fields rfl (fun _ _ => rfl) rfl
theorem addi : ∀ p d a imm, Statement (.addi p d a imm) := fun p d a imm => of_fields rfl (fun _ _ => by
  show ((.ok (Instr.addi (fieldsI p 0x06 d a imm).p (fieldsI p 0x06 d a imm).gd (fieldsI p 0x06 d a imm).ga (fieldsI p 0x06 d a imm).low10) : Except Illegal Instr)) = _
  rw [low10_fieldsI]; rfl) rfl
theorem andi : ∀ p d a imm, Statement (.andi p d a imm) := fun p d a imm => of_fields rfl (fun _ _ => by
  show ((.ok (Instr.andi (fieldsI p 0x07 d a imm).p (fieldsI p 0x07 d a imm).gd (fieldsI p 0x07 d a imm).ga (fieldsI p 0x07 d a imm).low10) : Except Illegal Instr)) = _
  rw [low10_fieldsI]; rfl) rfl
theorem ori : ∀ p d a imm, Statement (.ori p d a imm) := fun p d a imm => of_fields rfl (fun _ _ => by
  show ((.ok (Instr.ori (fieldsI p 0x08 d a imm).p (fieldsI p 0x08 d a imm).gd (fieldsI p 0x08 d a imm).ga (fieldsI p 0x08 d a imm).low10) : Except Illegal Instr)) = _
  rw [low10_fieldsI]; rfl) rfl
theorem xori : ∀ p d a imm, Statement (.xori p d a imm) := fun p d a imm => of_fields rfl (fun _ _ => by
  show ((.ok (Instr.xori (fieldsI p 0x09 d a imm).p (fieldsI p 0x09 d a imm).gd (fieldsI p 0x09 d a imm).ga (fieldsI p 0x09 d a imm).low10) : Except Illegal Instr)) = _
  rw [low10_fieldsI]; rfl) rfl
theorem shli : ∀ p d a imm, Statement (.shli p d a imm) := fun p d a imm => of_fields rfl (fun _ _ => by
  show ((.ok (Instr.shli (fieldsI p 0x0A d a imm).p (fieldsI p 0x0A d a imm).gd (fieldsI p 0x0A d a imm).ga (fieldsI p 0x0A d a imm).low10) : Except Illegal Instr)) = _
  rw [low10_fieldsI]; rfl) rfl
theorem shri : ∀ p d a imm, Statement (.shri p d a imm) := fun p d a imm => of_fields rfl (fun _ _ => by
  show ((.ok (Instr.shri (fieldsI p 0x0B d a imm).p (fieldsI p 0x0B d a imm).gd (fieldsI p 0x0B d a imm).ga (fieldsI p 0x0B d a imm).low10) : Except Illegal Instr)) = _
  rw [low10_fieldsI]; rfl) rfl
theorem srai : ∀ p d a imm, Statement (.srai p d a imm) := fun p d a imm => of_fields rfl (fun _ _ => by
  show ((.ok (Instr.srai (fieldsI p 0x0C d a imm).p (fieldsI p 0x0C d a imm).gd (fieldsI p 0x0C d a imm).ga (fieldsI p 0x0C d a imm).low10) : Except Illegal Instr)) = _
  rw [low10_fieldsI]; rfl) rfl
theorem ceqi : ∀ p d a imm, Statement (.ceqi p d a imm) := fun p d a imm => of_fields rfl (fun _ _ => ((bind_pred d (fun d => Except.ok (Instr.ceqi p d a (fieldsI p 0 0 0 imm).low10)))).trans (by rw [low10_fieldsI])) rfl
theorem clti : ∀ p d a imm, Statement (.clti p d a imm) := fun p d a imm => of_fields rfl (fun _ _ => ((bind_pred d (fun d => Except.ok (Instr.clti p d a (fieldsI p 0 0 0 imm).low10)))).trans (by rw [low10_fieldsI])) rfl
theorem cltni : ∀ p d a imm, Statement (.cltni p d a imm) := fun p d a imm => of_fields rfl (fun _ _ => ((bind_pred d (fun d => Except.ok (Instr.cltni p d a (fieldsI p 0 0 0 imm).low10)))).trans (by rw [low10_fieldsI])) rfl
theorem ldB : ∀ p d a imm, Statement (.ldB p d a imm) := fun p d a imm => of_fields rfl (fun _ _ => by
  show ((.ok (Instr.ldB (fieldsI p 0x10 d a imm).p (fieldsI p 0x10 d a imm).gd (fieldsI p 0x10 d a imm).ga (fieldsI p 0x10 d a imm).low10) : Except Illegal Instr)) = _
  rw [low10_fieldsI]; rfl) rfl
theorem ldBn : ∀ p d a imm, Statement (.ldBn p d a imm) := fun p d a imm => of_fields rfl (fun _ _ => by
  show ((.ok (Instr.ldBn (fieldsI p 0x11 d a imm).p (fieldsI p 0x11 d a imm).gd (fieldsI p 0x11 d a imm).ga (fieldsI p 0x11 d a imm).low10) : Except Illegal Instr)) = _
  rw [low10_fieldsI]; rfl) rfl
theorem ldH : ∀ p d a imm, Statement (.ldH p d a imm) := fun p d a imm => of_fields rfl (fun _ _ => by
  show ((.ok (Instr.ldH (fieldsI p 0x12 d a imm).p (fieldsI p 0x12 d a imm).gd (fieldsI p 0x12 d a imm).ga (fieldsI p 0x12 d a imm).low10) : Except Illegal Instr)) = _
  rw [low10_fieldsI]; rfl) rfl
theorem ldHn : ∀ p d a imm, Statement (.ldHn p d a imm) := fun p d a imm => of_fields rfl (fun _ _ => by
  show ((.ok (Instr.ldHn (fieldsI p 0x13 d a imm).p (fieldsI p 0x13 d a imm).gd (fieldsI p 0x13 d a imm).ga (fieldsI p 0x13 d a imm).low10) : Except Illegal Instr)) = _
  rw [low10_fieldsI]; rfl) rfl
theorem ldW : ∀ p d a imm, Statement (.ldW p d a imm) := fun p d a imm => of_fields rfl (fun _ _ => by
  show ((.ok (Instr.ldW (fieldsI p 0x14 d a imm).p (fieldsI p 0x14 d a imm).gd (fieldsI p 0x14 d a imm).ga (fieldsI p 0x14 d a imm).low10) : Except Illegal Instr)) = _
  rw [low10_fieldsI]; rfl) rfl
theorem ldWn : ∀ p d a imm, Statement (.ldWn p d a imm) := fun p d a imm => of_fields rfl (fun _ _ => by
  show ((.ok (Instr.ldWn (fieldsI p 0x15 d a imm).p (fieldsI p 0x15 d a imm).gd (fieldsI p 0x15 d a imm).ga (fieldsI p 0x15 d a imm).low10) : Except Illegal Instr)) = _
  rw [low10_fieldsI]; rfl) rfl
theorem ldD : ∀ p d a imm, Statement (.ldD p d a imm) := fun p d a imm => of_fields rfl (fun _ _ => by
  show ((.ok (Instr.ldD (fieldsI p 0x16 d a imm).p (fieldsI p 0x16 d a imm).gd (fieldsI p 0x16 d a imm).ga (fieldsI p 0x16 d a imm).low10) : Except Illegal Instr)) = _
  rw [low10_fieldsI]; rfl) rfl
theorem stB : ∀ p d a imm, Statement (.stB p d a imm) := fun p d a imm => of_fields rfl (fun _ _ => by
  show ((.ok (Instr.stB (fieldsI p 0x17 d a imm).p (fieldsI p 0x17 d a imm).gd (fieldsI p 0x17 d a imm).ga (fieldsI p 0x17 d a imm).low10) : Except Illegal Instr)) = _
  rw [low10_fieldsI]; rfl) rfl
theorem stH : ∀ p d a imm, Statement (.stH p d a imm) := fun p d a imm => of_fields rfl (fun _ _ => by
  show ((.ok (Instr.stH (fieldsI p 0x18 d a imm).p (fieldsI p 0x18 d a imm).gd (fieldsI p 0x18 d a imm).ga (fieldsI p 0x18 d a imm).low10) : Except Illegal Instr)) = _
  rw [low10_fieldsI]; rfl) rfl
theorem stW : ∀ p d a imm, Statement (.stW p d a imm) := fun p d a imm => of_fields rfl (fun _ _ => by
  show ((.ok (Instr.stW (fieldsI p 0x19 d a imm).p (fieldsI p 0x19 d a imm).gd (fieldsI p 0x19 d a imm).ga (fieldsI p 0x19 d a imm).low10) : Except Illegal Instr)) = _
  rw [low10_fieldsI]; rfl) rfl
theorem stD : ∀ p d a imm, Statement (.stD p d a imm) := fun p d a imm => of_fields rfl (fun _ _ => by
  show ((.ok (Instr.stD (fieldsI p 0x1A d a imm).p (fieldsI p 0x1A d a imm).gd (fieldsI p 0x1A d a imm).ga (fieldsI p 0x1A d a imm).low10) : Except Illegal Instr)) = _
  rw [low10_fieldsI]; rfl) rfl
theorem ldxD : ∀ p d a b, Statement (.ldxD p d a b) := fun _ _ _ _ => of_fields rfl (fun _ _ => rfl) rfl
theorem stxD : ∀ p d a b, Statement (.stxD p d a b) := fun _ _ _ _ => of_fields rfl (fun _ _ => rfl) rfl
theorem ldxW : ∀ p d a b, Statement (.ldxW p d a b) := fun _ _ _ _ => of_fields rfl (fun _ _ => rfl) rfl
theorem stxW : ∀ p d a b, Statement (.stxW p d a b) := fun _ _ _ _ => of_fields rfl (fun _ _ => rfl) rfl
theorem ldNa : ∀ p d a, Statement (.ldNa p d a) := fun _ _ _ => of_fields rfl (fun _ _ => rfl) rfl
theorem stNa : ∀ p d a, Statement (.stNa p d a) := fun _ _ _ => of_fields rfl (fun _ _ => rfl) rfl
theorem pref : ∀ p a, Statement (.pref p a) := fun _ _ => of_fields rfl (fun _ _ => rfl) rfl
theorem clean : ∀ p a, Statement (.clean p a) := fun _ _ => of_fields rfl (fun _ _ => rfl) rfl
theorem flush : ∀ p a, Statement (.flush p a) := fun _ _ => of_fields rfl (fun _ _ => rfl) rfl
theorem ldAcqCore : ∀ p d a, Statement (.ldAcqCore p d a) := fun _ _ _ => of_fields rfl (fun _ _ => rfl) rfl
theorem ldAcqDie : ∀ p d a, Statement (.ldAcqDie p d a) := fun _ _ _ => of_fields rfl (fun _ _ => rfl) rfl
theorem ldAcqPkg : ∀ p d a, Statement (.ldAcqPkg p d a) := fun _ _ _ => of_fields rfl (fun _ _ => rfl) rfl
theorem ldAcqSys : ∀ p d a, Statement (.ldAcqSys p d a) := fun _ _ _ => of_fields rfl (fun _ _ => rfl) rfl
theorem stRelCore : ∀ p d a, Statement (.stRelCore p d a) := fun _ _ _ => of_fields rfl (fun _ _ => rfl) rfl
theorem stRelDie : ∀ p d a, Statement (.stRelDie p d a) := fun _ _ _ => of_fields rfl (fun _ _ => rfl) rfl
theorem stRelPkg : ∀ p d a, Statement (.stRelPkg p d a) := fun _ _ _ => of_fields rfl (fun _ _ => rfl) rfl
theorem stRelSys : ∀ p d a, Statement (.stRelSys p d a) := fun _ _ _ => of_fields rfl (fun _ _ => rfl) rfl
theorem fenceCore : ∀ p, Statement (.fenceCore p) := fun _ => of_fields rfl (fun _ _ => rfl) rfl
theorem fenceDie : ∀ p, Statement (.fenceDie p) := fun _ => of_fields rfl (fun _ _ => rfl) rfl
theorem fencePkg : ∀ p, Statement (.fencePkg p) := fun _ => of_fields rfl (fun _ _ => rfl) rfl
theorem fenceSys : ∀ p, Statement (.fenceSys p) := fun _ => of_fields rfl (fun _ _ => rfl) rfl
theorem amoadd : ∀ p d a b, Statement (.amoadd p d a b) := fun _ _ _ _ => of_fields rfl (fun _ _ => rfl) rfl
theorem amoand : ∀ p d a b, Statement (.amoand p d a b) := fun _ _ _ _ => of_fields rfl (fun _ _ => rfl) rfl
theorem amoor : ∀ p d a b, Statement (.amoor p d a b) := fun _ _ _ _ => of_fields rfl (fun _ _ => rfl) rfl
theorem amoxor : ∀ p d a b, Statement (.amoxor p d a b) := fun _ _ _ _ => of_fields rfl (fun _ _ => rfl) rfl
theorem amomin : ∀ p d a b, Statement (.amomin p d a b) := fun _ _ _ _ => of_fields rfl (fun _ _ => rfl) rfl
theorem amomax : ∀ p d a b, Statement (.amomax p d a b) := fun _ _ _ _ => of_fields rfl (fun _ _ => rfl) rfl
theorem amominn : ∀ p d a b, Statement (.amominn p d a b) := fun _ _ _ _ => of_fields rfl (fun _ _ => rfl) rfl
theorem amomaxn : ∀ p d a b, Statement (.amomaxn p d a b) := fun _ _ _ _ => of_fields rfl (fun _ _ => rfl) rfl
theorem amoswap : ∀ p d a b, Statement (.amoswap p d a b) := fun _ _ _ _ => of_fields rfl (fun _ _ => rfl) rfl
theorem amocas : ∀ p d a b, Statement (.amocas p d a b) := fun _ _ _ _ => of_fields rfl (fun _ _ => rfl) rfl
theorem amoaddW : ∀ p d a b, Statement (.amoaddW p d a b) := fun _ _ _ _ => of_fields rfl (fun _ _ => rfl) rfl
theorem amoswapW : ∀ p d a b, Statement (.amoswapW p d a b) := fun _ _ _ _ => of_fields rfl (fun _ _ => rfl) rfl
theorem amocasW : ∀ p d a b, Statement (.amocasW p d a b) := fun _ _ _ _ => of_fields rfl (fun _ _ => rfl) rfl
theorem sfence : ∀ p d, Statement (.sfence p d) := fun _ _ => of_fields rfl (fun _ _ => rfl) rfl
theorem qfence : ∀ p d, Statement (.qfence p d) := fun _ _ => of_fields rfl (fun _ _ => rfl) rfl
theorem barrive : ∀ p d a, Statement (.barrive p d a) := fun _ _ _ => of_fields rfl (fun _ _ => rfl) rfl
theorem bwait : ∀ p d a, Statement (.bwait p d a) := fun _ _ _ => of_fields rfl (fun _ _ => rfl) rfl
theorem wstamp : ∀ p d a, Statement (.wstamp p d a) := fun _ _ _ => of_fields rfl (fun _ _ => rfl) rfl
theorem rinit : ∀ p d a b, Statement (.rinit p d a b) := fun _ _ _ _ => of_fields rfl (fun _ _ => rfl) rfl
theorem rget : ∀ p d a b, Statement (.rget p d a b) := fun _ _ _ _ => of_fields rfl (fun _ _ => rfl) rfl
theorem waitc : ∀ p ld st cp tl, Statement (.waitc p ld st cp tl) := fun p ld st cp tl => of_fields rfl (fun _ _ => by
  show Except.ok (Instr.waitc p ld st (((fieldsI p 0x1F ld st (cp ++ tl)).low10).extractLsb' 5 5) (((fieldsI p 0x1F ld st (cp ++ tl)).low10).extractLsb' 0 5)) = _
  rw [low10_fieldsI, high_append, low_append]) rfl
theorem fadd : ∀ p d a b, Statement (.fadd p d a b) := fun _ _ _ _ => of_fields rfl (fun _ _ => rfl) rfl
theorem fsub : ∀ p d a b, Statement (.fsub p d a b) := fun _ _ _ _ => of_fields rfl (fun _ _ => rfl) rfl
theorem fmul : ∀ p d a b, Statement (.fmul p d a b) := fun _ _ _ _ => of_fields rfl (fun _ _ => rfl) rfl
theorem fmin : ∀ p d a b, Statement (.fmin p d a b) := fun _ _ _ _ => of_fields rfl (fun _ _ => rfl) rfl
theorem fmax : ∀ p d a b, Statement (.fmax p d a b) := fun _ _ _ _ => of_fields rfl (fun _ _ => rfl) rfl
theorem fabs : ∀ p d a, Statement (.fabs p d a) := fun _ _ _ => of_fields rfl (fun _ _ => rfl) rfl
theorem fneg : ∀ p d a, Statement (.fneg p d a) := fun _ _ _ => of_fields rfl (fun _ _ => rfl) rfl
theorem fceq : ∀ p d a b, Statement (.fceq p d a b) := fun p d a b => of_fields rfl (fun _ _ => (bind_pred d (fun d => Except.ok (Instr.fceq p d a b)))) rfl
theorem fclt : ∀ p d a b, Statement (.fclt p d a b) := fun p d a b => of_fields rfl (fun _ _ => (bind_pred d (fun d => Except.ok (Instr.fclt p d a b)))) rfl
theorem fcle : ∀ p d a b, Statement (.fcle p d a b) := fun p d a b => of_fields rfl (fun _ _ => (bind_pred d (fun d => Except.ok (Instr.fcle p d a b)))) rfl
theorem fcvti : ∀ p d a, Statement (.fcvti p d a) := fun _ _ _ => of_fields rfl (fun _ _ => rfl) rfl
theorem fcvtf : ∀ p d a, Statement (.fcvtf p d a) := fun _ _ _ => of_fields rfl (fun _ _ => rfl) rfl
theorem fxexp : ∀ p d a, Statement (.fxexp p d a) := fun _ _ _ => of_fields rfl (fun _ _ => rfl) rfl
theorem fscale : ∀ p d a b, Statement (.fscale p d a b) := fun _ _ _ _ => of_fields rfl (fun _ _ => rfl) rfl
theorem ffma : ∀ p d a b, Statement (.ffma p d a b) := fun _ _ _ _ => of_fields rfl (fun _ _ => rfl) rfl
theorem fclass : ∀ p d a, Statement (.fclass p d a) := fun _ _ _ => of_fields rfl (fun _ _ => rfl) rfl
theorem fwbf : ∀ p d a, Statement (.fwbf p d a) := fun _ _ _ => of_fields rfl (fun _ _ => rfl) rfl
theorem bffw : ∀ p d a, Statement (.bffw p d a) := fun _ _ _ => of_fields rfl (fun _ _ => rfl) rfl
theorem fwh : ∀ p d a, Statement (.fwh p d a) := fun _ _ _ => of_fields rfl (fun _ _ => rfl) rfl
theorem hfw : ∀ p d a, Statement (.hfw p d a) := fun _ _ _ => of_fields rfl (fun _ _ => rfl) rfl
theorem fws : ∀ p d a, Statement (.fws p d a) := fun _ _ _ => of_fields rfl (fun _ _ => rfl) rfl
theorem sfw : ∀ p d a, Statement (.sfw p d a) := fun _ _ _ => of_fields rfl (fun _ _ => rfl) rfl
theorem fwb8 : ∀ p d a, Statement (.fwb8 p d a) := fun _ _ _ => of_fields rfl (fun _ _ => rfl) rfl
theorem b8fw : ∀ p d a, Statement (.b8fw p d a) := fun _ _ _ => of_fields rfl (fun _ _ => rfl) rfl
theorem csrr : ∀ p d csr, Statement (.csrr p d csr) := fun p d csr => of_fields rfl (fun hw _ => by
  show ((if (fieldsI p 0x22 d 0 csr).ga == 0 then (if csrAssigned (fieldsI p 0x22 d 0 csr).low10 then Except.ok (Instr.csrr (fieldsI p 0x22 d 0 csr).p (fieldsI p 0x22 d 0 csr).gd (fieldsI p 0x22 d 0 csr).low10) else Except.error Illegal.unassignedCsr) else Except.error Illegal.unfilledField : Except Illegal Instr)) = _
  rw [low10_fieldsI]; exact if_pos hw) rfl
theorem csrw : ∀ p d a csr, Statement (.csrw p d a csr) := fun p d a csr => of_fields rfl (fun hw _ => by
  show ((if csrAssigned (fieldsI p 0x23 d a csr).low10 then Except.ok (Instr.csrw (fieldsI p 0x23 d a csr).p (fieldsI p 0x23 d a csr).gd (fieldsI p 0x23 d a csr).ga (fieldsI p 0x23 d a csr).low10) else Except.error Illegal.unassignedCsr : Except Illegal Instr)) = _
  rw [low10_fieldsI]; exact if_pos hw) rfl
theorem csrs : ∀ p d a csr, Statement (.csrs p d a csr) := fun p d a csr => of_fields rfl (fun hw _ => by
  show ((if csrAssigned (fieldsI p 0x24 d a csr).low10 then Except.ok (Instr.csrs (fieldsI p 0x24 d a csr).p (fieldsI p 0x24 d a csr).gd (fieldsI p 0x24 d a csr).ga (fieldsI p 0x24 d a csr).low10) else Except.error Illegal.unassignedCsr : Except Illegal Instr)) = _
  rw [low10_fieldsI]; exact if_pos hw) rfl
theorem csrc : ∀ p d a csr, Statement (.csrc p d a csr) := fun p d a csr => of_fields rfl (fun hw _ => by
  show ((if csrAssigned (fieldsI p 0x25 d a csr).low10 then Except.ok (Instr.csrc (fieldsI p 0x25 d a csr).p (fieldsI p 0x25 d a csr).gd (fieldsI p 0x25 d a csr).ga (fieldsI p 0x25 d a csr).low10) else Except.error Illegal.unassignedCsr : Except Illegal Instr)) = _
  rw [low10_fieldsI]; exact if_pos hw) rfl
theorem rgalloc : ∀ p d a, Statement (.rgalloc p d a) := fun _ _ _ => of_fields rfl (fun _ _ => rfl) rfl
theorem rgfree : ∀ p d, Statement (.rgfree p d) := fun _ _ => of_fields rfl (fun _ _ => rfl) rfl
theorem cfgld : ∀ p d a, Statement (.cfgld p d a) := fun _ _ _ => of_fields rfl (fun _ _ => rfl) rfl
theorem cfgwr : ∀ p d a, Statement (.cfgwr p d a) := fun _ _ _ => of_fields rfl (fun _ _ => rfl) rfl
theorem cfgsw : ∀ p d, Statement (.cfgsw p d) := fun _ _ => of_fields rfl (fun _ _ => rfl) rfl
theorem cfgdrop : ∀ p d, Statement (.cfgdrop p d) := fun _ _ => of_fields rfl (fun _ _ => rfl) rfl
theorem cfgst : ∀ p d a, Statement (.cfgst p d a) := fun _ _ _ => of_fields rfl (fun _ _ => rfl) rfl
theorem rgstart : ∀ p d a b, Statement (.rgstart p d a b) := fun _ _ _ _ => of_fields rfl (fun _ _ => rfl) rfl
theorem rgstop : ∀ p d, Statement (.rgstop p d) := fun _ _ => of_fields rfl (fun _ _ => rfl) rfl
theorem rgsave : ∀ p d a, Statement (.rgsave p d a) := fun _ _ _ => of_fields rfl (fun _ _ => rfl) rfl
theorem rgload : ∀ p d a, Statement (.rgload p d a) := fun _ _ _ => of_fields rfl (fun _ _ => rfl) rfl
theorem marker : ∀ p d, Statement (.marker p d) := fun _ _ => of_fields rfl (fun _ _ => rfl) rfl
theorem tenq : ∀ p d a, Statement (.tenq p d a) := fun _ _ _ => of_fields rfl (fun _ _ => rfl) rfl
theorem cfgwrI : ∀ p d imm, Statement (.cfgwrI p d imm) := fun p d imm => of_fields rfl (fun _ _ => by
  show ((if (fieldsR p 0x35 d 0 0 0).low10 == 0 then filled ((fieldsR p 0x35 d 0 0 0).ga == 0) (.cfgwrI (fieldsR p 0x35 d 0 0 0).p (fieldsR p 0x35 d 0 0 0).gd imm) else Except.error .longForm : Except Illegal Instr)) = _
  rw [if_pos long_form]; rfl) rfl
theorem sbind : ∀ p d a, Statement (.sbind p d a) := fun _ _ _ => of_fields rfl (fun _ _ => rfl) rfl
theorem sunbind : ∀ p d, Statement (.sunbind p d) := fun _ _ => of_fields rfl (fun _ _ => rfl) rfl
theorem sstat : ∀ p d a, Statement (.sstat p d a) := fun _ _ _ => of_fields rfl (fun _ _ => rfl) rfl
theorem spush : ∀ p d a, Statement (.spush p d a) := fun _ _ _ => of_fields rfl (fun _ _ => rfl) rfl
theorem spop : ∀ p d a, Statement (.spop p d a) := fun _ _ _ => of_fields rfl (fun _ _ => rfl) rfl
theorem seos : ∀ p d, Statement (.seos p d) := fun _ _ => of_fields rfl (fun _ _ => rfl) rfl
theorem sctl : ∀ p d a, Statement (.sctl p d a) := fun _ _ _ => of_fields rfl (fun _ _ => rfl) rfl
theorem chainset : ∀ p d a, Statement (.chainset p d a) := fun _ _ _ => of_fields rfl (fun _ _ => rfl) rfl
theorem chainst : ∀ p d a, Statement (.chainst p d a) := fun _ _ _ => of_fields rfl (fun _ _ => rfl) rfl
theorem oclaim : ∀ p d a, Statement (.oclaim p d a) := fun _ _ _ => of_fields rfl (fun _ _ => rfl) rfl
theorem orel : ∀ p d, Statement (.orel p d) := fun _ _ => of_fields rfl (fun _ _ => rfl) rfl
theorem odesc : ∀ p d a, Statement (.odesc p d a) := fun _ _ _ => of_fields rfl (fun _ _ => rfl) rfl
theorem mzero : ∀ p d a, Statement (.mzero p d a) := fun _ _ _ => of_fields rfl (fun _ _ => rfl) rfl
theorem mtile : ∀ p d a b, Statement (.mtile p d a b) := fun _ _ _ _ => of_fields rfl (fun _ _ => rfl) rfl
theorem mtilet : ∀ p d a b, Statement (.mtilet p d a b) := fun _ _ _ _ => of_fields rfl (fun _ _ => rfl) rfl
theorem mrec : ∀ p d a b, Statement (.mrec p d a b) := fun _ _ _ _ => of_fields rfl (fun _ _ => rfl) rfl
theorem mread : ∀ p d a b, Statement (.mread p d a b) := fun _ _ _ _ => of_fields rfl (fun _ _ => rfl) rfl
theorem cpy : ∀ p d a, Statement (.cpy p d a) := fun _ _ _ => of_fields rfl (fun _ _ => rfl) rfl
theorem cpym : ∀ p d a b, Statement (.cpym p d a b) := fun _ _ _ _ => of_fields rfl (fun _ _ => rfl) rfl
theorem cpwp : ∀ p d a, Statement (.cpwp p d a) := fun _ _ _ => of_fields rfl (fun _ _ => rfl) rfl
theorem cpcancel : ∀ p d, Statement (.cpcancel p d) := fun _ _ => of_fields rfl (fun _ _ => rfl) rfl
theorem selcfg : ∀ p d, Statement (.selcfg p d) := fun _ _ => of_fields rfl (fun _ _ => rfl) rfl
theorem selput : ∀ p d a, Statement (.selput p d a) := fun _ _ _ => of_fields rfl (fun _ _ => rfl) rfl
theorem seldrain : ∀ p d, Statement (.seldrain p d) := fun _ _ => of_fields rfl (fun _ _ => rfl) rfl
theorem selhist : ∀ p d a, Statement (.selhist p d a) := fun _ _ _ => of_fields rfl (fun _ _ => rfl) rfl
theorem selarm : ∀ p d a, Statement (.selarm p d a) := fun _ _ _ => of_fields rfl (fun _ _ => rfl) rfl
theorem topk : ∀ p d a, Statement (.topk p d a) := fun _ _ _ => of_fields rfl (fun _ _ => rfl) rfl
theorem hwopen : ∀ p d a, Statement (.hwopen p d a) := fun _ _ _ => of_fields rfl (fun _ _ => rfl) rfl
theorem hwfeed : ∀ p d a b, Statement (.hwfeed p d a b) := fun _ _ _ _ => of_fields rfl (fun _ _ => rfl) rfl
theorem hwpic : ∀ p d a b, Statement (.hwpic p d a b) := fun _ _ _ _ => of_fields rfl (fun _ _ => rfl) rfl
theorem hwclose : ∀ p d a, Statement (.hwclose p d a) := fun _ _ _ => of_fields rfl (fun _ _ => rfl) rfl
theorem hwstat : ∀ p d a, Statement (.hwstat p d a) := fun _ _ _ => of_fields rfl (fun _ _ => rfl) rfl
theorem li : ∀ p d imm, Statement (.li p d imm) := fun p d imm => of_fields rfl (fun _ _ => by
  show ((if (fieldsR p 0x30 d 0 0 0).low10 == 0 then filled ((fieldsR p 0x30 d 0 0 0).ga == 0) (.li (fieldsR p 0x30 d 0 0 0).p (fieldsR p 0x30 d 0 0 0).gd imm) else Except.error .longForm : Except Illegal Instr)) = _
  rw [if_pos long_form]; rfl) rfl
theorem lih : ∀ p d imm, Statement (.lih p d imm) := fun p d imm => of_fields rfl (fun _ _ => by
  show ((if (fieldsR p 0x31 d 0 0 0).low10 == 0 then filled ((fieldsR p 0x31 d 0 0 0).ga == 0) (.lih (fieldsR p 0x31 d 0 0 0).p (fieldsR p 0x31 d 0 0 0).gd imm) else Except.error .longForm : Except Illegal Instr)) = _
  rw [if_pos long_form]; rfl) rfl
theorem addiL : ∀ p d a imm, Statement (.addiL p d a imm) := fun p d a imm => of_fields rfl (fun _ _ => by
  show ((if (fieldsR p 0x32 d a 0 0).low10 == 0 then Except.ok (.addiL (fieldsR p 0x32 d a 0 0).p (fieldsR p 0x32 d a 0 0).gd (fieldsR p 0x32 d a 0 0).ga imm) else Except.error .longForm : Except Illegal Instr)) = _
  rw [if_pos long_form]; rfl) rfl
theorem ldL : ∀ p d a imm, Statement (.ldL p d a imm) := fun p d a imm => of_fields rfl (fun _ _ => by
  show ((if (fieldsR p 0x33 d a 0 0).low10 == 0 then Except.ok (.ldL (fieldsR p 0x33 d a 0 0).p (fieldsR p 0x33 d a 0 0).gd (fieldsR p 0x33 d a 0 0).ga imm) else Except.error .longForm : Except Illegal Instr)) = _
  rw [if_pos long_form]; rfl) rfl
theorem stL : ∀ p d a imm, Statement (.stL p d a imm) := fun p d a imm => of_fields rfl (fun _ _ => by
  show ((if (fieldsR p 0x34 d a 0 0).low10 == 0 then Except.ok (.stL (fieldsR p 0x34 d a 0 0).p (fieldsR p 0x34 d a 0 0).gd (fieldsR p 0x34 d a 0 0).ga imm) else Except.error .longForm : Except Illegal Instr)) = _
  rw [if_pos long_form]; rfl) rfl
theorem br : ∀ p off, Statement (.br p off) := fun p off => of_fields rfl (fun _ _ => by
  show ((.ok (Instr.br (fieldsB p 0x38 off).p (fieldsB p 0x38 off).low22) : Except Illegal Instr)) = _
  rw [low22_fieldsB]; rfl) rfl
theorem call : ∀ p off, Statement (.call p off) := fun p off => of_fields rfl (fun _ _ => by
  show ((.ok (Instr.call (fieldsB p 0x39 off).p (fieldsB p 0x39 off).low22) : Except Illegal Instr)) = _
  rw [low22_fieldsB]; rfl) rfl
theorem jmp : ∀ p d, Statement (.jmp p d) := fun _ _ => of_fields rfl (fun _ _ => rfl) rfl
theorem callx : ∀ p d, Statement (.callx p d) := fun _ _ => of_fields rfl (fun _ _ => rfl) rfl
theorem ret : ∀ p, Statement (.ret p) := fun _ => of_fields rfl (fun _ _ => rfl) rfl
theorem tbr : ∀ p d a, Statement (.tbr p d a) := fun _ _ _ => of_fields rfl (fun _ _ => rfl) rfl
theorem bdec : ∀ p d off, Statement (.bdec p d off) := fun p d off => of_fields rfl (fun _ _ => by
  show ((.ok (Instr.bdec (fieldsC p 0x3B d off).p (fieldsC p 0x3B d off).gd (fieldsC p 0x3B d off).low16) : Except Illegal Instr)) = _
  rw [low16_fieldsC]; rfl) rfl
theorem eventEntry : ∀ t, Statement (.eventEntry t) := fun _ => of_none rfl
theorem waitSatisfied : ∀ t, Statement (.waitSatisfied t) := fun _ => of_none rfl
theorem iadd : ∀ e h, Statement (.iadd e h) := fun _ _ => of_none rfl
theorem isub : ∀ e h, Statement (.isub e h) := fun _ _ => of_none rfl
theorem imul : ∀ e h, Statement (.imul e h) := fun _ _ => of_none rfl
theorem imulh : ∀ e h, Statement (.imulh e h) := fun _ _ => of_none rfl
theorem iand : ∀ e h, Statement (.iand e h) := fun _ _ => of_none rfl
theorem ior : ∀ e h, Statement (.ior e h) := fun _ _ => of_none rfl
theorem ixor : ∀ e h, Statement (.ixor e h) := fun _ _ => of_none rfl
theorem ishl : ∀ e h, Statement (.ishl e h) := fun _ _ => of_none rfl
theorem ishr : ∀ e h, Statement (.ishr e h) := fun _ _ => of_none rfl
theorem isra : ∀ e h, Statement (.isra e h) := fun _ _ => of_none rfl
theorem imin : ∀ e h, Statement (.imin e h) := fun _ _ => of_none rfl
theorem imax : ∀ e h, Statement (.imax e h) := fun _ _ => of_none rfl
theorem iminn : ∀ e h, Statement (.iminn e h) := fun _ _ => of_none rfl
theorem imaxn : ∀ e h, Statement (.imaxn e h) := fun _ _ => of_none rfl
theorem iabs : ∀ e h, Statement (.iabs e h) := fun _ _ => of_none rfl
theorem iaddsat : ∀ e h, Statement (.iaddsat e h) := fun _ _ => of_none rfl
theorem iclamp : ∀ e h, Statement (.iclamp e h) := fun _ _ => of_none rfl
theorem iceq : ∀ e h, Statement (.iceq e h) := fun _ _ => of_none rfl
theorem iclt : ∀ e h, Statement (.iclt e h) := fun _ _ => of_none rfl
theorem icltn : ∀ e h, Statement (.icltn e h) := fun _ _ => of_none rfl
theorem fabricFadd : ∀ e h, Statement (.fabricFadd e h) := fun _ _ => of_none rfl
theorem fabricFsub : ∀ e h, Statement (.fabricFsub e h) := fun _ _ => of_none rfl
theorem fabricFmul : ∀ e h, Statement (.fabricFmul e h) := fun _ _ => of_none rfl
theorem fabricFfma : ∀ e h, Statement (.fabricFfma e h) := fun _ _ => of_none rfl
theorem fabricFmin : ∀ e h, Statement (.fabricFmin e h) := fun _ _ => of_none rfl
theorem fabricFmax : ∀ e h, Statement (.fabricFmax e h) := fun _ _ => of_none rfl
theorem fabricFabs : ∀ e h, Statement (.fabricFabs e h) := fun _ _ => of_none rfl
theorem fabricFneg : ∀ e h, Statement (.fabricFneg e h) := fun _ _ => of_none rfl
theorem fabricFceq : ∀ e h, Statement (.fabricFceq e h) := fun _ _ => of_none rfl
theorem fabricFclt : ∀ e h, Statement (.fabricFclt e h) := fun _ _ => of_none rfl
theorem frcp : ∀ e h, Statement (.frcp e h) := fun _ _ => of_none rfl
theorem frsq : ∀ e h, Statement (.frsq e h) := fun _ _ => of_none rfl
theorem fexp2 : ∀ e h, Statement (.fexp2 e h) := fun _ _ => of_none rfl
theorem flog2 : ∀ e h, Statement (.flog2 e h) := fun _ _ => of_none rfl
theorem fabricFscale : ∀ e h, Statement (.fabricFscale e h) := fun _ _ => of_none rfl
theorem fabricFxexp : ∀ e h, Statement (.fabricFxexp e h) := fun _ _ => of_none rfl
theorem fabricFcvti : ∀ e h, Statement (.fabricFcvti e h) := fun _ _ => of_none rfl
theorem fabricFcvtf : ∀ e h, Statement (.fabricFcvtf e h) := fun _ _ => of_none rfl
theorem fabricMov : ∀ e h, Statement (.fabricMov e h) := fun _ _ => of_none rfl
theorem fabricSel : ∀ e h, Statement (.fabricSel e h) := fun _ _ => of_none rfl
theorem steer : ∀ e h, Statement (.steer e h) := fun _ _ => of_none rfl
theorem merge : ∀ e h, Statement (.merge e h) := fun _ _ => of_none rfl
theorem carry : ∀ e h, Statement (.carry e h) := fun _ _ => of_none rfl
theorem inv : ∀ e h, Statement (.inv e h) := fun _ _ => of_none rfl
theorem gate : ∀ e h, Statement (.gate e h) := fun _ _ => of_none rfl
theorem filt : ∀ e h, Statement (.filt e h) := fun _ _ => of_none rfl
theorem dup : ∀ e h, Statement (.dup e h) := fun _ _ => of_none rfl
theorem drop : ∀ e h, Statement (.drop e h) := fun _ _ => of_none rfl
theorem cntr : ∀ e h, Statement (.cntr e h) := fun _ _ => of_none rfl
theorem sink : ∀ e h, Statement (.sink e h) := fun _ _ => of_none rfl
theorem accg : ∀ e h, Statement (.accg e h) := fun _ _ => of_none rfl
theorem maxg : ∀ e h, Statement (.maxg e h) := fun _ _ => of_none rfl
theorem argmx : ∀ e h, Statement (.argmx e h) := fun _ _ => of_none rfl
theorem cntg : ∀ e h, Statement (.cntg e h) := fun _ _ => of_none rfl
theorem hdrw : ∀ e h, Statement (.hdrw e h) := fun _ _ => of_none rfl
theorem scal : ∀ e h, Statement (.scal e h) := fun _ _ => of_none rfl
theorem grpc : ∀ e h, Statement (.grpc e h) := fun _ _ => of_none rfl
theorem ldst : ∀ e h, Statement (.ldst e h) := fun _ _ => of_none rfl
theorem stst : ∀ e h, Statement (.stst e h) := fun _ _ => of_none rfl
theorem ldg : ∀ e h, Statement (.ldg e h) := fun _ _ => of_none rfl
theorem stg : ∀ e h, Statement (.stg e h) := fun _ _ => of_none rfl
theorem amo : ∀ e h, Statement (.amo e h) := fun _ _ => of_none rfl
theorem chld : ∀ e h, Statement (.chld e h) := fun _ _ => of_none rfl
theorem chst : ∀ e h, Statement (.chst e h) := fun _ _ => of_none rfl
theorem chadd : ∀ e h, Statement (.chadd e h) := fun _ _ => of_none rfl
theorem btwalk : ∀ e h, Statement (.btwalk e h) := fun _ _ => of_none rfl
theorem cfrd : ∀ e h, Statement (.cfrd e h) := fun _ _ => of_none rfl
theorem selin : ∀ e h, Statement (.selin e h) := fun _ _ => of_none rfl
theorem warp : ∀ e h, Statement (.warp e h) := fun _ _ => of_none rfl
theorem drift : ∀ e h, Statement (.drift e h) := fun _ _ => of_none rfl
theorem mvcell : ∀ e h, Statement (.mvcell e h) := fun _ _ => of_none rfl
theorem rfq : ∀ e h, Statement (.rfq e h) := fun _ _ => of_none rfl
theorem edgeAccessComplete : ∀ e j, Statement (.edgeAccessComplete e j) := fun _ _ => of_none rfl
theorem headerLatch : ∀ e q h, Statement (.headerLatch e q h) := fun _ _ _ => of_none rfl
theorem tokenSend : ∀ e src, Statement (.tokenSend e src) := fun _ _ => of_none rfl
theorem rollback : ∀ r, Statement (.rollback r) := fun _ => of_none rfl
theorem watchdog : ∀ r, Statement (.watchdog r) := fun _ => of_none rfl
theorem snapshotRecord : ∀ e, Statement (.snapshotRecord e) := fun _ => of_none rfl
theorem cutComplete : ∀ r, Statement (.cutComplete r) := fun _ => of_none rfl
theorem loadBegin : ∀ r, Statement (.loadBegin r) := fun _ => of_none rfl
theorem loadCommand : ∀ r, Statement (.loadCommand r) := fun _ => of_none rfl
theorem flip : ∀ e, Statement (.flip e) := fun _ => of_none rfl
theorem elementClockGate : ∀ e, Statement (.elementClockGate e) := fun _ => of_none rfl
theorem elementWake : ∀ e, Statement (.elementWake e) := fun _ => of_none rfl
theorem sectorWake : ∀ c x, Statement (.sectorWake c x) := fun _ _ => of_none rfl
theorem regionCompletion : ∀ r, Statement (.regionCompletion r) := fun _ => of_none rfl
theorem taskInsertion : ∀ d, Statement (.taskInsertion d) := fun _ => of_none rfl
theorem dependencePoll : ∀ d, Statement (.dependencePoll d) := fun _ => of_none rfl
theorem taskBinding : ∀ d, Statement (.taskBinding d) := fun _ => of_none rfl
theorem periodStart : Statement (.periodStart) := of_none rfl
theorem stopRequest : ∀ d tag, Statement (.stopRequest d tag) := fun _ _ => of_none rfl
theorem forcePoint : ∀ d tag, Statement (.forcePoint d tag) := fun _ _ => of_none rfl
theorem regionFreeze : ∀ r, Statement (.regionFreeze r) := fun _ => of_none rfl
theorem contextSave : ∀ r, Statement (.contextSave r) := fun _ => of_none rfl
theorem taskRestore : ∀ d tag, Statement (.taskRestore d tag) := fun _ _ => of_none rfl
theorem pictureComplete : ∀ n, Statement (.pictureComplete n) := fun _ => of_none rfl
theorem abortClose : ∀ n, Statement (.abortClose n) := fun _ => of_none rfl
theorem chunkConsumed : ∀ n, Statement (.chunkConsumed n) := fun _ => of_none rfl
theorem copyBegin : ∀ k n, Statement (.copyBegin k n) := fun _ _ => of_none rfl
theorem copyCompletionPoint : ∀ k, Statement (.copyCompletionPoint k) := fun _ => of_none rfl
theorem matrixCommandStart : ∀ c, Statement (.matrixCommandStart c) := fun _ => of_none rfl
theorem matrixCommandComplete : ∀ c, Statement (.matrixCommandComplete c) := fun _ => of_none rfl
theorem slotRelease : ∀ k, Statement (.slotRelease k) := fun _ => of_none rfl
theorem slotCleared : ∀ k, Statement (.slotCleared k) := fun _ => of_none rfl
theorem sluiceAccept : ∀ c, Statement (.sluiceAccept c) := fun _ => of_none rfl
theorem sluiceDrain : ∀ c, Statement (.sluiceDrain c) := fun _ => of_none rfl
theorem chainAccept : ∀ e j, Statement (.chainAccept e j) := fun _ _ => of_none rfl
theorem chainPerform : ∀ k, Statement (.chainPerform k) := fun _ => of_none rfl
theorem chainGap : ∀ k, Statement (.chainGap k) := fun _ => of_none rfl
theorem chainOverflow : ∀ u, Statement (.chainOverflow u) := fun _ => of_none rfl
theorem memoryNodeFault : ∀ agt k, Statement (.memoryNodeFault agt k) := fun _ _ => of_none rfl
theorem storeErrorResponse : ∀ t j, Statement (.storeErrorResponse t j) := fun _ _ => of_none rfl
theorem hotBitClear : ∀ line, Statement (.hotBitClear line) := fun _ => of_none rfl
theorem slotTableRound : ∀ d pc, Statement (.slotTableRound d pc) := fun _ _ => of_none rfl
theorem hostMemAccess : ∀ wr off n v, Statement (.hostMemAccess wr off n v) := fun _ _ _ _ => of_none rfl
theorem hostSnoop : ∀ d line, Statement (.hostSnoop d line) := fun _ _ => of_none rfl
theorem tinvc : ∀ d v, Statement (.tinvc d v) := fun _ _ => of_none rfl
theorem invalidationComplete : ∀ d, Statement (.invalidationComplete d) := fun _ => of_none rfl
theorem tail : ∀ q v, Statement (.tail q v) := fun _ _ => of_none rfl
theorem qen : ∀ q on, Statement (.qen q on) := fun _ _ => of_none rfl
theorem launchRecordOffer : ∀ q, Statement (.launchRecordOffer q) := fun _ => of_none rfl
theorem interruptRegister : ∀ t v, Statement (.interruptRegister t v) := fun _ _ => of_none rfl
theorem registerWrite : ∀ pa n v, Statement (.registerWrite pa n v) := fun _ _ _ => of_none rfl
theorem pbrIdAssign : ∀ i0 i1 i2 i3, Statement (.pbrIdAssign i0 i1 i2 i3) := fun _ _ _ _ => of_none rfl
theorem attest : ∀ nonce, Statement (.attest nonce) := fun _ => of_none rfl
theorem dbgopen : ∀ lvl asid tok, Statement (.dbgopen lvl asid tok) := fun _ _ _ => of_none rfl
theorem dbgclose : Statement (.dbgclose) := of_none rfl
theorem fence : ∀ u, Statement (.fence u) := fun _ => of_none rfl
theorem unfence : ∀ u, Statement (.unfence u) := fun _ => of_none rfl
theorem image : ∀ pa, Statement (.image pa) := fun _ => of_none rfl
theorem record : ∀ pa, Statement (.record pa) := fun _ => of_none rfl
theorem dhold : ∀ t, Statement (.dhold t) := fun _ => of_none rfl
theorem dstep : ∀ t, Statement (.dstep t) := fun _ => of_none rfl
theorem drun : ∀ t, Statement (.drun t) := fun _ => of_none rfl
theorem dread : ∀ a0 a1, Statement (.dread a0 a1) := fun _ _ => of_none rfl
theorem powerOn : Statement (.powerOn) := of_none rfl
theorem coreOff : ∀ c, Statement (.coreOff c) := fun _ => of_none rfl
theorem coreWake : ∀ c, Statement (.coreWake c) := fun _ => of_none rfl
theorem dieRetention : ∀ d, Statement (.dieRetention d) := fun _ => of_none rfl
theorem dieWake : ∀ d, Statement (.dieWake d) := fun _ => of_none rfl
theorem debugWakeExpiry : ∀ c, Statement (.debugWakeExpiry c) := fun _ => of_none rfl
theorem illegalBlock : ∀ t, Statement (.illegalBlock t) := fun _ => of_none rfl
theorem illegalInstruction : ∀ t, Statement (.illegalInstruction t) := fun _ => of_none rfl
theorem drainTimeExpiry : ∀ d tag, Statement (.drainTimeExpiry d tag) := fun _ _ => of_none rfl
theorem sectorPowerOff : ∀ c x, Statement (.sectorPowerOff c x) := fun _ _ => of_none rfl
theorem junctionTemperature : ∀ hot, Statement (.junctionTemperature hot) := fun _ => of_none rfl
end Sys2Proof.Laws.Encoding

namespace Sys2Proof.Laws

theorem Encoding.seal : ∀ r, Encoding.Statement (.seal r) := fun _ => Encoding.of_none rfl

end Sys2Proof.Laws
end

