-- ==== Sys2Proof/Safety.lean ====
section
/-! DEFINITION. What counts as a safe run, and the terms that claims use: when a word is reached and may run, what going on to
the next word leaves alone, and what a step of another agent may change. -/

namespace Sys2Proof.Safety

open Sys2Proof.Machine

/-- One step answers a next state: no fault, no refusal. DEDUCED: log 96. -/
def Runs (s : State) : Prop := ∃ t, step s = .next t

/-- Every one of `n` steps answers a next state. DEDUCED: log 96. -/
def RunsFor : Nat → State → Prop
  | 0, _ => True
  | n + 1, s => ∃ t, step s = .next t ∧ RunsFor n t

/-- Memory is in its canonical form. -/
def MemoryWf (s : State) : Prop := Memory.wf s.w.mem = true

/-- A block of the thread is open at a word whose predicate holds (R173); none of the registers `gs` it reads holds a commit
result of the block (R220); and unless it is a scalar word or an exit that allows it, its predicate and the registers `gs`
and predicates `ps` it reads depend on no indivisible word of the block (R205). -/
structure Reached (s : State) (x : Txn) (p : Pr) (c : Cls) (gs : List Reg) (ps : List PReg) : Prop where
  txn : s.txn = some x
  holds : s.thr.holds p = true
  cres : ∀ r ∈ gs, x.cres.getLsbD r.toNat = false
  free : c = .other → x.depP.getLsbD p.pr.toNat = false ∧ (∀ r ∈ gs, x.depG.getLsbD r.toNat = false) ∧
    ∀ q ∈ ps, x.depP.getLsbD q.toNat = false

/-- A word that makes an access, or gives an engine a command, is reached, and no fence holds it back: neither one of its block past
earlier blocks' stores that are not performed, nor one of an earlier block (R202, R203). -/
structure Accesses (s : State) (x : Txn) (p : Pr) (gs : List Reg) (ps : List PReg) : Prop extends Reached s x p .other gs ps where
  unfenced : fenceHolds s.turn x = false

/-- `t` stands `n` words further in the same block: the block, what a trap returns to, the wait that holds it, the thread
whose turn it is and the steps that are due are the same. -/
structure Onward (s t : State) (x : Txn) (n : Nat) : Prop where
  turn : t.turn = s.turn
  agenda : t.agenda = s.agenda
  block : ∃ y, t.txn = some y ∧ y.idx = x.idx + n ∧ y.saved = x.saved ∧ y.base = x.base ∧ y.lines = x.lines ∧
    y.nwrd = x.nwrd ∧ y.words = x.words ∧ y.sev = x.sev ∧ y.held = x.held

/-- The thread whose turn it is has general registers `f` and nothing else of the device differs. -/
def OnlyG (s t : State) (f : Reg → Word) : Prop :=
  (∀ r, t.readG r = f r) ∧ t.w = s.w.setThread s.turn { s.thr with g := t.thr.g }

/-- The general registers with `v` in `d`; g0 reads zero and discards (R170). -/
def regs (s : State) (d : Reg) (v : Word) (r : Reg) : Word := if r = d ∧ d ≠ 0 then v else s.readG r

/-- A word wrote `v` to gD, changed nothing else, and went on by `n` words. -/
def WroteG (s t : State) (x : Txn) (n : Nat) (d : Reg) (v : Word) : Prop :=
  OnlyG s t (regs s d v) ∧ Onward s t x n

/-- A word wrote `b` to pD, changed nothing else, and went on by `n` words; p0 reads true and discards (R170). -/
def WroteP (s t : State) (x : Txn) (n : Nat) (d : PReg) (b : Bool) : Prop :=
  (∀ q, t.readP q = if q = d ∧ d ≠ 0 then b else s.readP q) ∧
    t.w = s.w.setThread s.turn { s.thr with p := t.thr.p } ∧ Onward s t x n

/-- The byte that the parts `gs` of a store of the bytes `bs` leave at physical address `c`, if they reach it. -/
def storedByte : List Seg → List Byte → Nat → Option Byte
  | [], _, _ => none
  | g :: rest, bs, c => (storedByte rest (bs.drop g.len) c).or (if g.pa ≤ c ∧ c < g.pa + g.len then bs[c - g.pa]? else none)

/-- Every part lies in memory that is its own home: no register window, and no address that names this device's memory under its
own identifier (R282). -/
def InMemory (w : World) (gs : List Seg) : Prop :=
  ∀ g ∈ gs, isMmio w g.pa = false ∧ ∀ i, i < g.len → homeOf w (g.pa + i) = g.pa + i

/-- No granule is poisoned, and no block's metadata is bad (R264, R341). -/
def Unpoisoned (w : World) : Prop := w.poison = [] ∧ w.badMeta = []

/-- Does a store at a physical address need the answer of another agent: it lies in host memory or at a peer (R196, R260)? -/
def answers (w : World) (pa : Nat) : Bool :=
  match windowOf (homeOf w pa) with
  | .host | .peer .. => true
  | _ => false

/-- Does a store at the path of thread `t` hold up a part of a store of it, `rel` for one behind all of them (R200, R202)? -/
def heldUp (w : World) (t : Nat) (rel : Bool) (g : Seg) : Bool :=
  (w.thread t).path.any fun y => rel || y.fenced ||
    decide (homeOf w y.pa < homeOf w g.pa + g.len ∧ homeOf w g.pa < homeOf w y.pa + y.len) || (isMmio w y.pa && isMmio w g.pa)

/-- Between blocks, a step of an agent other than a thread leaves the device at `w` and nothing else changed (R130). -/
def Acts (i : Instr) (s : State) (w : World) : Prop := exec i s = .next { s with w := w }

end Sys2Proof.Safety
end

