-- ==== Sys2Proof/Certificates/Slice0/Obligations.lean ====
section
/-! DEFINITION. The statements for the provers: what the numbered rules of the spec say the device does. -/

open Sys2Proof Sys2Proof.Machine Sys2Proof.Safety

/-! ## Reset, fetch and decode -/

/-- A step at an open block whose word in hand decodes runs that instruction, and ends the block behind its last word: it
commits at the fall-through address, unless a wait of the block holds it; one cycle goes by (R130, R168).
That a word takes one cycle is the model's choice (log 9). -/
def Obligations.StepRunsDecodedWord : Prop :=
  ∀ (s : State) (x : Txn) (i : Instr), s.txn = some x → decode x.word (x.words.getD x.idx 0) = .ok i →
    step s = match exec i s with
      | .next t => .next (tick (commitAtEnd t))
      | .fault f => .fault f
      | .refused r => .refused r

/-- A step between blocks, when the thread is due or nothing else is, and the thread is ready, has no event to take and was not told to
yield: the block at its block counter is fetched, and its first word runs (R130, R131, R166); where the fetch passes a budget that has been
reached the thread waits (R141), and where it would read otherwise once stores that a fence has come after are performed, it waits for them
(R178, R202). (The model's choices here: stores that have met no error response are performed first, R196, log 27; whose turn it is, log 6;
that a word takes one cycle, log 9; that a fetch waits for no other store, log 12.) -/
def Obligations.StepBeginsBlock : Prop :=
  ∀ (s : State) (rest : List Turn), s.txn = none → s.agenda = [] ∧ rest = [] ∨ s.agenda = .thread :: rest →
    let q := { s with agenda := rest, w := settlePaths s.w }
    threadReady q.w q.turn q.thr = true → q.thr.yielded = false → (q.thr.events = [] ∨ q.thr.evm = true ∨ q.thr.dheld = true) →
    (fetchWaits q.w q.turn = true → step s = .next (tick (waitUnbegun q .path))) ∧
    ∀ (w : World) (b : Fetched), fetchWaits q.w q.turn = false → fetchBlock q.w q.turn = (w, .ok b) →
      (q.w.overrun q.w w = true → step s = .next (tick (waitUnbegun q .budget))) ∧
      ∀ i, q.w.overrun q.w w = false → decode (b.words.getD 0 0) (b.words.getD 1 0) = .ok i →
        step s = match exec i (beginBlock q w b) with
          | .next t => .next (tick (commitAtEnd t))
          | .fault f => .fault f
          | .refused r => .refused r

/-- Words written out from the spec's encodings decode to what they stand for: `add g5, g6, g7` (R181), `addi g4, g3, -1` under
p2 (R184), `ld.d g27, 8(g24)` and `bdec g20` one line back (the words of the encoding examples), `li g5, 0x8000_1000` (R188). -/
def Obligations.WordsDecode : Prop :=
  decode 0x00451870 0 = .ok (.add ⟨0, false⟩ 5 6 7) ∧
  decode 0x41840FFF 0 = .ok (.addi ⟨2, false⟩ 4 3 (-1)) ∧
  decode 0x059B6001 0 = .ok (.ldD ⟨0, false⟩ 27 24 1) ∧
  decode 0x0C050000 0x80001000 = .ok (.li ⟨0, false⟩ 5 0x80001000) ∧
  decode 0x0ED4FFFF 0 = .ok (.bdec ⟨0, false⟩ 20 (-1))

/-- For every well-formed instruction that a word names, with every operand at every value the encoding admits, the decoder
reads back what the encoder writes, whatever word follows a short form, and the first word says whether an extension word
follows (R169 to R177). -/
def Obligations.DecodeReadsEncode : Prop := ∀ i : Instr, Laws.Encoding.Statement i

namespace Sys2Proof.Claims

/-- What holds of a block while it is open: the word in hand is one of its `NWRD` words, the block has the lines it needs, and
what a trap returns to stands at the block's own address. -/
def OpenBlock (s : State) : Prop :=
  ∀ x, s.txn = some x → 1 ≤ x.idx ∧ x.idx ≤ x.nwrd ∧ x.words.length = x.nwrd ∧ 1 ≤ x.lines ∧ x.lines ≤ 4 ∧
    x.nwrd + 1 ≤ 32 * x.lines ∧ (x.saved.thread s.turn).pc = x.base

/-- Memory, and what a trap of the open block returns to, are in canonical form. -/
def CanonicalMemory (s : State) : Prop := MemoryWf s ∧ ∀ x, s.txn = some x → Memory.wf x.saved.mem = true

end Sys2Proof.Claims

/-- Every step keeps what holds of an open block (R130, R166, R167). -/
def Obligations.StepKeepsOpenBlock : Prop :=
  ∀ s t : State, Claims.OpenBlock s → step s = .next t → Claims.OpenBlock t

/-- Every step keeps memory in its one canonical form, and with it the memory that a trap of the open block returns to: equal memories are
equal data, whatever stores led to them. (The form is the model's: log 95; which bytes memory holds is the spec's, R3.) -/
def Obligations.StepKeepsMemoryForm : Prop := ∀ s t : State, Claims.CanonicalMemory s → step s = .next t → Claims.CanonicalMemory t

/-- After reset no block is open and memory lists nothing, so both invariants hold there; every thread is halted (R133).
(That empty memory reads 0 is the model's choice: log 1.) -/
def Obligations.InvariantsAtReset : Prop :=
  Claims.OpenBlock State.reset ∧ Claims.CanonicalMemory State.reset ∧ State.reset.txn = none ∧ ∀ t, (State.reset.w.thread t).phase = .halted

/-! ## Scalar words -/

namespace Sys2Proof.Claims

/-- The words `op gD, gA, gB` of R181, R182, R183 and R187, each with the value of gD for operand values `x` and `y`. -/
def twoOperand (p : Pr) (d a b : Reg) (x y : Word) : List (Instr × Word) :=
  let sh := y.toNat
  let xw : W32 := x.setWidth 32
  let yw : W32 := y.setWidth 32
  let limit (v : Int) : Word := BitVec.ofInt 64 (max (-2 ^ 31) (min (2 ^ 31 - 1) v))
  [(.add p d a b, x + y), (.sub p d a b, x - y), (.and p d a b, x &&& y), (.or p d a b, x ||| y), (.xor p d a b, x ^^^ y),
   (.andn p d a b, x &&& ~~~y), (.orn p d a b, x ||| ~~~y),
   (.shl p d a b, if 64 ≤ sh then 0 else BitVec.ofNat 64 (x.toNat * 2 ^ sh)),
   (.shr p d a b, if 64 ≤ sh then 0 else BitVec.ofNat 64 (x.toNat / 2 ^ sh)),
   (.sra p d a b, BitVec.ofInt 64 (x.toInt / 2 ^ (min sh 63))),
   (.rol p d a b, x.rotateLeft (sh % 64)), (.ror p d a b, x.rotateRight (sh % 64)),
   (.min p d a b, BitVec.ofInt 64 (min x.toInt y.toInt)), (.max p d a b, BitVec.ofInt 64 (max x.toInt y.toInt)),
   (.minn p d a b, BitVec.ofNat 64 (min x.toNat y.toNat)), (.maxn p d a b, BitVec.ofNat 64 (max x.toNat y.toNat)),
   (.mul p d a b, x * y), (.mulh p d a b, BitVec.ofInt 64 (x.toInt * y.toInt / 2 ^ 64)),
   (.mulhn p d a b, BitVec.ofNat 64 (x.toNat * y.toNat / 2 ^ 64)),
   (.div p d a b, if y = 0 then BitVec.allOnes 64 else BitVec.ofInt 64 (x.toInt.tdiv y.toInt)),
   (.divn p d a b, if y = 0 then BitVec.allOnes 64 else BitVec.ofNat 64 (x.toNat / y.toNat)),
   (.rem p d a b, if y = 0 then x else BitVec.ofInt 64 (x.toInt.tmod y.toInt)),
   (.remn p d a b, if y = 0 then x else BitVec.ofNat 64 (x.toNat % y.toNat)),
   (.addW p d a b, (xw + yw).signExtend 64), (.subW p d a b, (xw - yw).signExtend 64), (.mulW p d a b, (xw * yw).signExtend 64),
   (.shlW p d a b, if 32 ≤ sh then 0 else (BitVec.ofNat 32 (xw.toNat * 2 ^ sh)).signExtend 64),
   (.shrW p d a b, if 32 ≤ sh then 0 else (BitVec.ofNat 32 (xw.toNat / 2 ^ sh)).signExtend 64),
   (.sraW p d a b, BitVec.ofInt 64 (xw.toInt / 2 ^ (min sh 31))),
   (.addsat p d a b, limit (xw.toInt + yw.toInt)), (.subsat p d a b, limit (xw.toInt - yw.toInt)),
   (.lea1 p d a b, x + y), (.lea2 p d a b, x + 2 * y), (.lea4 p d a b, x + 4 * y), (.lea8 p d a b, x + 8 * y),
   (.lea16 p d a b, x + 16 * y),
   (.alignd p d a b, if 64 ≤ sh then 0 else BitVec.ofNat 64 (x.toNat / 2 ^ sh * 2 ^ sh)),
   (.alignn p d a b, if 64 ≤ sh then 0 else BitVec.ofNat 64 ((x.toNat + 2 ^ sh - 1) / 2 ^ sh * 2 ^ sh))]

/-- The words `op gD, gA` of R182, R183 and R187, each with the value of gD for an operand value `x`. -/
def oneOperand (p : Pr) (d a : Reg) (x : Word) : List (Instr × Word) :=
  [(.clz p d a, BitVec.ofNat 64 (clzFrom x 64)), (.ctz p d a, BitVec.ofNat 64 (ctzFrom x 64 0)),
   (.popc p d a, BitVec.ofNat 64 (((List.range 64).filter x.getLsbD).length)), (.brev p d a, x.reverse),
   (.bswap p d a, BitVec.ofNat 64 (leNat (leBytes 8 x.toNat).reverse)),
   (.sextb p d a, (x.setWidth 8).signExtend 64), (.sexth p d a, (x.setWidth 16).signExtend 64),
   (.sextw p d a, (x.setWidth 32).signExtend 64), (.zextw p d a, (x.setWidth 32).setWidth 64), (.mov p d a, x)]

/-- The immediate words of R184, with the value of gD: the immediate is sign-extended from 10 bits. -/
def immediate (p : Pr) (d a : Reg) (imm : BitVec 10) (x : Word) : List (Instr × Word) :=
  let i : Word := imm.signExtend 64
  [(.addi p d a imm, x + i), (.andi p d a imm, x &&& i), (.ori p d a imm, x ||| i), (.xori p d a imm, x ^^^ i),
   (.shli p d a imm, if 64 ≤ i.toNat then 0 else BitVec.ofNat 64 (x.toNat * 2 ^ i.toNat)),
   (.shri p d a imm, if 64 ≤ i.toNat then 0 else BitVec.ofNat 64 (x.toNat / 2 ^ i.toNat)),
   (.srai p d a imm, BitVec.ofInt 64 (x.toInt / 2 ^ (min i.toNat 63)))]

/-- The compares of R185 and `g2p`, each with the value of pD. -/
def compares (p : Pr) (d : PReg) (a b : Reg) (x y : Word) : List (Instr × Bool) :=
  [(.ceq p d a b, x == y), (.cne p d a b, x != y), (.clt p d a b, decide (x.toInt < y.toInt)),
   (.cle p d a b, decide (x.toInt ≤ y.toInt)), (.cltn p d a b, decide (x.toNat < y.toNat)),
   (.clen p d a b, decide (x.toNat ≤ y.toNat)), (.cbit p d a b, decide (y.toNat < 64) && x.getLsbD y.toNat),
   (.g2p p d a, x != 0)]

/-- The compares with an immediate of R185. -/
def compareImmediates (p : Pr) (d : PReg) (a : Reg) (imm : BitVec 10) (x : Word) : List (Instr × Bool) :=
  [(.ceqi p d a imm, x == imm.signExtend 64), (.clti p d a imm, decide (x.toInt < imm.toInt)),
   (.cltni p d a imm, decide (x.toNat < (imm.signExtend 64).toNat))]

/-- The predicate operations of R186. -/
def predicateOps (p : Pr) (d a b : PReg) (x y : Bool) : List (Instr × Bool) :=
  [(.pand p d a b, x && y), (.por p d a b, x || y), (.pxor p d a b, x != y), (.pandn p d a b, x && !y), (.pnot p d a, !x)]

end Sys2Proof.Claims

/-- R181 to R184, R187, R188: a reached word of two operands, of one, or of an immediate writes its value to gD, changes nothing else (g0 discards), and goes
on; the long forms take two words of the block. -/
def Obligations.ScalarWords : Prop :=
  ∀ (s : State) (x : Txn) (p : Pr) (d a : Reg),
    (∀ b, Reached s x p .scalar [a, b] [] →
      ∀ q ∈ Claims.twoOperand p d a b (s.readG a) (s.readG b), ∃ t, exec q.1 s = .next t ∧ WroteG s t x 1 d q.2) ∧
    (Reached s x p .scalar [a] [] →
      ∀ q ∈ Claims.oneOperand p d a (s.readG a), ∃ t, exec q.1 s = .next t ∧ WroteG s t x 1 d q.2) ∧
    (∀ imm, Reached s x p .scalar [a] [] → ∀ q ∈ Claims.immediate p d a imm (s.readG a), ∃ t, exec q.1 s = .next t ∧ WroteG s t x 1 d q.2) ∧
    (∀ imm : BitVec 32, Reached s x p .scalar [] [] → ∃ t, exec (.li p d imm) s = .next t ∧ WroteG s t x 2 d (imm.signExtend 64)) ∧
    (∀ imm : BitVec 32, Reached s x p .scalar [d] [] →
      ∃ t, exec (.lih p d imm) s = .next t ∧ WroteG s t x 2 d (BitVec.ofNat 64 (imm.toNat * 2 ^ 32 + (s.readG d).toNat % 2 ^ 32))) ∧
    ∀ imm : BitVec 32, Reached s x p .scalar [a] [] →
      ∃ t, exec (.addiL p d a imm) s = .next t ∧ WroteG s t x 2 d (s.readG a + imm.signExtend 64)

/-- R185, R186: a reached compare or predicate operation writes its bit to pD, changes nothing else (p0 discards), and goes on. -/
def Obligations.PredicateWords : Prop :=
  ∀ (s : State) (x : Txn) (p : Pr) (d : PReg),
    (∀ a b, Reached s x p .scalar [a, b] [] →
      ∀ q ∈ Claims.compares p d a b (s.readG a) (s.readG b), ∃ t, exec q.1 s = .next t ∧ WroteP s t x 1 d q.2) ∧
    (∀ a imm, Reached s x p .scalar [a] [] →
      ∀ q ∈ Claims.compareImmediates p d a imm (s.readG a), ∃ t, exec q.1 s = .next t ∧ WroteP s t x 1 d q.2) ∧
    ∀ a b, Reached s x p .scalar [] [a, b] →
      ∀ q ∈ Claims.predicateOps p d a b (s.readP a) (s.readP b), ∃ t, exec q.1 s = .next t ∧ WroteP s t x 1 d q.2

/-- R173, R187: `sel` writes gD whether or not its predicate holds: gA when it holds, else gB. R186: `p2g` writes 1 or 0. -/
def Obligations.SelectAndPredicateToG : Prop :=
  ∀ (s : State) (x : Txn) (p : Pr) (d : Reg),
    (∀ a b, s.txn = some x → (∀ r ∈ [a, b], x.cres.getLsbD r.toNat = false) →
      ∃ t, exec (.sel p d a b) s = .next t ∧ WroteG s t x 1 d (if s.thr.holds p then s.readG a else s.readG b)) ∧
    ∀ a, Reached s x p .scalar [] [a] → ∃ t, exec (.p2g p d a) s = .next t ∧ WroteG s t x 1 d (if s.readP a then 1 else 0)

namespace Sys2Proof.Claims

/-- The flags `f` are in fflags and `v` in gD, and nothing else differs (R189). -/
def WroteFloat (s t : State) (x : Txn) (d : Reg) (v : Word) (f : Flags) : Prop :=
  (∀ r, t.readG r = regs s d v r) ∧
    t.w = s.w.setThread s.turn { s.thr with g := t.thr.g, fflags := s.thr.fflags ||| f.setWidth 64 } ∧ Onward s t x 1

/-- The fw32 words of R190 with two operands, under rounding mode `rm`: value and flags. -/
def floatTwo (p : Pr) (d a b : Reg) (rm : Nat) (x y : Word) : List (Instr × W32 × Flags) :=
  let u : W32 := x.setWidth 32
  let v : W32 := y.setWidth 32
  [(.fadd p d a b, fwAdd rm u v), (.fsub p d a b, fwSub rm u v), (.fmul p d a b, fwMul rm u v), (.fmin p d a b, fwMin u v, 0),
   (.fmax p d a b, fwMax u v, 0), (.fscale p d a b, fwScale rm u y.toInt)]

/-- The words of R190, R191 and R194 with one operand, under frm `rm` and binary8 format `b8`: the 64-bit value and flags. -/
def floatOne (p : Pr) (d a : Reg) (rm : Nat) (b8 : Fmt) (x : Word) : List (Instr × Word × Flags) :=
  let u : W32 := x.setWidth 32
  let pad (r : Nat × Flags) : Word × Flags := (BitVec.ofNat 64 r.1, r.2)
  let int := fwToInt rm (-2 ^ 63) (2 ^ 63 - 1) u
  let cvt := roundFw (.ofInt x.toInt) rm
  [(.fabs p d a, (fwAbs u).setWidth 64, 0), (.fneg p d a, (fwNeg u).setWidth 64, 0),
   (.fcvti p d a, BitVec.ofInt 64 int.1, int.2), (.fcvtf p d a, cvt.1.setWidth 64, cvt.2),
   (.fxexp p d a, (fwExp u).signExtend 64, 0), (.fclass p d a, BitVec.ofNat 64 (fwClass u), 0),
   (.fwbf p d a, pad (roundTo (fw u) .bf16 rm)), (.bffw p d a, pad (roundTo (Fmt.bf16.decode x.toNat) .fw32 rm)),
   (.fwh p d a, pad (roundTo (fw u) .fp16 rm)), (.hfw p d a, pad (roundTo (Fmt.fp16.decode x.toNat) .fw32 rm)),
   (.fws p d a, pad (roundTo (fw u) .fp32 rm)), (.sfw p d a, pad (roundTo (Fmt.fp32.decode x.toNat) .fw32 rm)),
   (.fwb8 p d a, pad (roundTo (fw u) b8 rm)), (.b8fw p d a, pad (roundTo (b8.decode x.toNat) .fw32 rm))]

/-- The float compares of R190: bit and flags. -/
def floatCompares (p : Pr) (d : PReg) (a b : Reg) (x y : Word) : List (Instr × Bool × Flags) :=
  let u : W32 := x.setWidth 32
  let v : W32 := y.setWidth 32
  [(.fceq p d a b, fwEq u v, 0), (.fclt p d a b, fwLt u v), (.fcle p d a b, fwLe u v)]

end Sys2Proof.Claims

namespace Sys2Proof.Claims

/-- The formats of R301 to R303, those of binary8 with 1 to 7 significant bits. -/
def floatFormats : List Fmt :=
  [.bf16, .fp16, .fp32, .fw32] ++
    (List.range 7).flatMap fun p => [.binary8 false false (p + 1), .binary8 false true (p + 1), .binary8 true false (p + 1), .binary8 true true (p + 1)]

/-- The exponent of the least digit of a format's smallest values: emin − (p − 1) (R306). -/
def lastPlace (F : Fmt) : Int := 1 - F.bias - (F.p - 1)

/-- The integer that ±n/d rounds to under `rm`, and whether it is exact: the nearer, on a tie the even one (RNE 0), toward zero (RTZ 1),
toward −inf (RDN 2), toward +inf (RUP 3) (R306). -/
def nearest (rm : Nat) (neg : Bool) (n d : Nat) : Nat × Bool :=
  let k := n / d
  let r := n % d
  (if r = 0 then k
   else if rm = 0 then (if 2 * r < d then k else if d < 2 * r then k + 1 else if k % 2 = 0 then k else k + 1)
   else if (rm = 2 ∧ neg = true) ∨ (rm = 3 ∧ neg = false) then k + 1 else k, decide (r = 0))

/-- The integer that 1/√(m 2^e), over 2^q, rounds to under `rm`, and whether it is exact: k with k² ≤ n/d < (k + 1)² for
n/d = 2^(−e − 2q)/m, or k + 1. -/
def nearestRoot (rm m : Nat) (e q : Int) : Nat × Bool :=
  let n := 2 ^ (-e - 2 * q).toNat
  let d := m * 2 ^ (e + 2 * q).toNat
  let k := Nat.sqrt (n / d)
  (if k * k * d = n then k else if rm = 0 then (if 4 * n < (2 * k + 1) ^ 2 * d then k else k + 1) else if rm = 3 then k + 1 else k, decide (k * k * d = n))

/-- The exponent of the leading digit of (a/b) 2^e. -/
def leading (a b : Nat) (e : Int) : Int :=
  let l : Int := (Nat.log2 a : Int) - (Nat.log2 b : Int) + e
  if a * 2 ^ Nat.log2 b < b * 2 ^ Nat.log2 a then l - 1 else l

/-- `round_to` of a finite number that is not 0, whose leading digit has exponent `top` and which over 2^q rounds to the integer `at q`: the
encoding and the flags (R195, R306). An encoding without its sign grows with the number, a step for a multiple of 2^q. -/
def packed (F : Fmt) (rm : Nat) (neg : Bool) (top : Int) (at_ : Int → Nat × Bool) : Nat × Flags :=
  let q := if F.sub then max (top - (F.p - 1)) (lastPlace F) else top - (F.p - 1)
  let y := at_ q
  let enc : Int := (q - lastPlace F) * 2 ^ (F.p - 1) + y.1
  let sign := if neg then 2 ^ (F.width - 1) else 0
  if F.maxBits < enc then
    (sign + match F.infBits with
      | none => F.maxBits
      | some i => if rm = 1 ∨ (rm = 2 ∧ neg = false) ∨ (rm = 3 ∧ neg = true) then F.maxBits else i, 0b00101)
  else if F.sub = false ∧ enc < 2 ^ (F.p - 1) then (sign, 0b00011)
  else (if F.b8 = true ∧ enc = 0 then 0 else sign + enc.toNat, if y.2 then 0 else if top < 1 - F.bias then 0b00011 else 0b00001)

/-- `round_to` of ±(a/b) 2^e, which is not 0. -/
def rounded (F : Fmt) (rm : Nat) (neg : Bool) (a b : Nat) (e : Int) : Nat × Flags :=
  packed F rm neg (leading a b e) fun q => nearest rm neg (a * 2 ^ (e - q).toNat) (b * 2 ^ (q - e).toNat)

/-- `round_fw` of ±m 2^e, and of a zero of that sign where m is 0. -/
def roundedFw (rm : Nat) (neg : Bool) (m : Nat) (e : Int) : W32 × Flags :=
  if m = 0 then (if neg then 0x80000000 else 0, 0)
  else let r := rounded .fw32 rm neg m 1 e; (BitVec.ofNat 32 r.1, r.2)

/-- The value that an encoding of a format has (R301 to R303): its fields give NaN, an infinity or ±m 2^e. -/
def valueOf (F : Fmt) (v : Nat) : Val :=
  let x := v % 2 ^ F.width
  let neg := F.signed && x.testBit (F.width - 1)
  let mag := if F.signed then x % 2 ^ (F.width - 1) else x
  let ef := mag / 2 ^ (F.p - 1)
  let frac := mag % 2 ^ (F.p - 1)
  if F.b8 = true ∧ x = F.nanBits then .nan
  else if F.infBits = some mag then .inf neg
  else if F.b8 = false ∧ ef = 2 ^ (F.width - F.p) - 1 then .nan
  else if ef = 0 then (if frac = 0 ∨ F.sub = false then .zero neg else .fin neg frac (lastPlace F) false)
  else .fin neg (2 ^ (F.p - 1) + frac) (ef - 1 + lastPlace F) false

/-- The order of two values that are no NaN: the place of an encoding among all, where −0 and +0 have `z` between them. -/
def place (z : Int) (x : W32) : Int :=
  let mag : Int := if x.toNat / 2 ^ 21 % 2 ^ 10 = 0 then 0 else (x.toNat % 2 ^ 31 : Nat)
  if x.toNat < 2 ^ 31 then mag else -mag - z

/-- The signed integer ±m 2^e over 2^e₀. -/
def signedOver (neg : Bool) (m : Nat) (e e₀ : Int) : Int := (if neg then -1 else 1) * (m * 2 ^ (e - e₀).toNat : Nat)

/-- `round_fw` of the sum of ±m 2^e and ±n 2^f: a sum of 0 is −0 under RDN, else +0 (R93). -/
def roundedSum (rm : Nat) (s : Bool) (m : Nat) (e : Int) (t : Bool) (n : Nat) (f : Int) : W32 × Flags :=
  let z := signedOver s m e (min e f) + signedOver t n f (min e f)
  if z = 0 then (if rm = 2 then 0x80000000 else 0, 0) else roundedFw rm (decide (z < 0)) z.natAbs (min e f)

/-- R300 to R306, R195: how a float is read and how a number is rounded. -/
def Rounding (rm : Nat) : Prop :=
  (∀ F ∈ floatFormats, ∀ v, F.decode v = valueOf F v) ∧
  (∀ F ∈ floatFormats, roundTo .nan F rm = (F.nanBits, 0) ∧
    ∀ neg, (neg = true → F.signed = true) →
      let sign := if neg then 2 ^ (F.width - 1) else 0
      roundTo (.inf neg) F rm = (match F.infBits with
        | some i => (sign + i, 0)
        | none => (sign + F.maxBits, 0b00101)) ∧
      roundTo (.zero neg) F rm = (if F.b8 then 0 else sign, 0) ∧
      ∀ m e, m ≠ 0 → roundTo (.fin neg m e false) F rm = rounded F rm neg m 1 e) ∧
  (∀ F ∈ floatFormats, F.signed = false → ∀ v ∈ [Val.inf true, .fin true 1 0 false], roundTo v F rm = (0, 0b10000)) ∧
  ∀ neg m e, m ≠ 0 → roundFw (.fin neg m e false) rm = roundedFw rm neg m e

/-- R93 to R97: the operations on fw32, by the values of their operands: exact, then rounded once. -/
def Arithmetic (rm : Nat) (a b c : W32) : Prop :=
  let va := valueOf .fw32 a.toNat
  let vb := valueOf .fw32 b.toNat
  let vc := valueOf .fw32 c.toNat
  let nan : W32 := 0x7FF00000
  let inf (neg : Bool) : W32 := if neg then 0xFFE00000 else 0x7FE00000
  let zero (neg : Bool) : W32 := if neg then 0x80000000 else 0
  (va = .nan ∨ vb = .nan → fwAdd rm a b = (nan, 0) ∧ fwSub rm a b = (nan, 0) ∧ fwMul rm a b = (nan, 0) ∧ fwFma rm a b c = (nan, 0)) ∧
  (∀ s m e t n f, va = .fin s m e false → vb = .fin t n f false →
    fwAdd rm a b = roundedSum rm s m e t n f ∧ fwSub rm a b = roundedSum rm s m e (!t) n f ∧
      fwMul rm a b = roundedFw rm (s != t) (m * n) (e + f) ∧
      (∀ u k g, vc = .fin u k g false → fwFma rm a b c = roundedSum rm (s != t) (m * n) (e + f) u k g) ∧
      (∀ u, vc = .zero u → fwFma rm a b c = roundedFw rm (s != t) (m * n) (e + f)) ∧
      (∀ u, vc = .inf u → fwFma rm a b c = (inf u, 0)) ∧ (vc = .nan → fwFma rm a b c = (nan, 0))) ∧
  (∀ s t, va = .zero s → vb = .zero t →
    fwAdd rm a b = (zero (if s = t then s else rm == 2), 0) ∧ fwSub rm a b = (zero (if s ≠ t then s else rm == 2), 0) ∧
      fwMul rm a b = (zero (s != t), 0)) ∧
  (∀ s, va = .zero s → (∃ t, vb = .zero t) ∨ (∃ t n f, vb = .fin t n f false) →
    let p := s != b.toNat.testBit 31
    fwFma rm a b c = fwFma rm b a c ∧ (vc = .nan → fwFma rm a b c = (nan, 0)) ∧ (∀ u, vc = .inf u → fwFma rm a b c = (inf u, 0)) ∧
      (∀ u k g, vc = .fin u k g false → fwFma rm a b c = roundedFw rm u k g) ∧
      ∀ u, vc = .zero u → fwFma rm a b c = (zero (if p = u then u else rm == 2), 0)) ∧
  (∀ s t n f, va = .zero s → vb = .fin t n f false →
    fwAdd rm a b = roundedFw rm t n f ∧ fwAdd rm b a = roundedFw rm t n f ∧ fwSub rm a b = roundedFw rm (!t) n f ∧
      fwSub rm b a = roundedFw rm t n f ∧ fwMul rm a b = (zero (s != t), 0) ∧ fwMul rm b a = (zero (s != t), 0)) ∧
  (∀ s, va = .inf s → vb ≠ .nan →
    fwAdd rm a b = (if vb = .inf (!s) then (nan, 0b10000) else (inf s, 0)) ∧
      fwSub rm a b = (if vb = .inf s then (nan, 0b10000) else (inf s, 0)) ∧
      ((∃ t, vb = .zero t) → fwMul rm a b = (nan, 0b10000) ∧ fwMul rm b a = (nan, 0b10000) ∧ fwFma rm a b c = (nan, 0b10000)) ∧
      ((∀ t, vb ≠ .zero t) → fwMul rm a b = (inf (s != b.toNat.testBit 31), 0) ∧ fwMul rm b a = (inf (s != b.toNat.testBit 31), 0) ∧
        fwFma rm a b c = fwFma rm b a c ∧ fwFma rm a b c = (if vc = .nan then (nan, 0) else if vc = .inf (s == b.toNat.testBit 31) then (nan, 0b10000)
          else (inf (s != b.toNat.testBit 31), 0)))) ∧
  (va ≠ .nan → vb ≠ .nan →
    (place 1 a < place 1 b → fwMin a b = a ∧ fwMin b a = a ∧ fwMax a b = b ∧ fwMax b a = b) ∧
      fwLt a b = (decide (place 0 a < place 0 b), 0) ∧ fwLe a b = (decide (place 0 a ≤ place 0 b), 0) ∧
      fwEq a b = decide (place 0 a = place 0 b)) ∧
  (va = .nan → fwMin a b = (if vb = .nan then nan else b) ∧ fwMin b a = fwMin a b ∧ fwMax a b = fwMin a b ∧ fwMax b a = fwMin a b ∧
    fwLt a b = (false, 0b10000) ∧ fwLt b a = (false, 0b10000) ∧ fwLe a b = (false, 0b10000) ∧ fwLe b a = (false, 0b10000) ∧
    fwEq a b = false ∧ fwEq b a = false ∧ fwAbs a = nan ∧ fwNeg a = nan) ∧
  (va ≠ .nan → fwAbs a = BitVec.ofNat 32 (a.toNat % 2 ^ 31) ∧ fwNeg a = a ^^^ 0x80000000) ∧
  ∀ s m e, va = .fin s m e false →
    (∀ n, fwScale rm a n = roundedFw rm s m (e + n)) ∧
    (∀ lo hi : Int, lo ≤ 0 → 0 ≤ hi →
      let k := nearest rm s (m * 2 ^ e.toNat) (2 ^ (-e).toNat)
      let z : Int := if s then -k.1 else k.1
      fwToInt rm lo hi a = if z < lo then (lo, 0b10000) else if hi < z then (hi, 0b10000) else (z, if k.2 then 0 else 0b00001)) ∧
    (let r := rounded .fw32 rm s 1 m (-e); fwRcp rm a = (BitVec.ofNat 32 r.1, r.2)) ∧
    (s = false → let r := packed .fw32 rm false (leading 1 m (-e) / 2) (nearestRoot rm m e); fwRsq rm a = (BitVec.ofNat 32 r.1, r.2)) ∧
    (let n := m * 2 ^ e.toNat; let d := 2 ^ (-e).toNat
      n % d = 0 → let r := rounded .fw32 rm false 1 1 (if s then -(n / d : Nat) else (n / d : Nat)); fwExp2 rm a = (BitVec.ofNat 32 r.1, r.2)) ∧
    (s = false → m = 2 ^ 21 → fwLog2 rm a = roundedFw rm (decide (e + 21 < 0)) (e + 21).natAbs 0)

end Sys2Proof.Claims

/-- R93 to R97, R189 to R191, R194, R195, R306: a reached float word writes its result to gD, ORs its flags into fflags, changes nothing else, and goes
on; it rounds as frm says. A float compare writes its bit to pD and ORs its flags into fflags. The arithmetic on fw32, which the fabric shares, is
exact and then rounded once: encodings are read, and numbers rounded, with their flags, in the statement's own arithmetic. (That a number below the least
normal one which rounds up to it raises UF is the model's reading: log 114.) -/
def Obligations.FloatWords : Prop :=
  (∀ rm, rm < 4 → Claims.Rounding rm ∧ ∀ a b c, Claims.Arithmetic rm a b c) ∧
  ∀ (s : State) (x : Txn) (p : Pr) (d a : Reg),
    (∀ b, Reached s x p .scalar [a, b] [] →
      ∀ q ∈ Claims.floatTwo p d a b (bits s.thr.frm.toNat 1 0) (s.readG a) (s.readG b),
        ∃ t, exec q.1 s = .next t ∧ Claims.WroteFloat s t x d (q.2.1.setWidth 64) q.2.2) ∧
    (∀ b, Reached s x p .scalar [a, b, d] [] →
      let r := fwFma (bits s.thr.frm.toNat 1 0) ((s.readG a).setWidth 32) ((s.readG b).setWidth 32) ((s.readG d).setWidth 32)
      ∃ t, exec (.ffma p d a b) s = .next t ∧ Claims.WroteFloat s t x d (r.1.setWidth 64) r.2) ∧
    (Reached s x p .scalar [a] [] →
      ∀ q ∈ Claims.floatOne p d a (bits s.thr.frm.toNat 1 0) (Fmt.ofB8F (bits s.thr.frm.toNat 12 8)) (s.readG a),
        ∃ t, exec q.1 s = .next t ∧ Claims.WroteFloat s t x d q.2.1 q.2.2) ∧
    ∀ (e : PReg) (b : Reg), Reached s x p .scalar [a, b] [] →
      ∀ q ∈ Claims.floatCompares p e a b (s.readG a) (s.readG b),
        ∃ t, exec q.1 s = .next t ∧ (∀ r, t.readP r = if r = e ∧ e ≠ 0 then q.2.1 else s.readP r) ∧
          t.w = s.w.setThread s.turn { s.thr with p := t.thr.p, fflags := s.thr.fflags ||| q.2.2.setWidth 64 } ∧ Onward s t x 1

/-! ## Loads, stores and indivisible words -/

namespace Sys2Proof.Claims

/-- A load: the instruction, its address, bytes, sign extension, ordering and cache hint (R171, R172, R198, R199, R202). -/
structure LoadForm where
  i : Instr
  va : Word
  n : Nat
  signed : Bool
  order : Order
  touch : Touch

/-- The loads that scale an immediate, or take none, for the value `x` of gA. -/
def loads (p : Pr) (d a : Reg) (imm : BitVec 10) (x : Word) : List LoadForm :=
  let at_ (n : Nat) : Word := x + imm.signExtend 64 * BitVec.ofNat 64 n
  [⟨.ldB p d a imm, at_ 1, 1, true, .plain, Touch.load⟩, ⟨.ldBn p d a imm, at_ 1, 1, false, .plain, Touch.load⟩,
   ⟨.ldH p d a imm, at_ 2, 2, true, .plain, Touch.load⟩, ⟨.ldHn p d a imm, at_ 2, 2, false, .plain, Touch.load⟩,
   ⟨.ldW p d a imm, at_ 4, 4, true, .plain, Touch.load⟩, ⟨.ldWn p d a imm, at_ 4, 4, false, .plain, Touch.load⟩,
   ⟨.ldD p d a imm, at_ 8, 8, false, .plain, Touch.load⟩,
   ⟨.ldNa p d a, x, 8, false, .plain, { Touch.load with na := true }⟩,
   ⟨.ldAcqCore p d a, x, 8, false, .acqRel, Touch.load⟩, ⟨.ldAcqDie p d a, x, 8, false, .acqRel, Touch.load⟩,
   ⟨.ldAcqPkg p d a, x, 8, false, .acqRel, Touch.load⟩, ⟨.ldAcqSys p d a, x, 8, false, .acqRel, Touch.load⟩]

/-- The indexed loads, for the values `x` of gA and `y` of gB. -/
def indexedLoads (p : Pr) (d a b : Reg) (x y : Word) : List LoadForm :=
  [⟨.ldxD p d a b, x + 8 * y, 8, false, .plain, Touch.load⟩, ⟨.ldxW p d a b, x + 4 * y, 4, true, .plain, Touch.load⟩]

/-- A value of `n` bytes extended to 64 bits (R198). -/
def extended (signed : Bool) (n v : Nat) : Word := if signed then BitVec.ofInt 64 (sgn (8 * n) v) else BitVec.ofNat 64 v

/-- The bytes that the thread reads at the parts of a load, as a number: those of memory, with its own stores that wait at the store path
laid over them (R200). -/
def loadedValue (s : State) (w : World) (gs : List Seg) : Nat := leNat (loadSegs w (ownView s.w s.turn s.w.mem) gs)

/-- A wait that has not ended stops the block (R133, R213): it is abandoned whole, and the thread waits and runs it again from its first word
when the wait ends. What the block did is undone on every thread, in memory and in every queue; a flag that a `wfe` of it has taken stays
taken (R217), and the accesses of a stream that `sfence` waits for are those issued before the block first began to wait (R206). -/
structure Waits (s t : State) (x : Txn) (c : Wait) : Prop where
  closed : t.txn = none
  agenda : t.agenda = s.agenda
  turn : t.turn = nextTurn t.w s.turn
  thread : t.w.thread s.turn = { x.saved.thread s.turn with
    phase := .waiting, wait := some c, since := (t.w.thread s.turn).since, flag := s.thr.flag
    wakes := max x.wakes (x.saved.thread s.turn).wakes }
  since : ∀ l, (x.saved.thread s.turn).since = some l → (t.w.thread s.turn).since = some l
  others : ∀ u, u ≠ s.turn → t.w.thread u = x.saved.thread u
  rest : t.w = { x.saved with cycle := s.w.cycle, fresh := s.w.fresh, threads := t.w.threads }

/-- Counts that are not yet within a `waitc` hold the commit of the block (R212): the word goes on, the first such wait is kept, and nothing
else of the device differs. -/
def Holds (s t : State) (x : Txn) (c : Wait) : Prop :=
  t.w = s.w ∧ t.turn = s.turn ∧ t.agenda = s.agenda ∧ ∃ y, t.txn = some y ∧ y.idx = x.idx + 1 ∧ y.saved = x.saved ∧ y.base = x.base ∧
    y.lines = x.lines ∧ y.nwrd = x.nwrd ∧ y.words = x.words ∧ y.sev = x.sev ∧ y.held = x.held.or (some c)

/-- What a load does whose parts are found: where it reads a register that a store of the thread's own, which is not performed, may still write,
the block waits (R361); else gD holds the bytes read, only the caches and the counts of traffic may differ, and
memory, registers and the other threads do not. With no store waiting at the thread's store path the bytes are those of memory. -/
def Loaded (s t : State) (x : Txn) (k : Nat) (f : LoadForm) (d : Reg) (w : World) (gs : List Seg) : Prop :=
  if mmioWaits s f.order f.va.toNat f.n = true then Waits s t x .path
  else t.w = (touchSegs w s.turn f.touch gs).setThread s.turn (s.thr.writeG d (extended f.signed f.n (loadedValue s w gs))) ∧
    t.w.mem = s.w.mem ∧ (∀ r, t.readG r = regs s d (extended f.signed f.n (loadedValue s w gs)) r) ∧ Onward s t x k ∧
    (s.thr.path = [] → loadedValue s w gs = leNat (loadSegs w s.w.mem gs))

/-- A store: the instruction, its address, bytes, ordering and cache hint. -/
structure StoreForm where
  i : Instr
  va : Word
  n : Nat
  order : Order
  touch : Touch

/-- The stores that scale an immediate, or take none, for the value `x` of gA. -/
def stores (p : Pr) (d a : Reg) (imm : BitVec 10) (x : Word) : List StoreForm :=
  let at_ (n : Nat) : Word := x + imm.signExtend 64 * BitVec.ofNat 64 n
  [⟨.stB p d a imm, at_ 1, 1, .plain, Touch.store⟩, ⟨.stH p d a imm, at_ 2, 2, .plain, Touch.store⟩,
   ⟨.stW p d a imm, at_ 4, 4, .plain, Touch.store⟩, ⟨.stD p d a imm, at_ 8, 8, .plain, Touch.store⟩,
   ⟨.stNa p d a, x, 8, .plain, { Touch.store with na := true }⟩,
   ⟨.stRelCore p d a, x, 8, .acqRel, Touch.store⟩, ⟨.stRelDie p d a, x, 8, .acqRel, Touch.store⟩,
   ⟨.stRelPkg p d a, x, 8, .acqRel, Touch.store⟩, ⟨.stRelSys p d a, x, 8, .acqRel, Touch.store⟩]

/-- The indexed stores. -/
def indexedStores (p : Pr) (d a b : Reg) (x y : Word) : List StoreForm :=
  [⟨.stxD p d a b, x + 8 * y, 8, .plain, Touch.store⟩, ⟨.stxW p d a b, x + 4 * y, 4, .plain, Touch.store⟩]

/-- What a store does whose parts are found. For every form the device is as `storeSegs` leaves it, a release, and every store of a block with a
fence, behind the stores that are not performed (R202), and no register changes; for one in memory without poison that no store at the
thread's store path holds up, the stored bytes are the low bytes of the value and every other byte reads as before; one that must wait
there, or that needs the answer of another agent (host memory, a peer), stands at the store path, and memory reads as before (R196, R200). -/
def Stored (s t : State) (x : Txn) (k : Nat) (sp : Space) (touch : Touch) (o : Order) (w : World) (gs : List Seg) (bs : List Byte) : Prop :=
  let rel := o == .acqRel || blockFenced s
  t.w = storeSegs w s.turn sp touch rel gs bs ∧ Onward s t x k ∧
    (Unpoisoned s.w → InMemory s.w gs → (∀ g ∈ gs, heldUp s.w s.turn rel g = false) → (∀ g ∈ gs, answers s.w g.pa = false) →
      (∀ r, t.readG r = s.readG r) ∧ ∀ c, byteAt t.w.mem c = (storedByte gs bs c).getD (byteAt s.w.mem c)) ∧
    ((∀ g ∈ gs, heldUp s.w s.turn rel g = true ∨ answers s.w g.pa = true) →
      (∀ r, t.readG r = s.readG r) ∧ t.w.mem = s.w.mem ∧ (gs ≠ [] → s.thr.path.length < t.thr.path.length))

end Sys2Proof.Claims

/-- R171, R172, R198, R199, R202: a load that is reached, and that no fence holds back, whose access passes its checks (R196, R197) reads its bytes into gD, extended as
its form says, and changes no byte of memory and no other register. A load of a register behind a store of the thread's own to a register that
is not performed waits for it (R361): the block is abandoned, and runs again. (That the block then waits whole and runs again from its first word
is log 8; which loads wait for which stores of the thread is log 12: the model's readings.) -/
def Obligations.LoadWords : Prop :=
  ∀ (s : State) (x : Txn) (p : Pr) (d a : Reg) (w : World) (gs : List Seg),
    (∀ imm, Accesses s x p [a] [] → ∀ f ∈ Claims.loads p d a imm (s.readG a),
      checkAccess s.w s.core (wordSpace s) .load f.order f.va.toNat f.n = (w, .ok gs) →
        ∃ t, exec f.i s = .next t ∧ Claims.Loaded s t x 1 f d w gs) ∧
    (∀ b, Accesses s x p [a, b] [] → ∀ f ∈ Claims.indexedLoads p d a b (s.readG a) (s.readG b),
      checkAccess s.w s.core (wordSpace s) .load f.order f.va.toNat f.n = (w, .ok gs) →
        ∃ t, exec f.i s = .next t ∧ Claims.Loaded s t x 1 f d w gs) ∧
    ∀ imm : BitVec 32, Accesses s x p [a] [] →
      let f : Claims.LoadForm := ⟨.ldL p d a imm, s.readG a + imm.signExtend 64, 8, false, .plain, Touch.load⟩
      checkAccess s.w s.core (wordSpace s) .load f.order f.va.toNat f.n = (w, .ok gs) →
        ∃ t, exec f.i s = .next t ∧ Claims.Loaded s t x 2 f d w gs

/-- R171, R172, R198, R199, R202: a reached store whose access passes its checks stores the low bytes of gD at its address, lowest
byte first (R3), and changes no other byte of memory and no register. (That a store to host memory or a peer is performed with its answer,
and the others with their block, is the model's reading of R196: log 27; what a fence holds back is log 12.) -/
def Obligations.StoreWords : Prop :=
  ∀ (s : State) (x : Txn) (p : Pr) (d a : Reg) (w : World) (gs : List Seg),
    (∀ imm, Reached s x p .other [d, a] [] → ∀ f ∈ Claims.stores p d a imm (s.readG a),
      checkAccess s.w s.core (wordSpace s) .store f.order f.va.toNat f.n = (w, .ok gs) →
        ∃ t, exec f.i s = .next t ∧ Claims.Stored s t x 1 (wordSpace s) f.touch f.order w gs (leBytes f.n (s.readG d).toNat)) ∧
    (∀ b, Reached s x p .other [d, a, b] [] → ∀ f ∈ Claims.indexedStores p d a b (s.readG a) (s.readG b),
      checkAccess s.w s.core (wordSpace s) .store f.order f.va.toNat f.n = (w, .ok gs) →
        ∃ t, exec f.i s = .next t ∧ Claims.Stored s t x 1 (wordSpace s) f.touch f.order w gs (leBytes f.n (s.readG d).toNat)) ∧
    ∀ imm : BitVec 32, Reached s x p .other [d, a] [] →
      checkAccess s.w s.core (wordSpace s) .store .plain (s.readG a + imm.signExtend 64).toNat 8 = (w, .ok gs) →
        ∃ t, exec (.stL p d a imm) s = .next t ∧
          Claims.Stored s t x 2 (wordSpace s) Touch.store .plain w gs (leBytes 8 (s.readG d).toNat)

namespace Sys2Proof.Claims

/-- The atomics of R204 but for compare and swap: the instruction, its bytes, and the new value from the old value `o` and the
operand `y`, both of that many bytes. -/
def atomics (p : Pr) (d a b : Reg) : List (Instr × Nat × (Nat → Nat → Nat)) :=
  let s64 (v : Nat) : Int := (BitVec.ofNat 64 v).toInt
  [(.amoadd p d a b, 8, fun o y => (o + y) % 2 ^ 64), (.amoand p d a b, 8, fun o y => o &&& y), (.amoor p d a b, 8, fun o y => o ||| y),
   (.amoxor p d a b, 8, fun o y => o ^^^ y), (.amomin p d a b, 8, fun o y => if s64 o ≤ s64 y then o else y),
   (.amomax p d a b, 8, fun o y => if s64 o ≤ s64 y then y else o), (.amominn p d a b, 8, fun o y => min o y),
   (.amomaxn p d a b, 8, fun o y => max o y), (.amoswap p d a b, 8, fun _ y => y),
   (.amoaddW p d a b, 4, fun o y => (o + y) % 2 ^ 32), (.amoswapW p d a b, 4, fun _ y => y)]

end Sys2Proof.Claims

/-- R131, R172, R196, R198: a load, store or indivisible word that is reached, and whose access fails a check, takes the trap of that check: the
block leaves no effect (the device is as it was when the block began, but for the time that has passed), and the thread enters its handler. An
ordered or indivisible access at an address that is not a multiple of its size takes an alignment trap, with the address in tval; R196 and R210
name `bwait` and `wstamp` among them. (That a `bwait` with gD all ones, which does not wait, makes its access and its checks too is the model's
choice: log 32. That a page that grants the mode no access is an access trap is its reading of R134 and R196: log 121.) -/
def Obligations.AccessTraps : Prop :=
  ∀ (s : State) (x : Txn) (p : Pr) (d a b : Reg),
    let fails (acc : Acc) (o : Order) (va : Word) (n : Nat) (e : Trap) : Prop := ∃ w, checkAccess s.w s.core (wordSpace s) acc o va.toNat n = (w, .error e)
    let traps (i : Instr) (e : Trap) : Prop := exec i s = .next (trapWord s e.code e.val)
    (∀ imm e, Accesses s x p [a] [] → ∀ f ∈ Claims.loads p d a imm (s.readG a), fails .load f.order f.va f.n e → traps f.i e) ∧
    (∀ e, Accesses s x p [a, b] [] → ∀ f ∈ Claims.indexedLoads p d a b (s.readG a) (s.readG b), fails .load f.order f.va f.n e → traps f.i e) ∧
    (∀ imm e, Reached s x p .other [d, a] [] → ∀ f ∈ Claims.stores p d a imm (s.readG a), fails .store f.order f.va f.n e → traps f.i e) ∧
    (∀ e, Reached s x p .other [d, a, b] [] → ∀ f ∈ Claims.indexedStores p d a b (s.readG a) (s.readG b),
      fails .store f.order f.va f.n e → traps f.i e) ∧
    (∀ (imm : BitVec 32) (e : Trap), let va := s.readG a + imm.signExtend 64
      (Accesses s x p [a] [] → fails .load .plain va 8 e → traps (.ldL p d a imm) e) ∧
      (Reached s x p .other [d, a] [] → fails .store .plain va 8 e → traps (.stL p d a imm) e)) ∧
    (∀ e, Accesses s x p [a, b] [] → ∀ q ∈ Claims.atomics p d a b, fails .atomic .atomic (s.readG a) q.2.1 e → traps q.1 e) ∧
    (∀ e, Accesses s x p [d, a, b] [] → ∀ q ∈ [(Instr.amocas p d a b, 8), (.amocasW p d a b, 4)],
      fails .atomic .atomic (s.readG a) q.2 e → traps q.1 e) ∧
    (∀ e, Accesses s x p [a] [] → fails .atomic .atomic (s.readG a) 8 e → traps (.barrive p d a) e) ∧
    (∀ e, Accesses s x p [d, a] [] → fails .load .atomic (s.readG a) 8 e → ∀ i ∈ [Instr.bwait p d a, .wstamp p d a], traps i e) ∧
    (∀ e, Accesses s x p [a, b] [] → fails .load .plain (s.readG b) 32 e → traps (.rinit p d a b) e) ∧
    ∀ (acc : Acc) (o : Order) (va : Word) (n : Nat), o ≠ .plain → va.toNat % n ≠ 0 → fails acc o va n ⟨0x08, va⟩

namespace Sys2Proof.Claims

/-- What an indivisible word does that finds the device at `w`, reads `old` in the parts `gs` and leaves `new` there, if anything (R204): gD
receives `v`, the new bytes are stored, and for parts in memory without poison nothing else of memory and no other register changes. -/
def Indivisible (s t : State) (x : Txn) (w : World) (gs : List Seg) (n : Nat) (new : Option Nat) (d : Reg) (v : Word) : Prop :=
  Onward s t x 1 ∧ (Unpoisoned w → InMemory w gs → (∀ g ∈ gs, answers w g.pa = false) →
    (∀ r, t.readG r = if r = d ∧ d ≠ 0 then v else (w.thread s.turn).readG r) ∧ (∀ u, u ≠ s.turn → t.w.thread u = w.thread u) ∧
    ∀ c, byteAt t.w.mem c = (new.bind fun u => storedByte gs (leBytes n u) c).getD (byteAt w.mem c))

/-- An indivisible word `i` whose parts `gs` are found in `w`: it follows the stores of its thread that it must (R200, R202, R209), which have their
answers first; while one of them is not performed the block stops at it and waits, and it is not performed itself (R205), and else it does as `effect`
says from the device as it then is. With nothing to wait for that is the device as it was, but for caches. -/
def Follows (s : State) (x : Txn) (w : World) (rel : Bool) (gs : List Seg) (i : Instr) (effect : State → World → Prop) : Prop :=
  let r := rel || blockFenced s
  let v := rmwReady w s.turn (wordSpace s) r gs
  ((∀ g ∈ gs, heldUp w s.turn r g = false) → v = w ∧ w.mem = s.w.mem ∧ w.threads = s.w.threads) ∧
    ∃ t, exec i s = .next t ∧ if rmwWaits v s.turn (wordSpace s) r gs = true then Waits s t x .path else effect t v

/-- The bytes that the parts of an access hold before it. -/
def oldValue (w : World) (gs : List Seg) : Nat := leNat (loadSegs w w.mem gs)

end Sys2Proof.Claims

/-- R200, R204, R205: an atomic that is reached, and that no fence holds back, whose access passes its checks stores the new value and gives gD the
old one, sign-extended from 4 bytes where the form has 4; compare and swap stores only when the old value is the one expected in gD. It
follows the thread's own stores to its bytes. (That its block waits for them is the model's: log 27.) -/
def Obligations.AtomicWords : Prop :=
  ∀ (s : State) (x : Txn) (p : Pr) (d a b : Reg) (w : World) (gs : List Seg),
    (Accesses s x p [a, b] [] → ∀ q ∈ Claims.atomics p d a b,
      checkAccess s.w s.core (wordSpace s) .atomic .atomic (s.readG a).toNat q.2.1 = (w, .ok gs) →
        Claims.Follows s x w false gs q.1 fun t v =>
          let o := Claims.oldValue v gs
          Claims.Indivisible s t x v gs q.2.1 (some (q.2.2 o ((s.readG b).toNat % 2 ^ (8 * q.2.1)))) d (BitVec.ofInt 64 (sgn (8 * q.2.1) o))) ∧
    (Accesses s x p [d, a, b] [] → ∀ q ∈ [(Instr.amocas p d a b, 8), (.amocasW p d a b, 4)],
      checkAccess s.w s.core (wordSpace s) .atomic .atomic (s.readG a).toNat q.2 = (w, .ok gs) →
        Claims.Follows s x w false gs q.1 fun t v =>
          let o := Claims.oldValue v gs
          Claims.Indivisible s t x v gs q.2
            (if o = (s.readG d).toNat % 2 ^ (8 * q.2) then some ((s.readG b).toNat % 2 ^ (8 * q.2)) else none) d
            (BitVec.ofInt 64 (sgn (8 * q.2) o)))

/-- R208, R209: an arrival at a barrier word adds one to the arrivals, or, as the last one expected, sets them to zero and turns the
phase; gD receives the phase it counts toward. A word that is malformed or full is left alone, and gD is all ones. An arrival is a release: it
follows every store of the thread. (That its block waits for them is the model's: log 27.) -/
def Obligations.BarrierArrival : Prop :=
  ∀ (s : State) (x : Txn) (p : Pr) (d a : Reg) (w : World) (gs : List Seg), Accesses s x p [a] [] →
    checkAccess s.w s.core (wordSpace s) .atomic .atomic (s.readG a).toNat 8 = (w, .ok gs) →
      Claims.Follows s x w true gs (.barrive p d a) fun t v =>
        let o := Claims.oldValue v gs
        let expected := o % 2 ^ 16
        let arrived := o / 2 ^ 16 % 2 ^ 16
        let phase := o / 2 ^ 32 % 2
        let good := expected ≠ 0 ∧ o / 2 ^ 33 % 2 ^ 31 = 0 ∧ arrived < expected
        (good → arrived + 1 < expected →
          Claims.Indivisible s t x v gs 8 (some (phase * 2 ^ 32 + (arrived + 1) * 2 ^ 16 + expected)) d (BitVec.ofNat 64 phase)) ∧
        (good → arrived + 1 = expected → Claims.Indivisible s t x v gs 8 (some ((1 - phase) * 2 ^ 32 + expected)) d (BitVec.ofNat 64 phase)) ∧
        (¬ good → Claims.Indivisible s t x v gs 8 none d (BitVec.allOnes 64))

namespace Sys2Proof.Claims

/-- The value that a waiting word reads at gA: memory as it stands without the indivisible words of its own block (R205). -/
def waited (s : State) (x : Txn) (w : World) (gs : List Seg) : Nat :=
  leNat (loadSegs w (ownView s.w s.turn (x.plain.getD s.w.mem)) gs)

end Sys2Proof.Claims

/-- R209, R210, R213: `bwait` goes on when the barrier's phase differs from bit 0 of gD or gD is all ones, and `wstamp` when bits
61..0 of the stamp have reached those of gD or bit 63 is set, with no change to memory or a register; else the block waits. (That no later
word of it runs before the wait ends is the model's choice, log 42, and that the block is abandoned and runs again from its first word is
its reading, log 8.) -/
def Obligations.BarrierAndStampWaits : Prop :=
  ∀ (s : State) (x : Txn) (p : Pr) (d a : Reg) (w : World) (gs : List Seg), Accesses s x p [d, a] [] →
    checkAccess s.w s.core (wordSpace s) .load .atomic (s.readG a).toNat 8 = (w, .ok gs) →
      let v := Claims.waited s x w gs
      let g := (s.readG d).toNat
      let goes (i : Instr) : Prop := ∃ t, exec i s = .next t ∧ t.w.mem = s.w.mem ∧ t.w.threads = s.w.threads ∧ Onward s t x 1
      (g = 2 ^ 64 - 1 ∨ v / 2 ^ 32 % 2 ≠ g % 2 → goes (.bwait p d a)) ∧
      (g ≠ 2 ^ 64 - 1 → v / 2 ^ 32 % 2 = g % 2 →
        ∃ t, exec (.bwait p d a) s = .next t ∧ Claims.Waits s t x (.barrier (s.readG a).toNat (g % 2 == 1))) ∧
      (g % 2 ^ 62 ≤ v % 2 ^ 62 ∨ v / 2 ^ 63 % 2 = 1 → goes (.wstamp p d a)) ∧
      (v % 2 ^ 62 < g % 2 ^ 62 → v / 2 ^ 63 % 2 = 0 →
        ∃ t, exec (.wstamp p d a) s = .next t ∧ Claims.Waits s t x (.stamp (s.readG a).toNat g))

namespace Sys2Proof.Claims

/-- What `sfence` on stream number `v` waits for as the block of thread `t` began at `w` (R206): a store, atomic or chain access of the stream, bound
in a region of the thread, that is not performed, and, once the block has waited, that had been issued when it began to. -/
def StreamWait (w : World) (t v : Nat) : Prop :=
  v < 64 ∧ (w.region (4 * (t / 4) + v / 16)).owner = some t ∧ (w.stream (64 * (t / 4) + v)).bound = true ∧
    ∃ e y a, (e, y) ∈ w.elems ∧ eCore e = t / 4 ∧ a ∈ y.acc ∧ a.op ≠ .none ∧ a.op ≠ .load ∧ a.phase ≠ .done ∧
      streamKey w e a.h = 64 * (t / 4) + v ∧ ∀ l, (w.thread t).since = some l → (e, a.h, a.nth) ∈ l

/-- The memory writes of the store-class commands of thread `t` (R212): `cfgst` one for each element and one for the region (R227), `rgsave` one for
each 64 bytes of its area (the model's reading: log 13). -/
def commandStores (w : World) (t : Nat) : Nat :=
  (w.regions.map fun (r, g) =>
    let n := 256 * (w.region r).shape.1 * (w.region r).shape.2
    let area := roundUp (0x2000 + 384 * n + 8 * tokenCount w r) 64 / 64
    if g.owner = some t then
      (g.cq.map fun c => match c.1 with
        | .status _ => n + 1
        | .save _ => area
        | _ => 0).sum + (if g.saveAt.isSome then area else 0)
    else 0).sum

/-- The copies of thread `t` that have not reached their completion points, and how many of them have a follow-on (R212, R243). -/
def copiesOf (w : World) (t : Nat) : List CopyCmd :=
  [0, 1, 2, 3].flatMap fun i => ((w.channel (4 * (t / 4) + i)).cur.toList ++ (w.channel (4 * (t / 4) + i)).queue).filter fun y => y.thread == t

/-- The `mtile`, `mtilet`, `mrec` and `mread` commands of thread `t` in the matrix array of its core (R212). -/
def tilesOf (w : World) (t : Nat) : List MatCmd :=
  ((w.matrix (t / 4)).cur.toList ++ (w.matrix (t / 4)).queue).filter fun x => x.thread == t && (match x.op with
    | .zero .. => false
    | _ => true)

/-- What `waitc` counts (R212): stores that are not performed, one that crosses a page as one, copies, and tile operations; a field at its
maximum sets no limit. -/
def CountedWithin (w : World) (t st cp tl : Nat) : Prop :=
  (st = 63 ∨ storesLeft w t + commandStores w t ≤ st) ∧ (cp = 31 ∨ (copiesOf w t).length ≤ cp) ∧
    (tl = 31 ∨ (tilesOf w t).length + ((copiesOf w t).filter (·.follow.isSome)).length ≤ tl)

end Sys2Proof.Claims

/-- R206, R212, R213, R217, R222: `sfence` goes on when the stream has no access that it waits for, `waitc` when the counts lie within its
fields, and `wfe` when the event flag is set, which it clears, or when it cleared it before the block had to wait again; else `waitc` holds
the commit, and at the other two the block waits. What they count is stated beside them: a stream's stores, atomics and chain accesses; the
stores, copies and tile operations of the thread, whole stores and not their parts. (The counts are those as the block began, and loads count for nothing: log 13; that a block
stops at once at a wait is log 42, that it is abandoned and runs again is log 8: the model's choices.) -/
def Obligations.CountStreamAndEventWaits : Prop :=
  ∀ (s : State) (x : Txn) (p : Pr),
    (∀ d, Reached s x p .other [d] [] →
      let v := (s.readG d).toNat
      (¬ Claims.StreamWait x.saved s.turn v → ∃ t, exec (.sfence p d) s = .next t ∧ t.w = s.w ∧ Onward s t x 1) ∧
      (Claims.StreamWait x.saved s.turn v → ∃ t, exec (.sfence p d) s = .next t ∧ Claims.Waits s t x (.stream v))) ∧
    ((∀ y ∈ (x.saved.thread s.turn).path, y.off = 0) → storesLeft x.saved s.turn = (x.saved.thread s.turn).path.length) ∧
    (∀ y z, (x.saved.thread s.turn).path = [y, z] → y.off = 0 → z.off ≠ 0 → z.off = y.len → z.va = y.va + y.len → z.size = y.size →
      storesLeft x.saved s.turn = 1) ∧
    (Reached s x p .other [] [] → ∀ ld st cp tl,
      (Claims.CountedWithin x.saved s.turn st.toNat cp.toNat tl.toNat →
        ∃ t, exec (.waitc p ld st cp tl) s = .next t ∧ t.w = s.w ∧ Onward s t x 1) ∧
      (¬ Claims.CountedWithin x.saved s.turn st.toNat cp.toNat tl.toNat →
        ∃ t, exec (.waitc p ld st cp tl) s = .next t ∧ Claims.Holds s t x (.counts ld.toNat st.toNat cp.toNat tl.toNat))) ∧
    (Reached s x p .other [] [] →
      let passes (w : World) : Prop :=
        ∃ t y, exec (.wfe p) s = .next t ∧ t.w = w ∧ t.txn = some y ∧ y.wakes = x.wakes + 1 ∧ Onward s t x 1
      (x.wakes < s.thr.wakes → passes s.w) ∧
      (s.thr.wakes ≤ x.wakes → s.thr.flag = true → passes (s.w.setThread s.turn { s.thr with flag := false })) ∧
      (s.thr.wakes ≤ x.wakes → s.thr.flag = false → ∃ t, exec (.wfe p) s = .next t ∧ Claims.Waits s t x .flag))

/-- R207: `qfence` with no queue named does nothing; with some it takes the next place in command order and stands for the thread
from there, behind those of the thread's earlier fences that still hold commands back, and nothing else differs. (Which of them still do is the
model's `standingFences`: log 72.) -/
def Obligations.QueueFence : Prop :=
  ∀ (s : State) (x : Txn) (p : Pr) (d : Reg), Reached s x p .other [d] [] →
    let m := (s.readG d).toNat % 2 ^ 7
    (m = 0 → ∃ t, exec (.qfence p d) s = .next t ∧ t.w = s.w ∧ Onward s t x 1) ∧
    (m ≠ 0 → ∃ t, exec (.qfence p d) s = .next t ∧ Onward s t x 1 ∧
      t.w = { s.w with cmdSeq := s.w.cmdSeq + 1 }.setThread s.turn
        { s.thr with qfences := standingFences s.w s.turn ++ [(s.w.cmdSeq + 1, m)] } ∧
      (∀ f ∈ standingFences s.w s.turn, f ∈ s.thr.qfences) ∧
      ∀ f ∈ s.thr.qfences, (∃ q ∈ pending s.w s.turn, f.2.testBit q.1 = true ∧ q.1 ≠ 6 ∧ q.2 < f.1) → f ∈ standingFences s.w s.turn)

/-- R199, R202, R203, R217, R220: a reached `nop` only goes on, and so does a fence, which stands behind every store at the thread's store path;
while a fence stands behind a store of an earlier block that is not performed, a later load or command of the thread waits. `yield` marks the
thread to be passed over, and `sev` acts when
the block commits; a hint that finds its line changes no byte of memory and no register. (That a fence waits for nothing itself, and holds what
comes after it, is the model's reading: log 12, log 27.) -/
def Obligations.FencesAndHints : Prop :=
  ∀ (s : State) (x : Txn) (p : Pr),
    (Reached s x p .other [] [] →
      (∃ t, exec (.nop p) s = .next t ∧ t.w = s.w ∧ Onward s t x 1) ∧
      (∀ i ∈ [Instr.fenceCore p, .fenceDie p, .fencePkg p, .fenceSys p],
        ∃ t y, exec i s = .next t ∧ t.w = s.w.setThread s.turn { s.thr with path := s.thr.path.map fun z => { z with fenced := true } } ∧
          t.txn = some y ∧ y.fenced = true ∧ Onward s t x 1) ∧
      (∃ t, exec (.yield p) s = .next t ∧ t.w = s.w.setThread s.turn { s.thr with yielded := true } ∧ Onward s t x 1) ∧
      (∃ t y, exec (.sev p) s = .next t ∧ t.w = s.w ∧ t.txn = some y ∧ y.sev = true ∧ Onward { s with txn := some { x with sev := true } } t { x with sev := true } 1)) ∧
    (∀ d a b, Reached s x p .other [d, a, b] [] →
      (x.fenced = true ∧ (x.saved.thread s.turn).path ≠ [] ∨ ∃ y ∈ (x.saved.thread s.turn).path, y.fenced = true) →
      ∀ imm, ∀ i ∈ (Claims.loads p d a imm (s.readG a)).map (·.i) ++ (Claims.atomics p d a b).map (·.1) ++
          [Instr.barrive p d a, .cpy p d a, .selcfg p d, .hwfeed p d a b, .mtile p d a b, .cfgsw p d, .tenq p d a],
        ∃ t, exec i s = .next t ∧ Claims.Waits s t x .path) ∧
    (∀ a, Accesses s x p [a] [] →
      (∃ t, exec (.pref p a) s = .next t ∧ t.w.mem = s.w.mem ∧ t.w.threads = s.w.threads ∧ Onward s t x 1) ∧
      (∀ w gs, checkAccess s.w s.core (wordSpace s) .load .plain (s.readG a).toNat 1 = (w, .ok gs) → ∀ i ∈ [Instr.clean p a, .flush p a],
        ∃ t, exec i s = .next t ∧ t.w.mem = s.w.mem ∧ t.w.threads = s.w.threads ∧ Onward s t x 1))

/-- R149, R150, R211: `rinit` loads the range unit that gA names from its descriptor and gives 0; it gives 1 for an invalid descriptor
and 2 for a number above 255, and loads nothing. `rget`, which no fence holds back, takes the next chunk: its start to gD and its count to gB.
(With gD and gB the same register, that register holds a free value: log 3.) -/
def Obligations.RangeUnits : Prop :=
  ∀ (s : State) (x : Txn) (p : Pr) (d a b : Reg),
    (∀ w gs, Accesses s x p [a, b] [] → checkAccess s.w s.core (wordSpace s) .load .plain (s.readG b).toNat 32 = (w, .ok gs) →
      let u := (s.readG a).toNat
      let desc := Claims.loadedValue s w gs
      ∃ t, exec (.rinit p d a b) s = .next t ∧ t.w.mem = s.w.mem ∧ Onward s t x 1 ∧
        (∀ r, t.readG r = regs s d (if 255 < u then 2 else if (rangeOf desc).isNone then 1 else 0) r) ∧
        t.w.ranges = (match rangeOf desc with
          | some g => if 255 < u then s.w.ranges else tabSet (256 * s.die + u) g s.w.ranges
          | none => s.w.ranges)) ∧
    (Reached s x p .other [a] [] →
      let u := (s.readG a).toNat
      let g := s.w.range (256 * s.die + u)
      let n := min (min (max g.minc ((g.remain + g.work * g.fact - 1) / (g.work * g.fact))) g.remain) (2 ^ 32 - 1)
      let live := u ≤ 255 ∧ g.loaded = true
      ∃ t, exec (.rget p d a b) s = .next t ∧ t.w.mem = s.w.mem ∧ Onward s t x 1 ∧ (∀ r, r ≠ d → r ≠ b → t.readG r = s.readG r) ∧
        (live → (d ≠ b → t.readG d = (if d = 0 then 0 else g.nxt) ∧ t.readG b = if b = 0 then 0 else BitVec.ofNat 64 n) ∧
          t.w.ranges = tabSet (256 * s.die + u) { g with nxt := g.nxt + BitVec.ofNat 64 n, remain := g.remain - n } s.w.ranges) ∧
        (¬ live → t.readG d = 0 ∧ t.readG b = 0 ∧ t.w.ranges = s.w.ranges))

/-! ## Exits, traps and CSRs -/

namespace Sys2Proof.Claims

/-- Nothing stands between an exit of the open block and its commit: every later word is an instruction (R177), and nothing holds the
commit: no count (R212), no room (R222) and no budget (R141). -/
def MayLeave (s : State) (x : Txn) : Prop :=
  firstIllegal (x.words.drop x.idx) (x.idx + 1) false = none ∧ x.held = none ∧ x.saved.overrun x.saved s.w = false

/-- The phase of a thread that goes on: one that a word of its own block halted, by failing its task (R144, R148), stays halted. -/
def onwards (p : Phase) : Phase := if p = .halted then .halted else .running

/-- The block committed with general registers `f` and the thread goes on at `nxt`; a `sev` of the block sets the event flags of the
core's four threads (R130, R215, R217). Nothing else of the device differs. -/
structure Committed (s t : State) (x : Txn) (f : Reg → Word) (nxt : Word) : Prop where
  closed : t.txn = none
  agenda : t.agenda = s.agenda
  turn : t.turn = nextTurn t.w s.turn
  regs : ∀ r, (t.w.thread s.turn).readG r = f r
  thread : t.w.thread s.turn = { s.thr with
    g := (t.w.thread s.turn).g, pc := nxt, blkret := s.thr.blkret + 1, phase := onwards s.thr.phase, wait := none, dstep := false, since := none
    flag := s.thr.flag || x.sev, wakes := 0 }
  others : ∀ u, u ≠ s.turn → t.w.thread u =
    if x.sev = true ∧ coreOf u = s.core then { s.w.thread u with flag := true } else s.w.thread u
  rest : t.w = { s.w with threads := t.w.threads }

/-- The address behind the block (R168). -/
def nb (x : Txn) : Word := x.base + BitVec.ofNat 64 (128 * x.lines)

end Sys2Proof.Claims

/-- R216: the branches that end a block, and the next block that each chooses; `call` and `callx` leave the link in g1 and `bdec` the
count in gD, and a target from a register with a nonzero bit 6..0 takes an alignment trap, with the target in tval.
A branch whose predicate does not hold writes nothing (R173). -/
def Obligations.Branches : Prop :=
  ∀ (s : State) (x : Txn) (p : Pr), Claims.MayLeave s x →
    let aligned (v : Word) : Prop := v.toNat % 128 = 0
    let at_ (v : Word) : Word := x.base + 128 * v
    (Reached s x p .exit [] [] → ∀ off : BitVec 22,
      (∃ t, exec (.br p off) s = .next t ∧ Claims.Committed s t x s.readG (at_ (off.signExtend 64))) ∧
      (∃ t, exec (.call p off) s = .next t ∧ Claims.Committed s t x (regs s 1 (Claims.nb x)) (at_ (off.signExtend 64)))) ∧
    (∀ d, Reached s x p .exit [d] [] → ∀ off : BitVec 16,
      ∃ t, exec (.bdec p d off) s = .next t ∧ Claims.Committed s t x (regs s d (s.readG d - 1))
        (if s.readG d - 1 ≠ 0 then at_ (off.signExtend 64) else Claims.nb x)) ∧
    (∀ d, Reached s x p .other [d] [] →
      (aligned (s.readG d) →
        (∃ t, exec (.jmp p d) s = .next t ∧ Claims.Committed s t x s.readG (s.readG d)) ∧
        (∃ t, exec (.callx p d) s = .next t ∧ Claims.Committed s t x (regs s 1 (Claims.nb x)) (s.readG d))) ∧
      (¬ aligned (s.readG d) → ∀ i ∈ [Instr.jmp p d, .callx p d], exec i s = .next (trapWord s 0x08 (s.readG d)))) ∧
    (Reached s x p .other [1] [] →
      (aligned (s.readG 1) → ∃ t, exec (.ret p) s = .next t ∧ Claims.Committed s t x s.readG (s.readG 1)) ∧
      (¬ aligned (s.readG 1) → exec (.ret p) s = .next (trapWord s 0x08 (s.readG 1)))) ∧
    (∀ d a, Reached s x p .other [d, a] [] →
      let target := s.readG d + 128 * s.readG a
      (aligned (s.readG d) → ∃ t, exec (.tbr p d a) s = .next t ∧ Claims.Committed s t x s.readG target) ∧
      (¬ aligned (s.readG d) → exec (.tbr p d a) s = .next (trapWord s 0x08 target))) ∧
    (s.txn = some x → s.thr.holds p = false → x.depP.getLsbD p.pr.toNat = false →
      ∀ off off' d a, ∀ i ∈ [Instr.br p off, .call p off, .jmp p d, .callx p d, .ret p, .tbr p d a, .bdec p d off'],
        ∃ t, exec i s = .next t ∧ t.w = s.w ∧ Onward s t x 1)

namespace Sys2Proof.Claims

/-- The thread that runs word `x.idx` took an exception there: the block left no effect on any thread, memory or queue, the saved
registers say what and where, the thread is in supervisor mode with events held, and it goes on at its handler (R131, R134, R215). A flag
that a `wfe` of the block had taken before the block waited again is set again (R213). -/
structure Trapped (s t : State) (x : Txn) (code : Nat) (v : Word) : Prop where
  closed : t.txn = none
  thread : ∃ th, th = x.saved.thread s.turn ∧ ∃ ts, t.w.thread s.turn = { th with
      tcause := BitVec.ofNat 64 code, tval := v, tepc := x.base, tidx := BitVec.ofNat 64 x.idx, tstat := ts
      pc := th.thand, phase := onwards th.phase, wait := none, since := none
      flag := th.flag || decide (0 < th.wakes), wakes := 0 } ∧
    ts.getLsbD 1 = true ∧ ts.getLsbD 0 = th.tstat.getLsbD 1 ∧ ts.getLsbD 2 = true ∧ ts.getLsbD 3 = th.tstat.getLsbD 2
  others : ∀ u, u ≠ s.turn → t.w.thread u = x.saved.thread u
  rest : ((x.saved.thread s.turn).thand ≠ 0 ∨ (x.saved.thread s.turn).task = none) →
    t.w = { x.saved with cycle := s.w.cycle, fresh := s.w.fresh, threads := t.w.threads }

end Sys2Proof.Claims

/-- R131, R134: what every trap of a word leaves. -/
def Obligations.TrapEntry : Prop :=
  ∀ (s : State) (x : Txn) (code : Nat) (v : Word), s.txn = some x → Claims.Trapped s (trapWord s code v) x code v

/-- R133, R134, R217, R294: `trap` and an unheld `bkpt` trap with their code, `eret` traps in user mode, and an exit before a word that
is not an instruction gives way to that word's trap (R177). Each trap is entered as R131 and R134 say. -/
def Obligations.TrapWords : Prop :=
  ∀ (s : State) (x : Txn) (p : Pr) (c : BitVec 6),
    (Reached s x p .exit [] [] →
      (∃ t, exec (.trap p c) s = .next t ∧ Claims.Trapped s t x 0x04 (c.setWidth 64)) ∧
      (s.thr.tstat.getLsbD 1 = false → ∃ t, exec (.eret p) s = .next t ∧ Claims.Trapped s t x 0x03 (x.word.setWidth 64)) ∧
      (∀ j v off, firstIllegal (x.words.drop x.idx) (x.idx + 1) false = some (j, v) →
        ∀ i ∈ [Instr.br p off, .call p off, .halt p, .ecall p c],
          exec i s = .next (trapWord { s with txn := some { x with idx := j } } 0x02 (v.setWidth 64)))) ∧
    (Reached s x p .other [] [] →
      (covers s.w s.turn = false ∨ s.thr.drun = true → ∃ t, exec (.bkpt p c) s = .next t ∧ Claims.Trapped s t x 0x06 (c.setWidth 64)) ∧
      (covers s.w s.turn = true → s.thr.drun = false → s.thr.dstep = true →
        ∃ t, exec (.bkpt p c) s = .next t ∧ t.w = s.w ∧ Onward s t x 1) ∧
      (covers s.w s.turn = true → s.thr.drun = false → s.thr.dstep = false →
        ∃ t, exec (.bkpt p c) s = .next t ∧ t.txn = none ∧ t.w.mem = x.saved.mem ∧
          t.w.thread s.turn = { x.saved.thread s.turn with dheld := true } ∧ ∀ u, u ≠ s.turn → t.w.thread u = x.saved.thread u))

/-- R134, R215, R217: `halt` commits its block and halts the thread behind it; `ecall` commits and then enters the handler, with the
fall-through block in tepc and tidx 0; `eret` commits and goes on at tepc, the mode and `EVM` as tstat kept them, and its stalled
node accesses are issued again (R263). -/
def Obligations.CommittingSystemExits : Prop :=
  ∀ (s : State) (x : Txn) (p : Pr) (c : BitVec 6), Claims.MayLeave s x → Reached s x p .exit [] [] →
    (∃ t u, exec (.halt p) s = .next t ∧ Claims.Committed s u x s.readG (Claims.nb x) ∧
      t = { u with w := u.w.setThread s.turn { u.w.thread s.turn with phase := .halted }, turn := t.turn } ∧
      t.turn = nextTurn t.w s.turn) ∧
    (∃ t u, exec (.ecall p c) s = .next t ∧ Claims.Committed s u x s.readG (Claims.nb x) ∧ t.txn = none ∧ t.turn = u.turn ∧
      t.w.mem = u.w.mem ∧ (∀ v, v ≠ s.turn → t.w.thread v = u.w.thread v) ∧
      ∃ ts, t.w.thread s.turn = { u.w.thread s.turn with
          tcause := 0x05, tval := c.setWidth 64, tepc := Claims.nb x, tidx := 0, tstat := ts, pc := s.thr.thand } ∧
        ts.getLsbD 1 = true ∧ ts.getLsbD 0 = s.thr.tstat.getLsbD 1 ∧ ts.getLsbD 2 = true ∧ ts.getLsbD 3 = s.thr.tstat.getLsbD 2) ∧
    (s.thr.tstat.getLsbD 1 = true → ∃ t u, exec (.eret p) s = .next t ∧ Claims.Committed s u x s.readG s.thr.tepc ∧
      ∃ ts, t = { u with w := reissueThread (u.w.setThread s.turn { u.w.thread s.turn with tstat := ts }) s.turn } ∧
        ts.getLsbD 1 = s.thr.tstat.getLsbD 0 ∧ ts.getLsbD 2 = s.thr.tstat.getLsbD 3)

namespace Sys2Proof.Claims

/-- A CSR: its number, its value for the thread whose turn it is, and the bits of its RW and its W1C fields (R176, R215). -/
structure CsrRow where
  num : BitVec 10
  value : State → Word
  rw : Word
  w1c : Word

/-- The assigned CSRs (R176, R215). -/
def csrs : List CsrRow :=
  [⟨0x000, (·.thr.tstat), 0xD, 0⟩, ⟨0x001, (·.thr.tcause), 0xFF, 0⟩, ⟨0x002, (·.thr.tepc), ~~~0x7F, 0⟩, ⟨0x003, (·.thr.tidx), 0x7F, 0⟩,
   ⟨0x004, (·.thr.tval), ~~~0, 0⟩, ⟨0x005, (·.thr.thand), ~~~0x7F, 0⟩, ⟨0x006, (·.thr.tscratch), ~~~0, 0⟩,
   ⟨0x010, (·.thr.frm), 0x1F03, 0⟩, ⟨0x011, (·.thr.fflags), 0x1F, 0⟩, ⟨0x020, fun s => BitVec.ofNat 64 s.w.cycle, 0, 0⟩,
   ⟨0x021, (·.thr.blkret), 0, 0⟩, ⟨0x030, fun s => BitVec.ofNat 64 (s.turn % 4), 0, 0⟩,
   ⟨0x031, fun s => BitVec.ofNat 64 (cidLayout s.core), 0, 0⟩, ⟨0x032, fun s => BitVec.ofNat 64 s.die, 0, 0⟩,
   ⟨0x040, (·.thr.mrdcfg), 7, 0⟩, ⟨0x041, fun s => (s.w.core s.core).mstat, 0x100, 0x3F⟩, ⟨0x050, (·.thr.ctxid), 0, 0⟩,
   ⟨0x051, (·.thr.asid), 0xFFFF, 0⟩, ⟨0x052, (·.thr.ptbase), 0x000FFFFFFFFE0000, 0⟩, ⟨0x060, (·.thr.fltrec), ~~~0xFFF, 0⟩,
   ⟨0x061, (·.thr.fltcnt), 0xFFFFFFFF, 0x100000000⟩,
   ⟨0x070, fun s => BitVec.ofNat 64 ((min (budgetCount s.w s.thr) 0xFFFFFFFF) * 2 ^ 32) + (s.thr.bgtSel &&& 3), 3, 0⟩]

/-- The accesses that user mode may not make: any to asid or ptbase, and a write of a trap CSR (R134, R176). -/
def privileged (num : BitVec 10) (write : Bool) : Prop := num = 0x051 ∨ num = 0x052 ∨ (write = true ∧ num.toNat ≤ 6)

/-- The value that a write leaves in a CSR: `v` in its RW fields but for `PPP` 0 in frm, and its W1C bits cleared where `clear` has
them (R6, R214, R215). -/
def csrAfter (c : CsrRow) (old v clear : Word) : Word :=
  let rw := if c.num = 0x010 ∧ v.toNat / 2 ^ 8 % 8 = 0 then c.rw &&& ~~~0x1F00 else c.rw
  (old &&& ~~~(rw ||| c.w1c)) ||| (v &&& rw) ||| (old &&& c.w1c &&& ~~~clear)

/-- bgtcur with the field `SEL` at `sel`: it shows the count of that activity (R215). -/
def bgtcurAt (s : State) (sel : Word) : Word :=
  BitVec.ofNat 64 ((min (budgetCount s.w { s.thr with bgtSel := sel &&& 3 }) 0xFFFFFFFF) * 2 ^ 32) + (sel &&& 3)

/-- The bits of mstat that commands of the core set in the present cycle: a write does not clear them (R312). -/
def setBits (s : State) : Word := (setNow s.w s.core).foldl (fun v y => v ||| 1#64 <<< y.1) 0

/-- What a CSR write does that offers `v` for the RW fields and `clear` for the W1C bits (R6, R214, R215): gD receives the old value, the CSR
takes the new one, unless it is fltrec or fltcnt and the thread is in user mode, and no other CSR, no other register, no other thread and
no byte of memory changes; the block goes on. Of mstat a bit that a command set in the present cycle stays, and where the write would have cleared
it, its event is raised, with `OTE` set, unless it has been (R312). -/
def CsrWritten (s t : State) (x : Txn) (d : Reg) (c : CsrRow) (v clear : Word) : Prop :=
  Onward s t x 1 ∧ (∀ r, t.readG r = regs s d (c.value s) r) ∧ t.thr.p = s.thr.p ∧ t.w.mem = s.w.mem ∧
    (c.num ≠ 0x041 ∨ (∀ y ∈ setNow s.w s.core, y.2.2 = true) → ∀ u, u ≠ s.turn → t.w.thread u = s.w.thread u) ∧
    c.value t = (if s.thr.tstat.getLsbD 1 = false ∧ (c.num = 0x060 ∨ c.num = 0x061) then c.value s
      else if c.num = 0x070 then bgtcurAt s v
      else csrAfter c (c.value s) v (clear &&& ~~~(if c.num = 0x041 then setBits s else 0))) ∧
    (∀ o ∈ csrs, o.num ≠ c.num → o.value t = o.value s) ∧
    ∀ i u, c.num = 0x041 → setNow s.w s.core = [(i, u, false)] → clear.getLsbD i = true → (c.value t).getLsbD 8 = true → canReceive s.w u = true →
      (t.w.thread u).events = (s.w.thread u).events ++ [{ code := 0x40, val := c.value t }]

end Sys2Proof.Claims

/-- R6, R176, R214, R215, R312: `csrr`, `csrw`, `csrs` and `csrc` complete for every assigned CSR that the mode may access. `csrr` reads it;
`csrw`, `csrs` and `csrc` read it into gD and write its fields by their access codes, and no other CSR of the thread, no other thread and no
byte of memory. In user mode fltrec and fltcnt ignore a write, and what R176 keeps to supervisor mode takes a privilege trap; a number that
is not assigned is an illegal instruction (R177). (What counts as the same cycle is the model's: log 115.) -/
def Obligations.CsrWords : Prop :=
  ∀ (s : State) (x : Txn) (p : Pr) (d a : Reg),
    let user := s.thr.tstat.getLsbD 1 = false
    (∀ c ∈ Claims.csrs,
      (Reached s x p .other [] [] →
        (¬ (user ∧ Claims.privileged c.num false) → ∃ t, exec (.csrr p d c.num) s = .next t ∧ WroteG s t x 1 d (c.value s)) ∧
        (user ∧ Claims.privileged c.num false → exec (.csrr p d c.num) s = .next (trapWord s 0x03 (x.word.setWidth 64)))) ∧
      (Reached s x p .other [a] [] →
        let v := s.readG a
        (¬ (user ∧ Claims.privileged c.num true) →
          (∃ t, exec (.csrw p d a c.num) s = .next t ∧ Claims.CsrWritten s t x d c v v) ∧
          (∃ t, exec (.csrs p d a c.num) s = .next t ∧ Claims.CsrWritten s t x d c (c.value s ||| v) v) ∧
          (∃ t, exec (.csrc p d a c.num) s = .next t ∧ Claims.CsrWritten s t x d c (c.value s &&& ~~~v) 0)) ∧
        (user ∧ Claims.privileged c.num true → ∀ i ∈ [Instr.csrw p d a c.num, .csrs p d a c.num, .csrc p d a c.num],
          exec i s = .next (trapWord s 0x03 (x.word.setWidth 64))))) ∧
    ∀ num, (∀ c ∈ Claims.csrs, c.num ≠ num) →
      (Reached s x p .other [] [] → exec (.csrr p d num) s = .next (trapWord s 0x02 (x.word.setWidth 64))) ∧
      (Reached s x p .other [a] [] → ∀ i ∈ [Instr.csrw p d a num, .csrs p d a num, .csrc p d a num],
        exec i s = .next (trapWord s 0x02 (x.word.setWidth 64)))

/-- R173: a word whose predicate does not hold (its value XOR `PN` is 0) has no effect, but for `sel`, which always writes; the block
goes on behind the word, and behind its extension word (R172). -/
def Obligations.PredicateFalse : Prop :=
  ∀ (s : State) (x : Txn) (i : Instr) (v : W32) (o : Option W32), s.txn = some x → encode i = some (v, o) →
    s.thr.holds (fieldsOf v).p = false → x.depP.getLsbD (fieldsOf v).p.pr.toNat = false → (∀ q d a b, i ≠ .sel q d a b) →
    ∃ t, exec i s = .next t ∧ t.w = s.w ∧ Onward s t x (if o.isSome then 2 else 1)

/-- R130: while a block is open no other agent acts: its step leaves the machine as it is, and every effect of a block appears at one
commit. Between blocks the next step that is due acts on the machine as it stands, where a store that has met no error response is
performed first (R196). A cycle may go by between two blocks. (That an event offered while a block is open is a step without effect is the
model's choice: log 7, log 11; when a store has its answer is log 27, and that a step of another agent takes no cycle is log 9, log 94.) -/
def Obligations.OthersWaitForTheBlock : Prop :=
  (∀ (s : State) (x : Txn) (i : Instr), s.txn = some x → encode i = none → (∀ t, i ≠ .illegalInstruction t) → exec i s = .next s) ∧
  (∀ (s : State) (rest : List Turn), s.txn = none → s.agenda = .pass :: rest →
    step s = .next (tick { s with agenda := rest, w := settlePaths s.w })) ∧
  ∀ (s : State) (i : Instr) (rest : List Turn), s.txn = none → s.agenda = .agent i :: rest → i.wf = true →
    step s = match exec i { s with agenda := rest, w := settleFor i s.w } with
      | .next t => .next (serve t)
      | .fault f => .fault f
      | .refused r => .refused r

/-! ## Regions, streams and chains -/

namespace Sys2Proof.Claims

/-- The thread whose turn it is owns the region of handle `v` of its core (R224). -/
def Owns (s : State) (v : Nat) : Prop := v < 4 ∧ (s.w.region (4 * s.core + v)).owner = some s.turn

/-- The configuration commands that take a value in gA: the instruction, the command it queues, and whether it passes its own
argument check (R225). -/
def queued (p : Pr) (d a : Reg) (v : Nat) : List (Instr × CfgCmd × Bool) :=
  [(.cfgwr p d a, .write v, decide (v < 2 ^ 32)), (.cfgst p d a, .status v, v % 16 == 0), (.rgsave p d a, .save v, v % 256 == 0),
   (.rgload p d a, .restore v, v % 256 == 0)]

/-- The region's queue takes a command behind those it holds, and nothing else of the device differs. -/
def Queued (s t : State) (x : Txn) (n r : Nat) (c : CfgCmd) : Prop :=
  t.w = s.w.setRegion r { s.w.region r with cq := (s.w.region r).cq ++ [(c, wordSpace s)] } ∧ Onward s t x n

/-- Every region word that names a handle. -/
def regionWords (p : Pr) (d a b : Reg) : List (Instr × List Reg) :=
  [(.rgfree p d, []), (.cfgld p d a, [a]), (.cfgwr p d a, [a]), (.cfgsw p d, []), (.cfgdrop p d, []), (.cfgst p d a, [a]),
   (.rgstart p d a b, [a, b]), (.rgstop p d, []), (.rgsave p d a, [a]), (.rgload p d a, [a]), (.marker p d, []),
   (.cfgwrI p d 0, [])]

end Sys2Proof.Claims

/-- R222, R225, R372: a configuration command that passes its checks goes behind those its region's queue holds, in commit order, and
changes nothing else; a full queue of 16 holds the commit, and a failed check traps with gA in tval. `cfgld` also wakes the region's clock-gated elements (R70). A region word whose gD is no
handle of a region that the thread owns takes an engine argument trap with gD in tval (R221, R224). A `cfgld` discards a sealed shadow that no
switch has released, and that none committed before it is to release (R78, R81). (That gD is looked at before gA is the model's choice: log 116.) -/
def Obligations.ConfigurationCommands : Prop :=
  ∀ (s : State) (x : Txn) (p : Pr) (d a : Reg),
    (∀ b, ¬ Claims.Owns s (s.readG d).toNat → ∀ q ∈ Claims.regionWords p d a b, Accesses s x p (d :: q.2) [] →
      exec q.1 s = .next (trapWord s 0x07 (s.readG d))) ∧
    (Claims.Owns s (s.readG d).toNat →
    let r := 4 * s.core + (s.readG d).toNat
    let g := s.w.region r
    let v := (s.readG a).toNat
    (Accesses s x p [d, a] [] → ∀ q ∈ Claims.queued p d a v,
      (q.2.2 = false → exec q.1 s = .next (trapWord s 0x07 (s.readG a))) ∧
      (q.2.2 = true → (∀ va, q.2.1 = .restore va → g.running = false) →
        (g.cq.length < 16 → ∃ t, exec q.1 s = .next t ∧ Claims.Queued s t x 1 r q.2.1) ∧
        (16 ≤ g.cq.length → ∃ t, exec q.1 s = .next t ∧ Claims.Holds s t x .room))) ∧
    (Accesses s x p [d, a] [] → v % 256 = 0 → g.running = true → exec (.rgload p d a) s = .next (trapWord s 0x07 (s.readG d))) ∧
    (Accesses s x p [d] [] → g.cq.length < 16 →
      (∃ t, exec (.cfgsw p d) s = .next t ∧ Claims.Queued s t x 1 r .switch) ∧
      ∀ imm, ∃ t, exec (.cfgwrI p d imm) s = .next t ∧ Claims.Queued s t x 2 r (.write imm.toNat)) ∧
    (16 ≤ g.cq.length → (Accesses s x p [d] [] → ∃ t, exec (.cfgsw p d) s = .next t ∧ Claims.Holds s t x .room) ∧
      (Accesses s x p [d] [] → ∀ imm, ∃ t y, exec (.cfgwrI p d imm) s = .next t ∧ t.w = s.w ∧ t.turn = s.turn ∧ t.agenda = s.agenda ∧
        t.txn = some y ∧ y.idx = x.idx + 2 ∧ y.saved = x.saved ∧ y.words = x.words ∧ y.held = x.held.or (some .room)) ∧
      (Accesses s x p [d, a] [] → ∃ t, exec (.cfgld p d a) s = .next t ∧ Claims.Holds s t x .room)) ∧
    (Accesses s x p [d, a] [] → g.cq.length < 16 → ∃ t, exec (.cfgld p d a) s = .next t ∧ Onward s t x 1 ∧
      let discards := g.shadow = .sealed ∧ g.armedSwitch = false ∧ ∀ c ∈ g.cq, c.1 ≠ .switch
      let g' := { g with cq := g.cq ++ [(.load v false, wordSpace s)] }
      t.w = { s.w with elems := t.w.elems, regions := t.w.regions } ∧ (∀ j, j ≠ r → t.w.region j = s.w.region j) ∧
      (¬ discards → t.w.region r = g' ∧ ∀ e, t.w.elem e = if e ∈ regionElems s.w r ∧ (s.w.elem e).gated = true
        then { s.w.elem e with gated := false, busyAt := s.w.cycle } else s.w.elem e) ∧
      (discards → t.w.region r = { g' with shadow := .none, scid := 0, shdChanged := false, armedSwitch := false, load := none } ∧
        ∀ e ∈ regionElems s.w r, (t.w.elem e).act = (s.w.elem e).act ∧ (t.w.elem e).gated = false ∧ (t.w.elem e).heldSwt = false ∧
          (g.cutDue = false → (t.w.elem e).shd = []))))

/-- R225, R226, R228, R265: what the words that act on a region at their commit leave: a new region, which takes the place of the reusable
regions that it overlaps (R143), or, where no handle is free, of the first reusable one; a free handle, whose task fails if it has one (R144, R148); a
region armed and
running, one that is stopped, one without its load (R85), and one in which a cut is requested. The handle of a new region is the lowest that is
free once the reusable regions it overlaps are freed; only where none is, the reusable region of the lowest handle is freed for it (R226).
(What `rgstop` and `rgfree` leave of streams and chains is the model's reading: log 59, log 70, log 76; a failure that stores waits for its budget,
log 45; that `rgstart` looks at gA before it looks whether the region runs is its choice, log 116.) -/
def Obligations.RegionControl : Prop :=
  ∀ (s : State) (x : Txn) (p : Pr) (d a b : Reg),
    let rOf (v : Nat) : Region := s.w.region (4 * s.core + v)
    (Accesses s x p [a] [] →
      let v := (s.readG a).toNat
      let held (h : Nat) : Prop := (rOf h).mask ≠ 0 ∧ (rOf h).reusable = false
      let wrong := 2 ^ 12 ≤ v ∨ maskIsRect v = false
      let full := ∀ h < 4, held h
      let overlaps := ∃ h < 4, held h ∧ (rOf h).mask &&& v ≠ 0
      (wrong → ∃ t, exec (.rgalloc p d a) s = .next t ∧ WroteG s t x 1 d 0x8000000000000001) ∧
      (¬ wrong → full → ∃ t, exec (.rgalloc p d a) s = .next t ∧ WroteG s t x 1 d 0x8000000000000002) ∧
      (¬ wrong → ¬ full → overlaps → ∃ t, exec (.rgalloc p d a) s = .next t ∧ WroteG s t x 1 d 0x8000000000000003) ∧
      (¬ wrong → ¬ full → ¬ overlaps →
        (∀ h < 4, (rOf h).reusable = true → (rOf h).shadow ≠ .wave ∧ ∀ e ∈ regionElems s.w (4 * s.core + h), (s.w.elem e).acc = []) →
        let laps (h : Nat) : Prop := (rOf h).reusable = true ∧ (rOf h).mask &&& v ≠ 0
        let free (h : Nat) : Prop := (rOf h).mask = 0 ∨ laps h
        ∃ t h, exec (.rgalloc p d a) s = .next t ∧ Onward s t x 1 ∧ h < 4 ∧
          ((∃ j < 4, free j) → free h ∧ ∀ j < h, ¬ free j) ∧
          (¬ (∃ j < 4, free j) → (rOf h).reusable = true ∧ ∀ j < h, (rOf j).reusable = false) ∧
          (∀ r, t.readG r = regs s d (BitVec.ofNat 64 h) r) ∧ t.w.mem = s.w.mem ∧
          t.w.region (4 * s.core + h) = { Region.reset with owner := some s.turn, mask := v, space := s.thr.space } ∧
          (∀ j < 4, j ≠ h → (laps j → t.w.region (4 * s.core + j) = Region.reset) ∧ (¬ laps j → t.w.region (4 * s.core + j) = rOf j)) ∧
          (∀ r, r / 4 ≠ s.core → t.w.region r = s.w.region r) ∧
          ∀ j < 4, laps j ∨ j = h → ∀ e ∈ regionElems s.w (4 * s.core + j), (t.w.elem e).act = [] ∧ (t.w.elem e).shd = []) ∧
      (¬ wrong → ¬ full → ¬ overlaps → (∀ h < 4, (rOf h).reusable = false) →
        ∃ t h, exec (.rgalloc p d a) s = .next t ∧ Onward s t x 1 ∧ h < 4 ∧ (rOf h).mask = 0 ∧ (∀ j < h, (rOf j).mask ≠ 0) ∧
          (∀ r, t.readG r = regs s d (BitVec.ofNat 64 h) r) ∧ t.w.mem = s.w.mem ∧
          t.w.region (4 * s.core + h) = { Region.reset with owner := some s.turn, mask := v, space := s.thr.space } ∧
          (∀ r, r ≠ 4 * s.core + h → t.w.region r = s.w.region r) ∧
          ∀ k < 12, v.testBit k = true → tabHas (12 * s.core + k) t.w.sectors = true ∧
            ∀ e ∈ sectorElems s.core k, (t.w.elem e).act = [] ∧ (t.w.elem e).shd = [])) ∧
    (Claims.Owns s (s.readG d).toNat →
      let r := 4 * s.core + (s.readG d).toNat
      let g := s.w.region r
      let quiet := g.shadow ≠ .wave ∧ ∀ e ∈ regionElems s.w r, (s.w.elem e).acc = []
      (Accesses s x p [d] [] →
        (∃ t, exec (.rgstop p d) s = .next t ∧ Onward s t x 1 ∧ (t.w.region r).running = false ∧ (t.w.region r).frozen = g.saveAt.isSome ∧
          (t.w.region r).armed = none ∧
          (quiet → (t.w.region r).load = none ∧ (t.w.region r).owner = some s.turn ∧ t.w.mem = s.w.mem ∧ t.w.threads = s.w.threads)) ∧
        (∀ k, g.task = some k → failHeld s.w k 7 = true → ∃ t, exec (.rgfree p d) s = .next t ∧ Claims.Holds s t x .budget) ∧
        (∀ k, g.task = some k → failHeld s.w k 7 = false →
          ∃ t, exec (.rgfree p d) s = .next t ∧ Onward s t x 1 ∧ t.w = failAlone s.w k) ∧
        (g.task = none → ∃ t, exec (.rgfree p d) s = .next t ∧ Onward s t x 1 ∧ t.w.region r = Region.reset ∧
          (∀ i < 16, t.w.stream (64 * s.core + 16 * (s.readG d).toNat + i) = Stream.reset) ∧
          (∀ c ∈ t.w.streamQueue s.core, c.region ≠ some r) ∧
          (quiet → t.w.mem = s.w.mem ∧ t.w.threads = s.w.threads)) ∧
        (∃ t, exec (.cfgdrop p d) s = .next t ∧ Onward s t x 1 ∧
          t.w.region r = (if g.shadow = .wave then { g with cq := g.cq.filter fun c => !c.1.dropped
                                                            cqStalled := (t.w.region r).cqStalled, met := (t.w.region r).met } else
            { g with cq := g.cq.filter fun c => !c.1.dropped, shadow := .none, scid := 0, shdChanged := false, armedSwitch := false, load := none
                     cqStalled := (t.w.region r).cqStalled, met := (t.w.region r).met }) ∧
          (g.saveAt = none → (∀ c ∈ g.cq, c.1.dropped = true) → (t.w.region r).cqStalled = false ∧ (t.w.region r).met = false) ∧
          t.w.mem = s.w.mem ∧ t.w.threads = s.w.threads) ∧
        ∃ t, exec (.marker p d) s = .next t ∧ Onward s t x 1 ∧
          t.w = if g.running = true ∧ g.starting = false ∧ g.frozen = false ∧ g.cutting = false
            then s.w.setRegion r { g with epoch := (g.epoch + 1) % 2 ^ 16, cutting := true } else s.w) ∧
      (Accesses s x p [d, a, b] [] →
        ((s.readG a).toNat % 8 ≠ 0 → exec (.rgstart p d a b) s = .next (trapWord s 0x07 (s.readG a))) ∧
        ((s.readG a).toNat % 8 = 0 → g.running = true → exec (.rgstart p d a b) s = .next (trapWord s 0x07 (s.readG d))) ∧
        ((s.readG a).toNat % 8 = 0 → g.running = false → ∃ t, exec (.rgstart p d a b) s = .next t ∧ Onward s t x 1 ∧
          t.w = s.w.setRegion r { g with running := true, starting := true, armed := some ((s.readG a).toNat, (s.readG b).toNat)
                                         space := wordSpace s, complStalled := false })))

/-- R140, R142, R230: `tenq` of a record that its die's dispatcher accepts, with a table entry and the nodes of its path to spare, appends
the record it reads at gA and gives 0; when it is not accepted `tenq` gives 1 and inserts nothing. gA is a multiple of 64, or the argument check fails.
(Which records a dispatcher accepts is log 44; that the record takes a place in the order of the thread's commands, by which its stores before it
are known, R223, is log 54; and that its source space is that of the block's begin, log 124: the model's readings.) -/
def Obligations.TaskEnqueue : Prop :=
  ∀ (s : State) (x : Txn) (p : Pr) (d a : Reg) (w : World) (gs : List Seg), Accesses s x p [a] [] →
    ((s.readG a).toNat % 64 ≠ 0 → exec (.tenq p d a) s = .next (trapWord s 0x07 (s.readG a))) ∧
    ((s.readG a).toNat % 64 = 0 → checkAccess s.w s.core (wordSpace s) .load .acqRel (s.readG a).toNat 64 = (w, .ok gs) →
      let v := touchSegs w s.turn Touch.load gs
      let y : Inbound := { launch := BitVec.ofNat 512 (Claims.loadedValue s w gs), sp := wordSpace s, queue := none, after := some (s.turn, s.w.cmdSeq + 1) }
      ∃ t, exec (.tenq p d a) s = .next t ∧ Onward s t x 1 ∧ t.w.mem = s.w.mem ∧
        t.w = (if accepts v s.die y then { v with cmdSeq := s.w.cmdSeq + 1 }.setDie s.die { v.die s.die with inbox := (v.die s.die).inbox ++ [y] }
          else v).setThread s.turn
          (s.thr.writeG d (if accepts v s.die y then 0 else 1)))

namespace Sys2Proof.Claims

/-- Stream `v` of the core belongs to a region that the thread owns (R231). -/
def OwnsStream (s : State) (v : Nat) : Prop := v < 64 ∧ (s.w.region (4 * s.core + v / 16)).owner = some s.turn

/-- A binding commits at once, or waits while the stream's handler is part-way (R231). -/
def boundTo (st : Stream) (bound port : Bool) (blk : Block) : Stream :=
  if st.begun then { st with next := some (bound, port, blk) }
  else { st with bound := bound, port := port, blk := blk, next := none, inq := if port then st.inq else [], outq := if port then st.outq else [] }

/-- Nothing keeps a stream or chain command of the core from acting when it commits: its queue is empty, and no binding waits for its
handler's next stream (R231, R372). -/
def StreamsFree (s : State) : Prop := s.w.streamQueue s.core = [] ∧ bindingWaits s.w s.core = false

end Sys2Proof.Claims

/-- R221, R222, R231, R232, R233, R372: the stream words on a stream that the thread owns: a binding, and an `sctl`, holds its commit while
the core's queue of 16 is full, waits in it behind a binding that is not yet in place, and else acts; a binding takes effect at once or when the stream
begins anew, `spush` and `seos` append to a thread port's input queue of 16 or hold the commit, `spop` takes the head of its output
queue, and `sctl` reissues what stands stalled. A word on any other stream, or on a stream that is no thread port where one is needed, traps.
(That only a binding not yet in place, or a stop whose accesses a budget holds, keeps the queue is the model's reading: log 76, log 45. Which of two
failing checks names tval, the stream in gD or gA, is its choice: log 116.) -/
def Obligations.StreamWords : Prop :=
  ∀ (s : State) (x : Txn) (p : Pr) (d a : Reg),
    let k := 64 * s.core + (s.readG d).toNat
    let ka := 64 * s.core + (s.readG a).toNat
    let v := (s.readG a).toNat
    let full := 16 ≤ (s.w.streamQueue s.core).length
    let waits (i : Instr) (c : StreamCmd) : Prop := ¬ full → bindingWaits s.w s.core = true →
      ∃ t, exec i s = .next t ∧ Onward s t x 1 ∧ t.w = s.w.setStreamQueue s.core (s.w.streamQueue s.core ++ [c])
    let port (k : Nat) : Prop := (s.w.stream k).bound = true ∧ (s.w.stream k).port = true
    (¬ Claims.OwnsStream s (s.readG d).toNat → (Accesses s x p [d, a] [] →
        ∀ i ∈ [Instr.sbind p d a, .spush p d a, .sctl p d a], exec i s = .next (trapWord s 0x07 (s.readG d))) ∧
      (Accesses s x p [d] [] → ∀ i ∈ [Instr.sunbind p d, .seos p d], exec i s = .next (trapWord s 0x07 (s.readG d)))) ∧
    (Accesses s x p [a] [] → ¬ Claims.OwnsStream s v → exec (.spop p d a) s = .next (trapWord s 0x07 (s.readG a))) ∧
    (Claims.OwnsStream s (s.readG d).toNat → Accesses s x p [d] [] →
      (full → ∃ t, exec (.sunbind p d) s = .next t ∧ Claims.Holds s t x .room) ∧ waits (.sunbind p d) (.bind k false false 0) ∧
      (Claims.StreamsFree s → ∃ t, exec (.sunbind p d) s = .next t ∧ Onward s t x 1 ∧ t.w.mem = s.w.mem ∧
        t.w.stream k = Claims.boundTo (s.w.stream k) false false 0 ∧ ∀ j, j ≠ k → t.w.stream j = s.w.stream j) ∧
      (¬ port k → exec (.seos p d) s = .next (trapWord s 0x07 (s.readG d))) ∧
      (port k → (s.w.stream k).inq.length < 16 → ∃ t, exec (.seos p d) s = .next t ∧ Onward s t x 1 ∧
        t.w = s.w.setStream k { s.w.stream k with inq := (s.w.stream k).inq ++ [{ kind := 2, chan := 0, pay := 3 }] }) ∧
      (port k → 16 ≤ (s.w.stream k).inq.length → ∃ t, exec (.seos p d) s = .next t ∧ Claims.Holds s t x .room)) ∧
    (Claims.OwnsStream s (s.readG d).toNat → Accesses s x p [d, a] [] →
      (v = 0 → full → ∃ t, exec (.sbind p d a) s = .next t ∧ Claims.Holds s t x .room) ∧
      (v = 0 → waits (.sbind p d a) (.bind k true true 0)) ∧
      (v = 0 → Claims.StreamsFree s → ∃ t, exec (.sbind p d a) s = .next t ∧ Onward s t x 1 ∧ t.w.mem = s.w.mem ∧
        t.w.stream k = Claims.boundTo (s.w.stream k) true true 0 ∧ ∀ j, j ≠ k → t.w.stream j = s.w.stream j) ∧
      (v % 64 ≠ 0 → exec (.sbind p d a) s = .next (trapWord s 0x07 (s.readG a))) ∧
      (∀ w gs, v ≠ 0 → v % 64 = 0 → checkAccess s.w s.core (wordSpace s) .load .acqRel v 64 = (w, .ok gs) →
        let blk := BitVec.ofNat 512 (Claims.loadedValue s w gs)
        (full → ∃ t y, exec (.sbind p d a) s = .next t ∧ t.w = touchSegs w s.turn Touch.load gs ∧ t.txn = some y ∧ y.idx = x.idx + 1 ∧
          y.held = x.held.or (some .room)) ∧
        (¬ full → bindingWaits s.w s.core = true → ∃ t, exec (.sbind p d a) s = .next t ∧ Onward s t x 1 ∧
          t.w = (touchSegs w s.turn Touch.load gs).setStreamQueue s.core (s.w.streamQueue s.core ++ [.bind k true false blk])) ∧
        (Claims.StreamsFree s → ∃ t, exec (.sbind p d a) s = .next t ∧ Onward s t x 1 ∧ t.w.mem = s.w.mem ∧ t.w.threads = s.w.threads ∧
          t.w.stream k = Claims.boundTo (s.w.stream k) true false blk)) ∧
      (2 ^ 36 ≤ v ∨ v / 2 ^ 34 % 4 = 3 → exec (.spush p d a) s = .next (trapWord s 0x07 (s.readG a))) ∧
      (v < 2 ^ 36 → v / 2 ^ 34 % 4 ≠ 3 → ¬ port k → exec (.spush p d a) s = .next (trapWord s 0x07 (s.readG d))) ∧
      (v < 2 ^ 36 → v / 2 ^ 34 % 4 ≠ 3 → port k → 16 ≤ (s.w.stream k).inq.length →
        ∃ t, exec (.spush p d a) s = .next t ∧ Claims.Holds s t x .room) ∧
      (v < 2 ^ 36 → v / 2 ^ 34 % 4 ≠ 3 → port k → (s.w.stream k).inq.length < 16 → ∃ t, exec (.spush p d a) s = .next t ∧ Onward s t x 1 ∧
        t.w = s.w.setStream k { s.w.stream k with
          inq := (s.w.stream k).inq ++ [{ kind := v / 2 ^ 34 % 4, chan := v / 2 ^ 32 % 4, pay := BitVec.ofNat 32 v }] }) ∧
      (v = 1 ∨ v = 2 → full → ∃ t, exec (.sctl p d a) s = .next t ∧ Claims.Holds s t x .room) ∧
      (v = 1 → waits (.sctl p d a) (.reissue k)) ∧ (v = 2 → waits (.sctl p d a) (.stop k)) ∧
      (v = 1 → Claims.StreamsFree s → ∃ t, exec (.sctl p d a) s = .next t ∧ Onward s t x 1 ∧ t.w = { s.w with elems := t.w.elems, scq := t.w.scq, cache := t.w.cache } ∧
        ∀ e, (t.w.elem e).acc = (s.w.elem e).acc.map fun y =>
          if y.phase = .stalled ∧ streamKey s.w e y.h = k ∧ eCore e = s.core then { y with phase := .issued } else y) ∧
      (v = 2 → Claims.StreamsFree s →
        let r := 4 * s.core + (s.readG d).toNat / 16
        ∃ t, exec (.sctl p d a) s = .next t ∧ Onward s t x 1 ∧
          ((t.w.region r).running = false ∨ t.w = s.w.setStreamQueue s.core [.stop k]) ∧
          ((∀ e ∈ regionElems s.w r, (s.w.elem e).acc = []) → (t.w.region r).running = false)) ∧
      (v ≠ 1 → v ≠ 2 → exec (.sctl p d a) s = .next (trapWord s 0x07 (s.readG a)))) ∧
    (Claims.OwnsStream s v → ¬ port ka → Accesses s x p [a] [] → exec (.spop p d a) s = .next (trapWord s 0x07 (s.readG a))) ∧
    (Claims.OwnsStream s v → port ka → Accesses s x p [a] [] →
      ((s.w.stream ka).outq = [] → ∃ t, exec (.spop p d a) s = .next t ∧ WroteG s t x 1 d 0x8000000000000000) ∧
      (∀ u rest, (s.w.stream ka).outq = u :: rest → ∃ t, exec (.spop p d a) s = .next t ∧ Onward s t x 1 ∧ t.w.mem = s.w.mem ∧
        (∀ r, t.readG r = regs s d (BitVec.ofNat 64 (u.kind * 2 ^ 34 + u.chan * 2 ^ 32 + u.pay.toNat)) r) ∧
        t.w.stream ka = { s.w.stream ka with outq := rest }))

/-- R120, R221, R222, R233, R234, R356, R372: `sstat` reads the stream word and, with gA bit 8, clears what it names; `chainset`, in its turn in the
core's queue of 16, sets a chain's state as if the access of its link word had just been performed, and `chainst` reads it. (That it acts at once
while nothing holds the queue is log 76, the restore point that it leaves is log 70, and that gD is looked at before gA is log 116: the model's
readings and its choice.) -/
def Obligations.StatusAndChainWords : Prop :=
  ∀ (s : State) (x : Txn) (p : Pr) (d a : Reg),
    let v := (s.readG a).toNat
    let ka := 64 * s.core + v % 64
    let ra := 4 * s.core + v % 64 / 16
    let st := s.w.stream ka
    let flag (b : Bool) (i : Nat) : Nat := if b then 2 ^ i else 0
    let word := (s.w.region ra).nfl.toNat * 2 ^ 40 + flag st.port 36 + flag st.bound 35 + flag (streamStalled s.w ka) 34 + flag st.shrt 33 +
      flag st.ovr 32 + st.cnt
    (Accesses s x p [a] [] →
      (v / 2 ^ 9 ≠ 0 ∨ v / 2 ^ 6 % 4 ≠ 0 ∨ ¬ Claims.OwnsStream s (v % 64) → exec (.sstat p d a) s = .next (trapWord s 0x07 (s.readG a))) ∧
      (v / 2 ^ 9 = 0 → v / 2 ^ 6 % 4 = 0 → Claims.OwnsStream s (v % 64) → ∃ t, exec (.sstat p d a) s = .next t ∧ Onward s t x 1 ∧
        t.w.mem = s.w.mem ∧ (∀ r, t.readG r = regs s d (BitVec.ofNat 64 word) r) ∧
        (v / 2 ^ 8 % 2 = 0 → WroteG s t x 1 d (BitVec.ofNat 64 word)) ∧
        (v / 2 ^ 8 % 2 = 1 → t.w.stream ka = { st with ovr := false, shrt := false } ∧ t.w.region ra = { s.w.region ra with nfl := 0 })) ∧
      (2 ^ 12 ≤ v → exec (.chainst p d a) s = .next (trapWord s 0x07 (s.readG a))) ∧
      (v < 2 ^ 12 → let c := s.w.chain (4096 * s.die + v)
        ∃ t, exec (.chainst p d a) s = .next t ∧ WroteG s t x 1 d (BitVec.ofNat 64
          (flag (chainStalls s.w (4096 * s.die + v)) 48 + (chainEntries s.w (4096 * s.die + v)).length * 2 ^ 32 +
            (match c.nxt with | some n => (n + 65535 - c.last) % 65535 | none => 0) % 256 * 2 ^ 16 + c.last)))) ∧
    (Accesses s x p [d, a] [] →
      let k := 4096 * s.die + (s.readG d).toNat
      (2 ^ 12 ≤ (s.readG d).toNat → exec (.chainset p d a) s = .next (trapWord s 0x07 (s.readG d))) ∧
      ((s.readG d).toNat < 2 ^ 12 → 2 ^ 32 ≤ v → exec (.chainset p d a) s = .next (trapWord s 0x07 (s.readG a))) ∧
      ((s.readG d).toNat < 2 ^ 12 → v < 2 ^ 32 → 16 ≤ (s.w.streamQueue s.core).length →
        ∃ t, exec (.chainset p d a) s = .next t ∧ Claims.Holds s t x .room) ∧
      ((s.readG d).toNat < 2 ^ 12 → v < 2 ^ 32 → Claims.StreamsFree s → ∃ t, exec (.chainset p d a) s = .next t ∧ Onward s t x 1 ∧
        t.w.mem = s.w.mem ∧ t.w.elems = s.w.elems ∧ (∀ j, j ≠ k → t.w.chain j = s.w.chain j) ∧
        t.w.chain k = { s.w.chain k with last := (linkNumbers v).1, nxt := (linkNumbers v).2.2, gap := 0, inInterval := false, inNext := false }))

/-! ## The engines of a core, and Headwater sessions -/

/-- R305: e8m0, format code 0x0C, holds a power of two: the byte v is 2^(v - 127) for v from 0 to 254, and 255 is NaN; a block scale of a
slot is such a byte. -/
def Obligations.ScaleBytes : Prop :=
  ∀ v : Nat, v < 256 →
    fmtVal 0x0C v = (if v = 255 then .nan else .fin false 1 ((v : Int) - 127) false) ∧
    ∀ (x : Slot) (d r k : Nat), d.testBit 21 = true → tabGet 0 (8 * r + k / 32) x.side = BitVec.ofNat 8 v → slotScale x d r k = fmtVal 0x0C v

namespace Sys2Proof.Claims

/-- The thread holds slot `v` of its core (R224, R235), and the slot's descriptor (R236). -/
def HoldsSlot (s : State) (v : Nat) : Prop := v < 16 ∧ (s.w.slotOp (16 * s.core + v)).phase = .claimed s.turn
def desc (s : State) (v : Nat) : Nat := (s.w.slotOp (16 * s.core + v)).desc

/-- Slot formats: i8, n8, i16, n16, bf16, fp16 and the binary8 codes (R236). -/
def SlotFormat (f : Nat) : Prop := f ∈ [0, 1, 3, 4, 8, 9] ∨ (0x20 ≤ f ∧ fmtValid f = true)

/-- A valid descriptor (R236). -/
def DescValid (x : Nat) : Prop :=
  x < 2 ^ 22 ∧ SlotFormat (x % 64) ∧ 1 ≤ x / 2 ^ 11 % 2 ^ 9 ∧ x / 2 ^ 11 % 2 ^ 9 ≤ if fmtBytes (x % 64) = 1 then 256 else 128

/-- Two slots suit a tile operation: A in orientation 0, B in orientation `ori`, equal lengths and widths (R237, R314). -/
def TilesSuit (s : State) (a b : Nat) (ori : Bool) : Prop :=
  HoldsSlot s a ∧ HoldsSlot s b ∧ desc s a / 2 ^ 11 % 2 ^ 9 ≠ 0 ∧ desc s a / 2 ^ 11 % 2 ^ 9 = desc s b / 2 ^ 11 % 2 ^ 9 ∧
    (desc s a).testBit 20 = false ∧ (desc s b).testBit 20 = ori ∧ fmtBytes (desc s a % 64) = fmtBytes (desc s b % 64)

/-- Argument checks in the order in which they are made, each with the register at fault where it fails: all of them pass, or `r` is at fault at
the first that fails (R221). -/
def Pass (cs : List (Prop × Reg)) : Prop := ∀ c ∈ cs, c.1
def FailsAt : List (Prop × Reg) → Reg → Prop
  | [], _ => False
  | c :: rest, r => (¬ c.1 ∧ r = c.2) ∨ (c.1 ∧ FailsAt rest r)

/-- The queued matrix words: the registers they read, their argument checks, and what they queue (R235, R237 to R239). -/
def matrixWords (s : State) (p : Pr) (d a b : Reg) : List (Instr × List Reg × List (Prop × Reg) × MatOp) :=
  let acc := (s.readG d).toNat
  let va := (s.readG a).toNat
  let vb := (s.readG b).toNat
  let n := if vb / 2 ^ 8 % 16 = 0 then 16 else vb / 2 ^ 8 % 16
  let fmt := vb % 64
  let suits (v : Nat) : Prop := HoldsSlot s v ∧ desc s v / 2 ^ 11 % 2 ^ 9 ≠ 0 ∧ (desc s v).testBit 20 = false
  [(.mzero p d a, [d, a], [(acc < 4, d), (va < 2 ^ 10, a)], .zero acc (if va < 2 ^ 9 then va else (va : Int) - 2 ^ 10)),
   (.mtile p d a b, [d, a, b], [(acc < 4, d), (suits va, a), (TilesSuit s va vb false, b)], .tile acc va vb (desc s va) (desc s vb)),
   (.mtilet p d a b, [d, a, b], [(acc < 4, d), (suits va, a), (TilesSuit s va vb true, b)], .tile acc va vb (desc s va) (desc s vb)),
   (.mrec p d a b, [d, a, b], [(acc < 4, d), (HoldsSlot s va ∧ desc s va = 32 * 2 ^ 11 + 31 * 2 ^ 6 + 8 + 2 ^ 20, a),
      (vb < 2 ^ 12 ∧ vb / 2 ^ 4 % 16 = 0 ∧
        ∀ t < n, (vb + t) % 16 ≠ va ∧ HoldsSlot s ((vb + t) % 16) ∧ desc s ((vb + t) % 16) = 32 * 2 ^ 11 + 31 * 2 ^ 6 + 8, b)],
      .recur acc va (vb % 16) n),
   (.mread p d a b, [d, a, b], [(acc < 4, d), (vb < 2 ^ 33 ∧ vb / 2 ^ 6 % 4 = 0 ∧ fmtValid fmt = true, b),
      (vb.testBit 32 = true → HoldsSlot s va, a), (vb.testBit 32 = true → SlotFormat fmt, b), (vb.testBit 32 = false → va % fmtBytes fmt = 0, a)],
      .read acc va (vb.testBit 32) fmt (vb / 2 ^ 16 % 2 ^ 16) (if vb / 2 ^ 8 % 2 ^ 8 < 2 ^ 7 then (vb / 2 ^ 8 % 2 ^ 8 : Nat) else (vb / 2 ^ 8 % 2 ^ 8 : Nat) - 2 ^ 8)
        (s.thr.mrdcfg.toNat % 4) (s.thr.mrdcfg.getLsbD 2))]

/-- The next command in the order of commands (R207). -/
def MatQueued (s t : State) (x : Txn) (op : MatOp) : Prop :=
  let m := s.w.matrix s.core
  Onward s t x 1 ∧ t.w = { s.w with
    cmdSeq := s.w.cmdSeq + 1
    matrices := tabSet s.core { m with queue := m.queue ++ [{ thread := s.turn, sp := wordSpace s, seq := s.w.cmdSeq + 1, op := op }] } s.w.matrices }

end Sys2Proof.Claims

/-- R221, R222, R235 to R239: a matrix word whose argument checks pass goes behind the commands in the core's matrix queue with what it
captured, and changes nothing else; a full queue of 16 holds the commit, and a failed check traps with the register at fault in tval. (Of
several that fail, which is at fault is the model's choice: log 116; that a slot may be named until its release is performed is its reading: log 74;
and so is that a count of 0 stands for 16 in `mrec`, and that the descriptor its slots must have is R238's with no block scales, which shuts SCL 1
out: log 73.) -/
def Obligations.MatrixWords : Prop :=
  ∀ (s : State) (x : Txn) (p : Pr) (d a b : Reg), ∀ q ∈ Claims.matrixWords s p d a b, Accesses s x p q.2.1 [] →
    (Claims.Pass q.2.2.1 → (s.w.matrix s.core).queue.length < 16 → ∃ t, exec q.1 s = .next t ∧ Claims.MatQueued s t x q.2.2.2) ∧
    (Claims.Pass q.2.2.1 → 16 ≤ (s.w.matrix s.core).queue.length → ∃ t, exec q.1 s = .next t ∧ Claims.Holds s t x .room) ∧
    ∀ r, Claims.FailsAt q.2.2.1 r → exec q.1 s = .next (trapWord s 0x07 (s.readG r))

/-- R221, R235, R236, R314: `oclaim` claims the slot that gA names, or the lowest free one when gA is 16 or above, and gives its number, or
all ones; `orel` notes the release behind the thread's earlier commands, and `odesc` sets a valid descriptor of a slot the thread holds. (That a
slot whose release is pending is still held, and that its first release stands, is the model's reading: log 74; that `odesc` looks at the slot in gD
before the descriptor in gA is its choice: log 116.) -/
def Obligations.SlotWords : Prop :=
  ∀ (s : State) (x : Txn) (p : Pr) (d a : Reg),
    let slot (n : Nat) : Slot := s.w.slotOp (16 * s.core + n)
    let va := (s.readG a).toNat
    let vd := (s.readG d).toNat
    (Accesses s x p [a] [] →
      (∀ n, n < 16 → (slot n).phase = .free → (va = n ∨ (16 ≤ va ∧ ∀ m < n, (slot m).phase ≠ .free)) →
        ∃ t, exec (.oclaim p d a) s = .next t ∧ Onward s t x 1 ∧ (∀ r, t.readG r = regs s d (BitVec.ofNat 64 n) r) ∧ t.w.mem = s.w.mem ∧
          t.w.slotOp (16 * s.core + n) = { Slot.reset with phase := .claimed s.turn } ∧
          ∀ k, k ≠ 16 * s.core + n → t.w.slotOp k = s.w.slotOp k) ∧
      ((if va < 16 then (slot va).phase ≠ .free else ∀ m < 16, (slot m).phase ≠ .free) →
        ∃ t, exec (.oclaim p d a) s = .next t ∧ WroteG s t x 1 d (BitVec.allOnes 64))) ∧
    (Accesses s x p [d] [] →
      (¬ Claims.HoldsSlot s vd → exec (.orel p d) s = .next (trapWord s 0x07 (s.readG d))) ∧
      (Claims.HoldsSlot s vd → ∃ t, exec (.orel p d) s = .next t ∧ Onward s t x 1 ∧ t.w.mem = s.w.mem ∧ t.w.threads = s.w.threads ∧
        t.w.slotOp (16 * s.core + vd) = { slot vd with release := some ((slot vd).release.getD (s.w.cmdSeq + 1)) })) ∧
    (Accesses s x p [d, a] [] →
      (¬ Claims.HoldsSlot s vd → exec (.odesc p d a) s = .next (trapWord s 0x07 (s.readG d))) ∧
      (Claims.HoldsSlot s vd → ¬ Claims.DescValid va → exec (.odesc p d a) s = .next (trapWord s 0x07 (s.readG a))) ∧
      (Claims.HoldsSlot s vd → Claims.DescValid va → ∃ t, exec (.odesc p d a) s = .next t ∧ Onward s t x 1 ∧
        t.w = s.w.setSlotOp (16 * s.core + vd) { slot vd with desc := va }))

/-- R221, R222, R241 to R244, R320: a copy command whose block passes its checks goes behind those of its channel's queue of 8, with its block
and its follow-on as they stand; `cpwp` reads the channel's pointer and `cpcancel` cancels the thread's copies on the channel, and goes on with one
of them that stood stalled before its payload was done (a stamp that stands stalled stays so). (A cancelled copy stays in the queue and stamps when
it is reached: the model's reading, log 75; that a slot whose release is pending suits a follow-on is its reading too: log 74; that the channel is
looked at before the follow-on in gB, and that before the block, is its choice: log 116.) -/
def Obligations.CopyWords : Prop :=
  ∀ (s : State) (x : Txn) (p : Pr) (d a b : Reg),
    let k := 4 * s.core + (s.readG d).toNat
    let ka := 4 * s.core + (s.readG a).toNat
    let ch := s.w.channel k
    let queues (i : Instr) (w : World) (follow : Option MatOp) (blk : Block) : Prop :=
      (ch.queue.length < 8 → ∃ t, exec i s = .next t ∧ Onward s t x 1 ∧ t.w = { w with
        cmdSeq := w.cmdSeq + 1
        channels := tabSet k { ch with queue := ch.queue ++ [{ thread := s.turn, sp := wordSpace s, seq := w.cmdSeq + 1, blk := blk
                                                               follow := follow, cancelled := false }] } w.channels }) ∧
      (8 ≤ ch.queue.length → ∃ t y, exec i s = .next t ∧ t.txn = some y ∧ y.held = x.held.or (some .room) ∧ t.w.mem = s.w.mem)
    (∀ w gs, checkAccess s.w s.core (wordSpace s) .load .acqRel (s.readG a).toNat 64 = (w, .ok gs) → (s.readG d).toNat < 4 →
      let blk := BitVec.ofNat 512 (Claims.loadedValue s w gs)
      let w' := touchSegs w s.turn Touch.load gs
      (Accesses s x p [d, a] [] →
        (copyValid s.w s.turn blk = true → queues (.cpy p d a) w' none blk) ∧
        (copyValid s.w s.turn blk = false → exec (.cpy p d a) s = .next (trapWord s 0x07 (s.readG a)))) ∧
      (Accesses s x p [d, a, b] [] →
        let v := (s.readG b).toNat
        let sa := v / 2 ^ 4 % 16
        let sb := v / 2 ^ 8 % 16
        let good := v < 2 ^ 13 ∧ v / 4 % 4 = 0 ∧ Claims.TilesSuit s sa sb (v.testBit 12)
        (good → copyValid s.w s.turn blk = true → cKind blk ≠ 0 →
          queues (.cpym p d a b) w' (some (.tile (v % 4) sa sb (Claims.desc s sa) (Claims.desc s sb))) blk) ∧
        (good → copyValid s.w s.turn blk = false ∨ cKind blk = 0 → exec (.cpym p d a b) s = .next (trapWord s 0x07 (s.readG a))) ∧
        (¬ good → exec (.cpym p d a b) s = .next (trapWord s 0x07 (s.readG b))))) ∧
    (Accesses s x p [d, a] [] → 4 ≤ (s.readG d).toNat → exec (.cpy p d a) s = .next (trapWord s 0x07 (s.readG d))) ∧
    (Accesses s x p [d, a, b] [] → 4 ≤ (s.readG d).toNat → exec (.cpym p d a b) s = .next (trapWord s 0x07 (s.readG d))) ∧
    (Accesses s x p [a] [] →
      (4 ≤ (s.readG a).toNat → exec (.cpwp p d a) s = .next (trapWord s 0x07 (s.readG a))) ∧
      ((s.readG a).toNat < 4 → ∃ t, exec (.cpwp p d a) s = .next t ∧ WroteG s t x 1 d
        (match (s.w.channel ka).cur, (s.w.channel ka).queue with
         | some y, _ => BitVec.ofNat 64 (cStval y.blk % 2 ^ 16 * 2 ^ 48 + writePointer y.blk (s.w.channel ka).pos % 2 ^ 48)
         | none, y :: _ => BitVec.ofNat 64 (cStval y.blk % 2 ^ 16 * 2 ^ 48)
         | none, [] => BitVec.allOnes 64))) ∧
    (Accesses s x p [d] [] →
      (4 ≤ (s.readG d).toNat → exec (.cpcancel p d) s = .next (trapWord s 0x07 (s.readG d))) ∧
      ((s.readG d).toNat < 4 →
        let cut (y : CopyCmd) : CopyCmd := if y.thread = s.turn then { y with cancelled := true, follow := none } else y
        let goesOn := ∃ y, ch.cur = some y ∧ y.thread = s.turn ∧ y.cancelled = false ∧ ch.pos < cTotal y.blk
        ∃ t b c, exec (.cpcancel p d) s = .next t ∧ Onward s t x 1 ∧ (goesOn → b = false ∧ c = false) ∧ (¬ goesOn → b = ch.stalled ∧ c = ch.met) ∧
          t.w = s.w.setChannel k { ch with queue := ch.queue.map cut, cur := ch.cur.map cut, stalled := b, met := c }))

namespace Sys2Proof.Claims

/-- The queued Sluice words that read no memory: the registers they read, their checks, and what they queue (R245). -/
def sluiceWords (s : State) (p : Pr) (d a : Reg) : List (Instr × List Reg × List (Prop × Reg) × SelOp) :=
  let vd := (s.readG d).toNat
  let va := (s.readG a).toNat
  [(.selput p d a, [d, a], [(vd < 2 ^ 32, d), (va < 2 ^ 32, a)], .put vd va),
   (.seldrain p d, [d], [(vd < 4, d)], .drain (vd.testBit 1) (vd.testBit 0)),
   (.selhist p d a, [d, a], [(va % 8 = 0, a), (vd < 2, d)], .hist va (vd.testBit 0)),
   (.topk p d a, [d, a], [(vd % 4 = 0, d), (va < 2 ^ 35 ∧ va % 2 ^ 32 ≤ 2 ^ 24, a)], .topk vd (va % 2 ^ 32) (va.testBit 32) (va.testBit 33) (va.testBit 34))]

/-- The Sluice's queue takes a command behind those it holds. -/
def SelQueued (s : State) (w w' : World) (op : SelOp) (owner : Option Nat) : Prop :=
  let z := s.w.sluice s.core
  w' = { w with
    cmdSeq := w.cmdSeq + 1
    sluices := tabSet s.core { z with owner := owner
                                      queue := z.queue ++ [{ thread := s.turn, sp := wordSpace s, seq := w.cmdSeq + 1, op := op }] } w.sluices }

end Sys2Proof.Claims

/-- R221, R222, R224, R245, R246: the Sluice words: `selcfg` of a valid block claims a Sluice that no other thread holds, and the others of the
thread that holds it go behind the commands in its queue of 16; while another thread's configuration stands it holds its commit, and the block sees the unit as its own; a word of another thread, or with a failed check, traps.
(The checks see what earlier words of the block did: log 16; of several that fail, which is at fault is the model's choice: log 116.) -/
def Obligations.SluiceWords : Prop :=
  ∀ (s : State) (x : Txn) (p : Pr) (d a : Reg),
    let z := s.w.sluice s.core
    let mine := z.owner = some s.turn
    (∀ q ∈ Claims.sluiceWords s p d a, Accesses s x p q.2.1 [] →
      (¬ mine → exec q.1 s = .next (trapWord s 0x07 (s.readG d))) ∧
      (∀ r, mine → Claims.FailsAt q.2.2.1 r → exec q.1 s = .next (trapWord s 0x07 (s.readG r))) ∧
      (mine → Claims.Pass q.2.2.1 → z.queue.length < 16 → ∃ t, exec q.1 s = .next t ∧ Onward s t x 1 ∧ Claims.SelQueued s s.w t.w q.2.2.2 z.owner) ∧
      (mine → Claims.Pass q.2.2.1 → 16 ≤ z.queue.length → ∃ t, exec q.1 s = .next t ∧ Claims.Holds s t x .room)) ∧
    (∀ w gs, checkAccess s.w s.core (wordSpace s) .load .acqRel (s.readG d).toNat 64 = (w, .ok gs) → Accesses s x p [d] [] →
      let blk := BitVec.ofNat 512 (Claims.loadedValue s w gs)
      (selValid blk = false → exec (.selcfg p d) s = .next (trapWord s 0x07 (s.readG d))) ∧
      (selValid blk = true → z.owner = none ∨ mine → z.queue.length < 16 → ∃ t, exec (.selcfg p d) s = .next t ∧ Onward s t x 1 ∧
        Claims.SelQueued s (touchSegs w s.turn Touch.load gs) t.w (.cfg blk) (some s.turn)) ∧
      (selValid blk = true → z.owner = none ∨ mine → 16 ≤ z.queue.length →
        ∃ t y, exec (.selcfg p d) s = .next t ∧ t.txn = some y ∧ y.held = x.held.or (some .room) ∧ t.w.mem = s.w.mem) ∧
      (selValid blk = true → z.owner ≠ none → ¬ mine →
        ∃ t y, exec (.selcfg p d) s = .next t ∧ t.txn = some y ∧ y.held = x.held.or (some .room) ∧ t.w.mem = s.w.mem ∧
          (t.w.sluice s.core).owner = some s.turn)) ∧
    (Accesses s x p [d, a] [] →
      (¬ mine → exec (.selarm p d a) s = .next (trapWord s 0x07 (s.readG d))) ∧
      (mine → 2 ^ 10 ≤ (s.readG d).toNat ∨ (s.readG d).toNat / 2 ^ 6 % 4 ≠ 0 → exec (.selarm p d a) s = .next (trapWord s 0x07 (s.readG d)))) ∧
    (∀ w gs, checkAccess s.w s.core (wordSpace s) .load .acqRel (s.readG a).toNat 64 = (w, .ok gs) → Accesses s x p [d, a] [] → mine →
      let blk := BitVec.ofNat 512 (Claims.loadedValue s w gs)
      let v := (s.readG d).toNat
      v < 2 ^ 10 → v / 2 ^ 6 % 4 = 0 →
        (copyValid s.w s.turn blk = false → exec (.selarm p d a) s = .next (trapWord s 0x07 (s.readG a))) ∧
        (copyValid s.w s.turn blk = true → 16 ≤ z.queue.length →
          ∃ t y, exec (.selarm p d a) s = .next t ∧ t.txn = some y ∧ y.held = x.held.or (some .room) ∧ t.w.mem = s.w.mem) ∧
        (copyValid s.w s.turn blk = true → z.queue.length < 16 → ∃ t, exec (.selarm p d a) s = .next t ∧ Onward s t x 1 ∧
          Claims.SelQueued s (touchSegs w s.turn Touch.load gs) t.w (.arm (v % 2 ^ 6) (v / 2 ^ 8) blk) z.owner))

namespace Sys2Proof.Claims

/-- The session of number `n` that the thread may name: on its die and with its asid (R224). -/
def Names (s : State) (n : Nat) (y : Session) : Prop :=
  n / 128 = s.die ∧ s.w.session? n = some y ∧ y.sp.asid = (wordSpace s).asid

/-- A command that gives code `c` and does nothing else. -/
def Reports (s : State) (x : Txn) (i : Instr) (d : Reg) (c : Word) : Prop := ∃ t, exec i s = .next t ∧ WroteG s t x 1 d c

end Sys2Proof.Claims

/-- R15 to R18, R20, R224, R249: the Headwater words. `hwstat` reads a session's status; `hwfeed`, `hwpic` and `hwclose` give 2 for a session that
the thread may not name; a chunk and descriptors that pass go behind those queued, a full queue gives 1, a count or a length out of range 3, and a bad descriptor 4; `hwclose` gives 0, an abort marks the session, and a drain begins, with what is queued still to be decoded; `hwopen` gives
an Open session the lowest context of the least loaded engine of the die. (The lowest context, and that code 3 comes before code 6, is the model's
reading: log 82; so is that an abort leaves the session held and marked, and what a drain and a failed session wait for: log 83; that code 3 of
`hwfeed` and `hwpic` comes before code 4, and code 4 before code 1, is its choice: log 126.) -/
def Obligations.HeadwaterWords : Prop :=
  ∀ (s : State) (x : Txn) (p : Pr) (d a b : Reg),
    let n := (s.readG d).toNat
    let va := (s.readG a).toNat
    let vb := (s.readG b).toNat
    (Accesses s x p [a] [] →
      (∀ y, Claims.Names s va y → Claims.Reports s x (.hwstat p d a) d (BitVec.ofNat 64
        (y.state + y.err * 2 ^ 8 + y.chunks.length * 2 ^ 16 + y.descs.length * 2 ^ 24 + y.pdone % 2 ^ 32 * 2 ^ 32))) ∧
      ((∀ y, ¬ Claims.Names s va y) → Claims.Reports s x (.hwstat p d a) d (BitVec.allOnes 64)) ∧
      (va % 64 ≠ 0 → exec (.hwopen p d a) s = .next (trapWord s 0x07 (s.readG a))) ∧
      (∀ w gs, va % 64 = 0 → checkAccess s.w s.core (wordSpace s) .load .acqRel va 64 = (w, .ok gs) →
        let blk := BitVec.ofNat 512 (Claims.loadedValue s w gs)
        let gives (c : Word) : Prop := ∃ t, exec (.hwopen p d a) s = .next t ∧ Onward s t x 1 ∧ (∀ r, t.readG r = regs s d c r) ∧
          t.w.mem = s.w.mem ∧ t.w.sessions = s.w.sessions
        (4 ≤ hCodec blk → gives 0x8000000000000003) ∧ (hCodec blk < 4 → sessionBad blk = true → gives 0x8000000000000006) ∧
        (hCodec blk < 4 → sessionBad blk = false → pickEngine s.w s.die = none → gives 0x8000000000000006) ∧
        (∀ e, hCodec blk < 4 → sessionBad blk = false → pickEngine s.w s.die = some e →
          ∀ m < 16, (∀ j < m, tabHas (128 * s.die + 16 * e + j) s.w.sessions = true) → tabHas (128 * s.die + 16 * e + m) s.w.sessions = false →
          let num := 128 * s.die + 16 * e + m
          ∃ t y, exec (.hwopen p d a) s = .next t ∧ Onward s t x 1 ∧ (∀ r, t.readG r = regs s d (BitVec.ofNat 64 num) r) ∧
            t.w.session? num = some y ∧ y.state = 1 ∧ y.blk = blk ∧ y.va = va ∧ y.chunks = [] ∧ y.descs = [] ∧ y.pdone = 0))) ∧
    (Accesses s x p [d, a, b] [] →
      ((∀ y, ¬ Claims.Names s n y) → Claims.Reports s x (.hwfeed p d a b) d 2 ∧
        ∀ w gs, checkAccess s.w s.core (wordSpace s) .load .acqRel va 64 = (w, .ok gs) →
          ∃ t, exec (.hwpic p d a b) s = .next t ∧ Onward s t x 1 ∧ (∀ r, t.readG r = regs s d 2 r) ∧ t.w.mem = s.w.mem ∧
            t.w.sessions = s.w.sessions ∧ t.w.cmdSeq = s.w.cmdSeq) ∧
      ∀ y, Claims.Names s n y →
        let open_ := 1 ≤ y.state ∧ y.state ≤ 3 ∧ y.draining = false
        let stays := y.ending = false ∧ y.freeing = false
        (¬ open_ → Claims.Reports s x (.hwfeed p d a b) d 2) ∧
        (open_ → vb = 0 ∨ 2 ^ 24 < vb → Claims.Reports s x (.hwfeed p d a b) d 3) ∧
        (open_ → vb ≠ 0 → vb ≤ 2 ^ 24 → 16 ≤ y.chunks.length → Claims.Reports s x (.hwfeed p d a b) d 1) ∧
        (open_ → stays → vb ≠ 0 → vb ≤ 2 ^ 24 → y.chunks.length < 16 → ∃ t u, exec (.hwfeed p d a b) s = .next t ∧ Onward s t x 1 ∧
          (∀ r, t.readG r = regs s d 0 r) ∧ t.w.session? n = some u ∧ u.state = (if y.state = 1 then 2 else y.state) ∧
          u.chunks = y.chunks ++ [{ va := va, len := vb, thread := s.turn, seq := s.w.cmdSeq + 1 }] ∧ (y.state ≠ 1 → t.w.mem = s.w.mem)) ∧
        (∀ w gs, checkAccess s.w s.core (wordSpace s) .load .acqRel va 64 = (w, .ok gs) →
          let blk := BitVec.ofNat 512 (Claims.loadedValue s w gs)
          let ds := [blk.setWidth 256, (blk >>> 256).setWidth 256].take vb
          let valid := ∀ o ∈ ds, outputValid o = true
          let gives (c : Word) : Prop := ∃ t, exec (.hwpic p d a b) s = .next t ∧ Onward s t x 1 ∧ (∀ r, t.readG r = regs s d c r) ∧
            t.w.mem = s.w.mem ∧ t.w.sessions = s.w.sessions
          (¬ open_ → gives 2) ∧ (open_ → vb = 0 ∨ 2 < vb → gives 3) ∧ (open_ → 1 ≤ vb → vb ≤ 2 → ¬ valid → gives 4) ∧
          (open_ → 1 ≤ vb → vb ≤ 2 → valid → 4 < y.descs.length + vb → gives 1) ∧
          (open_ → stays → 1 ≤ vb → vb ≤ 2 → y.descs.length + vb ≤ 4 → valid → ∃ t u, exec (.hwpic p d a b) s = .next t ∧ Onward s t x 1 ∧ (∀ r, t.readG r = regs s d 0 r) ∧
            t.w.session? n = some u ∧ u.state = (if y.state = 3 then 2 else y.state) ∧
            u.descs = y.descs ++ ds.map (fun o => (o, s.turn, s.w.cmdSeq + 1)) ∧ (y.state ≠ 3 → t.w.mem = s.w.mem)))) ∧
    (Accesses s x p [d, a] [] →
      (2 ≤ va → exec (.hwclose p d a) s = .next (trapWord s 0x07 (s.readG a))) ∧
      (va < 2 → (∀ y, ¬ Claims.Names s n y) → Claims.Reports s x (.hwclose p d a) d 2) ∧
      (∀ y, va = 1 → Claims.Names s n y → y.state ≠ 5 → ∃ t, exec (.hwclose p d a) s = .next t ∧ Onward s t x 1 ∧
        (∀ r, t.readG r = regs s d 0 r) ∧ t.w.session? n = some { y with aborting := true, stalled := false, met := false, after := (s.turn, s.w.cmdSeq + 1) } ∧ t.w.mem = s.w.mem) ∧
      (∀ y, va = 0 → Claims.Names s n y → y.state ≠ 5 → y.state = 4 ∨ y.draining = true → Claims.Reports s x (.hwclose p d a) d 0) ∧
      (∀ y, va = 0 → Claims.Names s n y → y.state < 4 → y.draining = false → y.stalled = false → y.ending = false → y.freeing = false →
        let z := { y with draining := true, after := (s.turn, s.w.cmdSeq + 1) }
        let w := ({ s.w with cmdSeq := s.w.cmdSeq + 1 } : World).setSession n z
        ∃ t, exec (.hwclose p d a) s = .next t ∧ (mayStart w s.turn (s.w.cmdSeq + 1) 6 = false → t.w.session? n = some z ∧ t.w.mem = s.w.mem) ∧
          (mayStart w s.turn (s.w.cmdSeq + 1) 6 = true → y.chunks ≠ [] → nextParsed y ≠ .badSequence →
            ∃ u, t.w.session? n = some u ∧ u.state = 4 ∧ u.draining = false ∧ u.chunks = y.chunks ∧ u.descs = y.descs)) ∧
      (∀ y, va < 2 → Claims.Names s n y → ∃ t, exec (.hwclose p d a) s = .next t ∧ Onward s t x 1 ∧ ∀ r, t.readG r = regs s d 0 r))

/-! ## Firings of the fabric -/

namespace Sys2Proof.Claims

/-- Between blocks, element `e` fires handler `h` now, and the handler holds operation `op`, breaks no field rule (R88) and has no
invalid control word at a head (R57, R64, R65). -/
def FiresNow (s : State) (e h op : Nat) : Prop :=
  s.txn = none ∧ selected s.w e = some h ∧ (handler (s.w.elem e).act h).op = op ∧ fieldBad (s.w.elem e).act h = false ∧
    ((s.w.elem e).heads h).any Token.badCtl = false

/-- The firing `i` leaves element `e` as `y` with its context counter behind `h` and its next firing in a later cycle (R65), and flags `f` ORed into the numeric flag word of
its region (R92); no other element, no stream, no thread and no byte of memory changes. -/
def Fired (s : State) (i : Instr) (e h : Nat) (y : Elem) (f : Flags) : Prop :=
  ∃ w, exec i s = .next { s with w := w } ∧ w.elem e = { y with ctx := (h + 1) % 4, busyAt := s.w.cycle, wake := s.w.cycle + 1 } ∧
    (∀ e', e' ≠ e → w.elem e' = s.w.elem e') ∧ w.mem = s.w.mem ∧ w.threads = s.w.threads ∧ w.streams = s.w.streams ∧
    ∀ r, regionOf s.w e = some r → (w.region r).nfl = (s.w.region r).nfl ||| f

/-- The firing ends in an element fault of a cause: the region takes it unless it has one or is frozen, and nothing else differs (R72, R266). -/
def Faulted (s : State) (i : Instr) (e cause : Nat) : Prop :=
  exec i s = .next { s with w := match regionOf s.w e with
    | some r => if (s.w.region r).fault.isSome || (s.w.region r).frozen then s.w
        else s.w.setRegion r { s.w.region r with fault := some (e, cause) }
    | none => s.w }

/-- Every head is a control word of the code of `t` (R66). -/
def AllCtl (ts : List Token) (t : Token) : Prop := ts.find? Token.isCtl = some t ∧ ∀ u ∈ ts, u.isCtl = true ∧ u.code = t.code

/-- The operations whose data result is a function of MODE and the operands a, b, c: code, latency, and the result with its flags
(R87, R90, R92 to R98). -/
def FabricOp (e h : Nat) (q : Instr × Nat × Nat × (Nat → W32 → W32 → W32 → W32 × Flags)) : Prop :=
  let int (f : W32 → W32 → Int) (_ : Nat) (a b _ : W32) : W32 × Flags := (BitVec.ofInt 32 (f a b), 0)
  let sat (v : Int) : Int := max (-2 ^ 31) (min (2 ^ 31 - 1) v)
  let toInt (m : Nat) (a : W32) : Int × Flags :=
    if m.testBit 2 then fwToInt (m % 4) 0 (2 ^ 32 - 1) a else fwToInt (m % 4) (-2 ^ 31) (2 ^ 31 - 1) a
  q ∈ [(.iadd e h, 0x00, 1, int fun a b => a.toInt + b.toInt), (.isub e h, 0x01, 1, int fun a b => a.toInt - b.toInt),
   (.imul e h, 0x02, 2, int fun a b => a.toInt * b.toInt),
   (.imulh e h, 0x03, 2, fun m => int (fun a b => if m.testBit 2 then (a.toNat * b.toNat / 2 ^ 32 : Nat) else a.toInt * b.toInt / 2 ^ 32) m),
   (.iand e h, 0x04, 1, fun _ a b _ => (a &&& b, 0)), (.ior e h, 0x05, 1, fun _ a b _ => (a ||| b, 0)), (.ixor e h, 0x06, 1, fun _ a b _ => (a ^^^ b, 0)),
   (.ishl e h, 0x07, 1, int fun a b => if b.toNat < 32 then (a.toNat * 2 ^ b.toNat : Nat) else 0),
   (.ishr e h, 0x08, 1, int fun a b => if b.toNat < 32 then (a.toNat / 2 ^ b.toNat : Nat) else 0),
   (.isra e h, 0x09, 1, int fun a b => a.toInt / 2 ^ min b.toNat 31),
   (.imin e h, 0x0A, 1, int fun a b => min a.toInt b.toInt), (.imax e h, 0x0B, 1, int fun a b => max a.toInt b.toInt),
   (.iminn e h, 0x0C, 1, int fun a b => min a.toNat b.toNat), (.imaxn e h, 0x0D, 1, int fun a b => max a.toNat b.toNat),
   (.iabs e h, 0x0E, 1, int fun a _ => a.toInt.natAbs), (.iaddsat e h, 0x0F, 1, int fun a b => sat (a.toInt + b.toInt)),
   (.iclamp e h, 0x10, 1, fun _ a b c => (BitVec.ofInt 32 (min (max a.toInt b.toInt) c.toInt), 0)),
   (.fabricFadd e h, 0x20, 3, fun m a b _ => fwAdd (m % 4) a b), (.fabricFsub e h, 0x21, 3, fun m a b _ => fwSub (m % 4) a b),
   (.fabricFmul e h, 0x22, 3, fun m a b _ => fwMul (m % 4) a b), (.fabricFfma e h, 0x23, 3, fun m a b c => fwFma (m % 4) a b c),
   (.fabricFmin e h, 0x24, 1, fun _ a b _ => (fwMin a b, 0)), (.fabricFmax e h, 0x25, 1, fun _ a b _ => (fwMax a b, 0)),
   (.fabricFabs e h, 0x26, 1, fun _ a _ _ => (fwAbs a, 0)), (.fabricFneg e h, 0x27, 1, fun _ a _ _ => (fwNeg a, 0)),
   (.frcp e h, 0x2A, 6, fun m a _ _ => fwRcp (m % 4) a), (.frsq e h, 0x2B, 6, fun m a _ _ => fwRsq (m % 4) a),
   (.fexp2 e h, 0x2C, 6, fun m a _ _ => fwExp2 (m % 4) a), (.flog2 e h, 0x2D, 6, fun m a _ _ => fwLog2 (m % 4) a),
   (.fabricFscale e h, 0x2E, 1, fun m a b _ => fwScale (m % 4) a b.toInt), (.fabricFxexp e h, 0x2F, 1, fun _ a _ _ => (fwExp a, 0)),
   (.fabricFcvti e h, 0x30, 2, fun m a _ _ => (BitVec.ofInt 32 (toInt m a).1, (toInt m a).2)),
   (.fabricFcvtf e h, 0x31, 2, fun m a _ _ => roundFw (.ofInt (if m.testBit 2 then (a.toNat : Int) else a.toInt)) (m % 4)),
   (.fabricMov e h, 0x40, 1, fun _ a _ _ => (a, 0)), (.fabricSel e h, 0x41, 1, fun _ a b c => (if c ≠ 0 then a else b, 0))]

/-- The compares: code, and the bit with its flags (R91, R95, R98). -/
def FabricCompare (e h : Nat) (q : Instr × Nat × (W32 → W32 → Bool × Flags)) : Prop :=
  q ∈ [(.iceq e h, 0x11, fun a b => (a == b, 0)), (.iclt e h, 0x12, fun a b => (decide (a.toInt < b.toInt), 0)),
   (.icltn e h, 0x13, fun a b => (decide (a.toNat < b.toNat), 0)), (.fabricFceq e h, 0x28, fun a b => (fwEq a b, 0)),
   (.fabricFclt e h, 0x29, fwLt), (.inv e h, 0x45, fun a _ => (a == 0, 0))]

end Sys2Proof.Claims

/-- R66, R86, R87, R90 to R98: a firing takes one token from each required port and emits its result after the operation's latency on the
lanes of `OUTL`; a compare also drives the control output that its handler feeds, and emits no data under `MODE` bit 3. Heads that are
control words of one code pass as one, and heads that do not match fault the element. (That a compare which feeds the control output fires only
while it has room for a bit is the model's reading: log 61. What rounding gives for the arithmetic on `fw32` is said by `FloatWords`.) -/
def Obligations.FabricArithmetic : Prop :=
  ∀ (s : State) (e h : Nat),
    let x := s.w.elem e
    let hd := handler x.act h
    let a := operand x h hd.opa
    let b := operand x h hd.opb
    let passes (i : Instr) : Prop :=
      (∀ t, Claims.AllCtl (x.heads h) t → Claims.Fired s i e h ((x.takeAll h).emitCtl s.w.cycle h t) 0) ∧
      ((∃ u ∈ x.heads h, u.isCtl = true) → (∀ t, ¬ Claims.AllCtl (x.heads h) t) → Claims.Faulted s i e 0x05)
    (∀ q, Claims.FabricOp e h q → Claims.FiresNow s e h q.2.1 →
      let r := q.2.2.2 hd.mode a b (operand x h hd.opc)
      ((∀ u ∈ x.heads h, u.isCtl = false) → Claims.Fired s q.1 e h ((x.takeAll h).emitData s.w.cycle q.2.2.1 h r.1) r.2) ∧ passes q.1) ∧
    ∀ q, Claims.FabricCompare e h q → Claims.FiresNow s e h q.2.1 →
      let r := q.2.2 a b
      let y := if hd.mode.testBit 3 then x.takeAll h else (x.takeAll h).emitData s.w.cycle 1 h (if r.1 then 1 else 0)
      ((∀ u ∈ x.heads h, u.isCtl = false) → Claims.Fired s q.1 e h
        (if feedsControl x.act h then { y with cout := y.cout ++ [({ b := r.1, epoch := x.epoch, due := s.w.cycle + 1 }, field x.act 11 % 16)] } else y) r.2) ∧ passes q.1

/-- R66, R98 to R102: `steer` sends its data token one way or the other by a control bit, or on the lane that b names, and a control word both ways; `gate` and `filt` pass a
by a control bit; `merge` takes the arm that the bit selects; and `carry` discards a control word that comes back and passes a data token.
Where a handler requires a port that is neither a nor b, the firing takes a token of it too (R86). -/
def Obligations.FabricSteering : Prop :=
  ∀ (s : State) (e h : Nat),
    let x := s.w.elem e
    let hd := handler x.act h
    let a := operand x h hd.opa
    let data := ∀ u ∈ x.heads h, u.isCtl = false
    let tok (v : W32) : Token := { kind := 0, chan := hd.och, pay := v }
    let bit1 := x.bitHead
    let out := field x.act 1 % 2 ^ 8
    (Claims.FiresNow s e h 0x42 → data →
      (hd.mode.testBit 0 = false → Claims.Fired s (.steer e h) e h
        ((x.takeAll h).takeBit.emitOn s.w.cycle 1 (if bit1 then out else hd.aux % 2 ^ 8) (tok a)) 0) ∧
      (hd.mode.testBit 0 = true →
        let l := (operand x h hd.opb).toNat % 8
        (out.testBit l = true → Claims.Fired s (.steer e h) e h ((x.takeAll h).emitOn s.w.cycle 1 (2 ^ l) (tok a)) 0) ∧
        (out.testBit l = false → Claims.Faulted s (.steer e h) e 0x06))) ∧
    (Claims.FiresNow s e h 0x42 → ∀ t, Claims.AllCtl (x.heads h) t →
      Claims.Fired s (.steer e h) e h ((x.takeAll h).emitOn s.w.cycle 1 (if hd.mode.testBit 0 then out else out ||| hd.aux % 2 ^ 8) { t with chan := hd.och }) 0) ∧
    (Claims.FiresNow s e h 0x46 → data → Claims.Fired s (.gate e h) e h
      ((x.takeAll h).takeBit.emitData s.w.cycle 1 h (if bit1 then a else operand x h hd.opb)) 0) ∧
    (Claims.FiresNow s e h 0x47 → data → Claims.Fired s (.filt e h) e h
      (if bit1 then (x.takeAll h).takeBit.emitData s.w.cycle 1 h a else (x.takeAll h).takeBit) 0) ∧
    (Claims.FiresNow s e h 0x43 →
      let p := if bit1 then hd.opa else hd.opb
      let z := x.takeTriggers h
      (∀ ta tb, x.seen hd.opa h = some ta → x.seen hd.opb h = some tb → ta.isCtl = true → tb.isCtl = true →
        (ta.code = tb.code → Claims.Fired s (.merge e h) e h (((z.take hd.opa h).take hd.opb h).emitCtl s.w.cycle h ta) 0) ∧
        (ta.code ≠ tb.code → Claims.Faulted s (.merge e h) e 0x05)) ∧
      ((∀ ta tb, x.seen hd.opa h = some ta → x.seen hd.opb h = some tb → ta.isCtl = false ∨ tb.isCtl = false) →
        Claims.Fired s (.merge e h) e h ((z.take p h).takeBit.emitData s.w.cycle 1 h (operand x h p)) 0)) ∧
    (Claims.FiresNow s e h 0x44 →
      let z := x.takeTriggers h
      (∀ t, x.seen hd.opb h = some t → Claims.Fired s (.carry e h) e h
        (if t.isData then (z.take hd.opb h).emitData s.w.cycle 1 h t.pay else z.take hd.opb h) 0) ∧
      (x.seen hd.opb h = none → (controlReader x.act h = false ∨ x.cq = []) → ∀ t, x.seen hd.opa h = some t → t.isData = false →
        Claims.Fired s (.carry e h) e h ((z.take hd.opa h).emitCtl s.w.cycle h t) 0) ∧
      (x.seen hd.opb h = none → (controlReader x.act h = false ∨ x.cq = []) → ∀ t, x.seen hd.opa h = some t → t.isData = true →
        let y := z.take hd.opa h
        Claims.Fired s (.carry e h) e h
          ((if controlReader x.act h then y.setK h 1 (x.kreg h 1 + 1) else y).emitData s.w.cycle 1 h t.pay) 0) ∧
      (x.seen hd.opb h = none → controlReader x.act h = true → x.cq ≠ [] →
        (bit1 = true → Claims.Fired s (.carry e h) e h z.takeBit 0) ∧
        (bit1 = false → x.kreg h 1 = 0 → Claims.Faulted s (.carry e h) e 0x05) ∧
        (bit1 = false → x.kreg h 1 ≠ 0 → Claims.Fired s (.carry e h) e h (z.takeBit.setK h 1 (x.kreg h 1 - 1)) 0)))

/-- R86, R98, R103 to R105: `dup` emits its head k0 times and takes it with the last, and the token of any other port it requires each time;
`drop` emits nothing, `cntr` emits its count and steps it, ends a run of k0 and closes it with a control word in a firing of its own, and `sink`
takes a head and counts an EOS. (That a `drop` under `MODE` bit 0 takes whatever stands at its heads is the model's choice: log 117; that a counter
which closes its runs stops with the closing word, and has its registers back before it, is its reading: log 118.) -/
def Obligations.FabricCounting : Prop :=
  ∀ (s : State) (e h : Nat),
    let x := s.w.elem e
    let hd := handler x.act h
    let a := operand x h hd.opa
    let data := ∀ u ∈ x.heads h, u.isCtl = false
    let k (i : Nat) : W32 := x.kreg h i
    (Claims.FiresNow s e h 0x48 → data →
      (k 0 = 0 → Claims.Fired s (.dup e h) e h (x.takeAll h) 0) ∧
      (k 0 ≠ 0 → k 1 + 1 = k 0 → Claims.Fired s (.dup e h) e h (((x.takeAll h).setK h 1 0).emitData s.w.cycle 1 h a) 0) ∧
      (k 0 ≠ 0 → k 1 + 1 ≠ k 0 → Claims.Fired s (.dup e h) e h (((x.takeTriggers h).setK h 1 (k 1 + 1)).emitData s.w.cycle 1 h a) 0)) ∧
    (Claims.FiresNow s e h 0x49 → data ∨ hd.mode.testBit 0 = true → Claims.Fired s (.drop e h) e h (x.takeAll h) 0) ∧
    (Claims.FiresNow s e h 0x4A →
      let closes := tabGet 0 h x.aux = 1
      let restart (y : Elem) : Elem := (y.setK h 1 (initK y.act h 1)).setK h 3 0
      let stop (z : Elem) : Elem := if hd.mode.testBit 2 then { z with stopped := z.stopped ||| 2 ^ h } else z
      (closes → Claims.Fired s (.cntr e h) e h
        ((stop { x with aux := tabDel h x.aux }).emitCtl s.w.cycle h { kind := 2, chan := 0, pay := BitVec.ofNat 32 (hd.mode % 4) }) 0) ∧
      (¬ closes → data →
        let y := (((x.takeAll h).setK h 1 (k 1 + k 2)).setK h 3 (k 3 + 1)).emitData s.w.cycle 1 h (k 1)
        Claims.Fired s (.cntr e h) e h (if k 0 = 0 ∨ k 3 + 1 ≠ k 0 then y
          else if hd.mode % 4 = 0 then stop (restart y) else { restart y with aux := tabSet h 1 y.aux }) 0)) ∧
    (Claims.FiresNow s e h 0x4B → ∀ p ∈ portsOf hd.qreq, ∀ t, x.seen p h = some t → (∀ q ∈ portsOf hd.qreq, q < p → x.seen q h = none) →
      let n := if k 1 = BitVec.allOnes 32 then k 1 else k 1 + 1
      let y := (x.take p h).setK h 1 n
      Claims.Fired s (.sink e h) e h
        (if t.isCtl = true ∧ t.code = 3 then (if k 0 ≠ 0 ∧ n = k 0 then { y with reported := y.reported ||| 2 ^ h } else y) else x.take p h) 0)

namespace Sys2Proof.Claims

/-- The group operations: code, the lanes for k0, what a data token `v` makes of lane `j` that holds `o`, if it holds one, and the result of lane
`i` at a closing word (R106, R107). -/
def GroupOp (e h : Nat) (mode : Nat) (q : Instr × Nat × (Option W32 → W32 → W32 × Flags)) : Prop :=
  let keep (f : W32 → W32 → W32 × Flags) (o : Option W32) (v : W32) : W32 × Flags := match o with
    | some u => f u v
    | none => (v, 0)
  q ∈ [(.accg e h, 0x60, keep fun a b => if mode.testBit 2 then (BitVec.ofInt 32 (max (-2 ^ 31) (min (2 ^ 31 - 1) (a.toInt + b.toInt))), 0)
     else fwAdd (mode % 4) a b),
   (.maxg e h, 0x61, keep fun a b => (if mode.testBit 2 then BitVec.ofInt 32 (max a.toInt b.toInt) else fwMax a b, 0))]

/-- A data token counts: lane and elements, the latter up to all ones (R107). -/
def counted (x : Elem) (h n : Nat) : Elem :=
  ((x.takeAll h).setK h 1 (BitVec.ofNat 32 (((x.kreg h 1).toNat % n + 1) % n))).setK h 2
    (if x.kreg h 2 = BitVec.allOnes 32 then x.kreg h 2 else x.kreg h 2 + 1)

end Sys2Proof.Claims

/-- R58, R106 to R108: `accg` and `maxg` fold each data token into the lane it falls to, `argmx` keeps the greatest and its index and `cntg` counts; at a
closing word a group emits its lanes' results one by one, and then passes the word and is empty. `hdrw` writes a header, `scal` scales by the latched header, and `grpc` passes data and closes its groups. (That `scal` answers a NaN before it looks at its scale byte is the
model's reading: log 19.) -/
def Obligations.FabricGroups : Prop :=
  ∀ (s : State) (e h : Nat),
    let x := s.w.elem e
    let hd := handler x.act h
    let a := operand x h hd.opa
    let data := ∀ u ∈ x.heads h, u.isCtl = false
    let n := (x.kreg h 0).toNat
    (∀ q, Claims.GroupOp e h hd.mode q → Claims.FiresNow s e h q.2.1 → data → 1 ≤ n → n ≤ 4 → ∀ t, x.seen hd.opa h = some t →
      let j := (x.kreg h 1).toNat % n
      let r := q.2.2 (if tabHas j x.bank then some (tabGet 0 j x.bank) else none) t.pay
      Claims.Fired s q.1 e h { Claims.counted x h n with bank := tabSet j r.1 x.bank } r.2) ∧
    (∀ q, Claims.GroupOp e h hd.mode q → Claims.FiresNow s e h q.2.1 → n = 0 ∨ 4 < n → Claims.Faulted s q.1 e 0x08) ∧
    (∀ q, Claims.GroupOp e h hd.mode q → Claims.FiresNow s e h q.2.1 → 1 ≤ n → n ≤ 4 → ∀ t, x.seen hd.opa h = some t → Claims.AllCtl (x.heads h) t →
      t.code = (if hd.mode.testBit 3 then 1 else 2) →
      let i := (x.kreg h 3).toNat
      (i < n → Claims.Fired s q.1 e h ((x.setK h 3 (x.kreg h 3 + 1)).emitData s.w.cycle 1 h (tabGet 0 i x.bank)) 0) ∧
      (n ≤ i → Claims.Fired s q.1 e h (((x.takeAll h).closeGroup h).emitCtl s.w.cycle h t) 0)) ∧
    (Claims.FiresNow s e h 0x62 → data → ∀ t, x.seen hd.opa h = some t →
      let better := isNaN t.pay = false ∧ (tabHas 0 x.bank = false ∨ (fwLt (tabGet 0 0 x.bank) t.pay).1 = true)
      Claims.Fired s (.argmx e h) e h { Claims.counted x h 1 with
        bank := if better then tabSet 0 t.pay (tabSet 1 (x.kreg h 2) x.bank) else x.bank } 0) ∧
    (Claims.FiresNow s e h 0x63 → data → ∀ t, x.seen hd.opa h = some t → Claims.Fired s (.cntg e h) e h (Claims.counted x h 1) 0) ∧
    (Claims.FiresNow s e h 0x64 → data →
      let v := if hd.mode.testBit 0 then a else (x.kreg h 0 &&& 0xFFFFFF00) ||| (a &&& 0xFF)
      let good := v.toNat < 2 ^ 23 ∧ fmtValid (v.toNat / 2 ^ 17) = true
      (good → Claims.Fired s (.hdrw e h) e h ((x.takeAll h).emitOn s.w.cycle 1 (field x.act 1 % 2 ^ 8) { kind := 1, chan := hd.och, pay := v }) 0) ∧
      (¬ good → Claims.Faulted s (.hdrw e h) e 0x03)) ∧
    (Claims.FiresNow s e h 0x65 → data →
      let sc : Nat := (x.latchOf h hd.opa).toNat % 2 ^ 8
      let r := match fw a with
        | .nan => (fwNaN, 0)
        | .zero neg => if sc = 255 then (fwNaN, fNV) else roundFw (.zero neg) (hd.mode % 4)
        | _ => if sc = 255 then (fwNaN, fNV) else fwScale (hd.mode % 4) a ((sc : Int) - 127)
      Claims.Fired s (.scal e h) e h ((x.takeAll h).emitData s.w.cycle 1 h r.1) r.2) ∧
    (Claims.FiresNow s e h 0x66 →
      (tabGet 0 h x.aux = 1 → Claims.Fired s (.grpc e h) e h
        ({ x with aux := tabDel h x.aux }.emitCtl s.w.cycle h { kind := 2, chan := 0, pay := 2 }) 0) ∧
      (tabGet 0 h x.aux ≠ 1 → data →
        let g := if n = 0 then (x.latchOf h hd.opa).toNat / 2 ^ 8 % 2 ^ 8 + 1 else n
        let y := (x.takeAll h).emitData s.w.cycle 1 h a
        let k1 := x.kreg h 1 + 1
        Claims.Fired s (.grpc e h) e h (if g ≤ k1.toNat then { y.setK h 1 0 with aux := tabSet h 1 y.aux } else y.setK h 1 k1) 0))

/-! ## Edge and video operations -/

namespace Sys2Proof.Claims

/-- Element `e` fires the edge operation `op` of handler `h`, whose stream is bound to memory by a pattern that suits it (R113). -/
def EdgeNow (s : State) (e h op : Nat) : Prop :=
  FiresNow s e h op ∧ (boundStream s.w e h).port = false ∧
    patternBad op (handler (s.w.elem e).act h).mode (patternOf (boundStream s.w e h).blk) = false

/-- The firing begins its handler's stream if it has not begun (R231), leaves element `e` as `y` and ORs flags `f` into its region's word;
no other element, no thread and no byte of memory changes. -/
def Issued (s : State) (i : Instr) (e h : Nat) (y : Elem) (f : Flags) : Prop :=
  ∃ w, exec i s = .next { s with w := w } ∧ w.elem e = { y with ctx := (h + 1) % 4, busyAt := s.w.cycle, wake := s.w.cycle + 1 } ∧
    (∀ e', e' ≠ e → w.elem e' = s.w.elem e') ∧ w.mem = s.w.mem ∧ w.threads = s.w.threads ∧
    ∀ r, regionOf s.w e = some r → (w.region r).nfl = (s.w.region r).nfl ||| f

/-- One element takes its tokens and issues one access, the next of its stream (R114). -/
def issues (x : Elem) (h : Nat) (a : Access) : Elem := ((x.takeAll h).issue a).setAt h (x.at_ h + 1)

end Sys2Proof.Claims

/-- R66, R110 to R120: the firings of the edge operations on memory. A load reads the next element of its pattern, or the one its index names; a store,
an atomic or a chain access issues one access at its element's address with its value in the stored format; what an edge issues is performed later.
An `ldst` past its last element ends its stream with EOS, and a control word at every head passes. -/
def Obligations.EdgeIssues : Prop :=
  ∀ (s : State) (e h : Nat),
    let w := beginStream s.w e h
    let x := w.elem e
    let hd := handler x.act h
    let p := patternOf (boundStream s.w e h).blk
    let a := operand x h hd.opa
    let b := operand x h hd.opb
    let c := operand x h hd.opc
    let n := x.at_ h
    let size := fmtBytes p.fmt
    let indexed := exactAddr (p.base + a.toInt * p.istr)
    let data := ∀ u ∈ x.heads h, u.isCtl = false
    let access (op : AccessOp) (va len val : Nat) (outs : List Out) (slot : Option Nat) : Access := newAccess x h op va len p.fmt val p.hint outs slot
    let eos (y : Elem) : Elem := { y.emitCtl w.cycle h { kind := 2, chan := 0, pay := 3 } with stopped := y.stopped ||| 2 ^ h }
    let chain (op : AccessOp) (val : Nat) (outs : List Out) (slot : Option Nat) : Access :=
      { access op indexed size val outs slot with link := p.chain * 2 ^ 32 + c.toNat }
    (Claims.EdgeNow s e h 0x80 → hd.qreq = 0 ∨ x.seen hd.opa h = none →
      (p.total ≤ n ∨ x.ended h = true → Claims.Issued s (.ldst e h) e h (eos x) 0) ∧
      (n + 1 < p.total → x.ended h = false →
        Claims.Issued s (.ldst e h) e h (loadElement w x h p 0 n (n / p.cnt.headD 1) []) 0) ∧
      (n + 1 = p.total → x.ended h = false →
        let y := loadElement w x h p 0 n (n / p.cnt.headD 1) [x.ctlOut w.cycle h 3]
        Claims.Issued s (.ldst e h) e h { y with stopped := y.stopped ||| 2 ^ h } 0)) ∧
    (Claims.EdgeNow s e h 0x80 → hd.qreq ≠ 0 → ∀ t, x.seen hd.opa h = some t →
      let y := x.take hd.opa h
      (t.isData = false ∨ x.stopped.testBit h = true → Claims.Issued s (.ldst e h) e h y 0) ∧
      (t.isData = true → x.stopped.testBit h = false → t.pay ≠ 0 →
        Claims.Issued s (.ldst e h) e h (y.setWork h wPhase (x.work h wPhase + 1)) 0) ∧
      (t.isData = true → x.stopped.testBit h = false → t.pay = 0 → Claims.Issued s (.ldst e h) e h (eos (y.setWork h wEnd (n + 1))) 0)) ∧
    (Claims.EdgeNow s e h 0x81 → ∀ t, x.seen hd.opa h = some t →
      (t.isCtl = true → t.code ≠ 3 → Claims.Issued s (.stst e h) e h (x.takeAll h) 0) ∧
      (t.isCtl = true → t.code = 3 → Claims.Issued s (.stst e h) e h ((x.takeAll h).emitCtl w.cycle h t) 0) ∧
      (t.isCtl = false → p.total ≤ n → Claims.Issued s (.stst e h) e h (x.takeAll h) 0) ∧
      (t.isCtl = false → n < p.total →
        let v := storeToken p.fmt t.pay
        Claims.Issued s (.stst e h) e h (Claims.issues x h
          (access .store (p.addr n) size v.1 (if hd.mode.testBit 0 then [x.dataOut w.cycle h (BitVec.ofNat 32 n)] else []) none)) v.2)) ∧
    (data →
      (Claims.EdgeNow s e h 0x82 → p.total ≠ 0 →
        let m := n % p.total
        Claims.Issued s (.ldg e h) e h
          (loadElement w (if m + 1 = p.total then x.takeAll h else x) h p (a.toInt * p.istr) m (n / p.cnt.headD 1) []) 0) ∧
      (Claims.EdgeNow s e h 0x83 → let v := storeToken p.fmt b
        Claims.Issued s (.stg e h) e h (Claims.issues x h (access .store indexed size v.1 [] none)) v.2) ∧
      (Claims.EdgeNow s e h 0x84 → indexed % 4 = 0 →
        Claims.Issued s (.amo e h) e h (Claims.issues x h
          (access (.amo hd.mode c.toNat) indexed 4 b.toNat [x.dataOut w.cycle h 0] (some 0))) 0) ∧
      (Claims.EdgeNow s e h 0x85 → indexed % size = 0 →
        Claims.Issued s (.chld e h) e h (Claims.issues x h (chain .chainLoad 0 [x.dataOut w.cycle h 0] (some 0))) 0) ∧
      (Claims.EdgeNow s e h 0x86 → indexed % size = 0 → let v := storeToken p.fmt b
        Claims.Issued s (.chst e h) e h (Claims.issues x h (chain .chainStore v.1 [] none)) v.2) ∧
      (Claims.EdgeNow s e h 0x87 → indexed % size = 0 →
        Claims.Issued s (.chadd e h) e h (Claims.issues x h (chain .chainAdd b.toNat
          (if hd.mode.testBit 0 then [x.dataOut w.cycle h 0] else []) (if hd.mode.testBit 0 then some 0 else none))) 0)) ∧
    ∀ op i, (op, i) ∈ [(0x82, Instr.ldg e h), (0x83, .stg e h), (0x84, .amo e h), (0x85, .chld e h), (0x86, .chst e h), (0x87, .chadd e h)] →
      Claims.EdgeNow s e h op → ∀ t, Claims.AllCtl (x.heads h) t → Claims.Issued s i e h ((x.takeAll h).emitCtl w.cycle h t) 0

/-- R113, R232: on a stream bound as a thread port an `ldst` sends on the token at the head of the input queue and a `stst` puts its token into the
output queue; any other edge operation is an element fault, as is any edge operation whose bound pattern breaks its form or does not suit it. (Which
patterns break it where the spec's table is silent is the model's reading: log 65; that an EOS from the port ends the stream's use, log 64.) R123,
R322: a `selin` that fires has its pair ranked into the Sluice's cells, behind every pair that it does not rank above, where its score is no NaN;
an EOR at both heads begins a drain, and any other control word passes. -/
def Obligations.PortsAndSluiceOffers : Prop :=
  ∀ (s : State) (e h : Nat),
    let w := beginStream s.w e h
    let x := w.elem e
    let hd := handler x.act h
    let k := streamKey w e h
    let st := w.stream k
    let count (t : Token) : Nat := if t.isData then min (st.cnt + 1) (2 ^ 32 - 1) else st.cnt
    ((boundStream s.w e h).port = true →
      (Claims.FiresNow s e h 0x80 → ∀ t rest, st.inq = t :: rest → ∃ v, exec (.ldst e h) s = .next { s with w := v } ∧
        v.stream k = { st with inq := rest, cnt := count t, begun := if t.isCtl && t.code == 3 then false else st.begun } ∧ v.mem = s.w.mem ∧ v.threads = s.w.threads ∧
        v.elem e = { { x with stopped := if t.isCtl && t.code == 3 then x.stopped ||| 2 ^ h else x.stopped &&& (15 - 2 ^ h) }.emitOn
          w.cycle 1 (field x.act 1 % 2 ^ 8) t with ctx := (h + 1) % 4, busyAt := s.w.cycle, wake := s.w.cycle + 1 }) ∧
      (Claims.FiresNow s e h 0x81 → ∀ t, x.seen hd.opa h = some t → (t.isCtl = false ∨ t.code ≠ 3) →
        ∃ v, exec (.stst e h) s = .next { s with w := v } ∧ v.stream k = { st with outq := st.outq ++ [t], cnt := count t } ∧
          v.mem = s.w.mem ∧ v.threads = s.w.threads ∧ v.elem e = { x.takeAll h with ctx := (h + 1) % 4, busyAt := s.w.cycle, wake := s.w.cycle + 1 }) ∧
      ∀ op i, (op, i) ∈ [(0x82, Instr.ldg e h), (0x83, .stg e h), (0x84, .amo e h), (0x85, .chld e h), (0x86, .chst e h), (0x87, .chadd e h),
          (0x88, .btwalk e h), (0x89, .cfrd e h), (0xA0, .warp e h), (0xA1, .drift e h), (0xA2, .mvcell e h), (0xA3, .rfq e h)] →
        Claims.FiresNow s e h op → Claims.Faulted s i e 0x07) ∧
    ((boundStream s.w e h).port = false → ∀ op i,
      (op, i) ∈ [(0x80, Instr.ldst e h), (0x81, .stst e h), (0x82, .ldg e h), (0x83, .stg e h), (0x84, .amo e h), (0x85, .chld e h), (0x86, .chst e h),
        (0x87, .chadd e h), (0x88, .btwalk e h), (0x89, .cfrd e h), (0xA0, .warp e h), (0xA1, .drift e h), (0xA2, .mvcell e h), (0xA3, .rfq e h)] →
      Claims.FiresNow s e h op → patternBad op hd.mode (patternOf (boundStream s.w e h).blk) = true → Claims.Faulted s i e 0x07) ∧
    (Claims.FiresNow s e h 0x8A →
      let z := s.w.sluice (eCore e)
      let y := s.w.elem e
      let score := (operand y h (handler y.act h).opa).toNat
      let idx := (operand y h (handler y.act h).opb).toNat
      let accepts (z' : Sluice) : Prop := ∃ v, exec (.selin e h) s = .next { s with w := v } ∧ v.sluice (eCore e) = z' ∧
        v.elem e = { y.takeAll h with ctx := (h + 1) % 4, busyAt := s.w.cycle, wake := s.w.cycle + 1 } ∧ v.mem = s.w.mem ∧ v.threads = s.w.threads
      ((∀ u ∈ y.heads h, u.isCtl = false) →
        (isNaN (BitVec.ofNat 32 score) = true → accepts z) ∧
        (isNaN (BitVec.ofNat 32 score) = false →
          let above (q : Nat × Nat) : Bool := !ranksAbove (score, idx) q
          accepts { z with pairs := (z.pairs.takeWhile above ++ (score, idx) :: z.pairs.dropWhile above).take (zK z.blk) })) ∧
      ∀ t, Claims.AllCtl (y.heads h) t → (t.code = 1 → accepts { z with drain := some (false, false, 0), posted := 0 }) ∧
        (t.code ≠ 1 → Claims.Fired s (.selin e h) e h ((y.takeAll h).emitCtl s.w.cycle h t) 0))

namespace Sys2Proof.Claims

/-- No budget of memory slots or of CXL bytes has been reached, at a node or for the module, so that no access waits for the next period
(R141). -/
def Room (w : World) : Prop := ∀ i ∈ [2, 3], w.moduleNode.full i = false ∧ ∀ k, (w.node k).full i = false

/-- Bits `lo` to `lo` + `n` − 1 of a number. -/
def part (x lo n : Nat) : Nat := x / 2 ^ lo % 2 ^ n

/-- An element fault of cause *descriptor*. -/
def noDescriptor {α : Type} : Rd α := fun _ => .error (.bad 0x07)

/-- The column and row of unit `i` of a grid of 2^bc by 2^br units: its number's bits in turn, and what is left to the longer side (R25). -/
def placeOf (bc br i : Nat) : Nat × Nat :=
  let m := min bc br
  let half (k : Nat) : Nat := ((List.range m).map fun j => part i (2 * j + k) 1 * 2 ^ j).sum
  let rest := i / 4 ^ m * 2 ^ m
  if br < bc then (half 0 + rest, half 1) else (half 0, half 1 + rest)

/-- A transform unit: its place and its size in samples, both sides as log2, and where its values lie in the pool, if it has any (R25). -/
abbrev UnitAt : Type := Nat × Nat × Nat × Nat × Option Nat

/-- Units that are stored one behind another from `off` on, each coded one in 2 bytes a value (R25, R26). -/
def stored (off : Nat) (us : List (Nat × Nat × Nat × Nat × Bool)) : List UnitAt :=
  us.mapIdx fun i u =>
    let before := ((us.take i).filter (·.2.2.2.2)).map fun v => 2 * 2 ^ (v.2.2.1 + v.2.2.2.1)
    (u.1, u.2.1, u.2.2.1, u.2.2.2.1, if u.2.2.2.2 then some (off + before.sum) else none)

/-- The units of a record of 32 bytes, by its `TUL` (R24, R25). -/
def unitsOf (e hint pool b : Nat) : Rd (List UnitAt) := do
  let x := 4 * part b 0 16
  let y := 4 * part b 16 16
  let lw := part b 56 3
  let lh := part b 53 3
  let tw := part b 145 3
  let th := part b 142 3
  let off := part b 192 32
  let coded (i : Nat) : Bool := decide (i < 16) && b.testBit (176 + i)
  if part b 148 2 = 0 then return []
  else if part b 148 2 = 1 then return stored off [(x, y, lw, lh, coded 0)]
  else if part b 148 2 = 2 then
    return stored off ((List.range (2 ^ ((lw - tw) + (lh - th)))).map fun i =>
      let c := placeOf (lw - tw) (lh - th) i
      (x + c.1 * 2 ^ tw, y + c.2 * 2 ^ th, tw, th, coded i))
  else
    let n ← rdNum e hint (pool + off) 4
    let ds ← (List.range n).mapM fun i => rdNum e hint (pool + off + 4 + 4 * i) 4
    return stored (off + (4 + 4 * n + 31) / 32 * 32)
      (ds.map fun d => (x + 4 * part d 0 8, y + 4 * part d 8 8, part d 16 3, part d 19 3, d.testBit 22))

def dataTok (x : Nat) : Token := { kind := 0, chan := 0, pay := BitVec.ofNat 32 x }
def ctlTok (code : Nat) : Token := { kind := 2, chan := 0, pay := BitVec.ofNat 32 code }

/-- The whole stream of a walker of the block tensor at `base`: what `record` makes of each record of each CTU in raster order, and `close` behind
each CTU (R22, R23). `record` is told the header, the numbers of the CTU's records, and its own. -/
def walkOf (e hint base : Nat) (chroma : Bool) (record : Nat → List Nat → Nat → Rd (List Token)) (close : List Token) : Rd (List Token) := do
  let b ← rdNum e hint base 64
  let word (o : Nat) : Nat := part b (8 * o) 32
  if base % 64 ≠ 0 ∨ headerBad (BitVec.ofNat 512 b) = true then noDescriptor
  else
    let ix := word (if chroma then 0x18 else 0x14)
    let ctus ← (List.range (word 0x08)).mapM fun i => do
      if chroma = true ∧ ix = 0 then return close
      else
        let entry ← rdNum e hint (base + ix + 8 * i) 8
        let first := part entry 0 32
        let count := if b.testBit 2 then min (part entry 32 16) (word (if chroma then 0x10 else 0x0C) - first) else part entry 32 16
        let rs := (List.range count).map (first + ·)
        let ts ← rs.mapM fun r => record b rs r
        return ts.flatten ++ close
    return ctus.flatten

/-- Record `r` of the tensor at `base`: 32 bytes of the luma or the chroma records (R22). -/
def blockRecord (e hint base : Nat) (chroma : Bool) (b r : Nat) : Rd Nat :=
  rdNum e hint (base + part b (8 * (if chroma then 0x20 else 0x1C)) 32 + 32 * r) 32

/-- The stream of `btwalk` (R121). -/
def btwalkOf (e k0 : Nat) (p : Pattern) : Rd (List Token) :=
  walkOf e p.hint p.base p.cmp (fun b _ r => do
    let x ← blockRecord e p.hint p.base p.cmp b r
    return ((List.range 8).filter (k0.testBit ·)).map (fun i => dataTok (part x (32 * i) 32)) ++ [ctlTok 1]) [ctlTok 2]

/-- The stream of `cfrd` (R122). -/
def cfrdOf (e : Nat) (eor : Bool) (p : Pattern) : Rd (List Token) :=
  walkOf e p.hint p.base p.cmp (fun b _ r => do
    let x ← blockRecord e p.hint p.base p.cmp b r
    let kind := part x 59 3
    if part x 62 2 = 3 ∨ 5 ≤ kind then noDescriptor
    else
      let pool := p.base + part b 0x120 32
      let us ← unitsOf e p.hint pool x
      let coded := us.filterMap fun u => u.2.2.2.2.map fun o => (u, o)
      let ts ← coded.mapM fun (u, o) => do
        let n := 2 ^ (u.2.2.1 + u.2.2.2.1)
        if part b 0x140 32 < o + 2 * n then noDescriptor
        else
          let d ← rdNum e p.hint (pool + o) (2 * n)
          let g := if kind = 0 then 0 else if kind = 1 ∨ kind = 2 then 1 else 2
          let cls := (5 * g + (max u.2.2.1 u.2.2.2.1 - 2)) % 16
          return ((List.range n).filter fun i => part d (16 * i) 16 ≠ 0).map
            (fun i => dataTok (part d (16 * i) 16 * 2 ^ 16 + cls * 2 ^ 12 + i % 2 ^ 12)) ++ [ctlTok 2]
      return ts.flatten ++ if eor && !coded.isEmpty then [ctlTok 1] else []) []

/-- Does a unit contain a sample? -/
def holds (u : UnitAt) (x y : Nat) : Bool := decide (u.1 ≤ x ∧ x < u.1 + 2 ^ u.2.2.1 ∧ u.2.1 ≤ y ∧ y < u.2.1 + 2 ^ u.2.2.2.1)

/-- The cells of side `c` whose top-left sample lies in a record and in the picture, in raster order (R36). -/
def cellsOf (b x c : Nat) : List (Nat × Nat) :=
  let inside (at_ len size : Nat) : List Nat := (List.range (at_ + len)).filter fun z => at_ ≤ c * z ∧ c * z < at_ + len ∧ c * z < size
  let xs := inside (4 * part x 0 16) (2 ^ part x 56 3) (part b 32 16)
  let ys := inside (4 * part x 16 16) (2 ^ part x 53 3) (part b 48 16)
  ys.flatMap fun v => xs.map fun u => (u, v)

/-- The stream of `mvcell` (R125). -/
def mvcellOf (e : Nat) (p : Pattern) : Rd (List Token) :=
  walkOf e p.hint p.base false (fun b rs r => do
    let x ← blockRecord e p.hint p.base false b r
    if part x 62 2 = 3 ∨ 5 ≤ part x 59 3 then noDescriptor
    else
      let pool := p.base + part b 0x120 32
      let c := 4 * 2 ^ p.lvl
      let us ← unitsOf e p.hint pool x
      let cells := if part x 62 2 = 0 then cellsOf b x c else []
      if cells.isEmpty ∧ us.all (·.2.2.2.2.isNone) then return []
      else
        let group (opener : Nat) (zs : List (Nat × Nat)) : List Token :=
          [dataTok (2 ^ 31 + opener)] ++ zs.map (fun z => dataTok (z.2 % 2 ^ 11 * 2 ^ 11 + z.1 % 2 ^ 11)) ++ [ctlTok 2]
        let first (z : Nat × Nat) (i : Nat) : Bool := match us[i]? with
          | some u => holds u (c * z.1) (c * z.2) && (us.take i).all fun v => !holds v (c * z.1) (c * z.2)
          | none => us.all fun v => !holds v (c * z.1) (c * z.2)
        let groups := us.mapIdx fun i u => group (if u.2.2.2.2.isSome then 1 else 0) (cells.filter (first · i))
        let rest := cells.filter (first · us.length)
        let others ← if rest.isEmpty then pure [] else (rs.filter (· ≠ r)).mapM fun q => do
          let y ← blockRecord e p.hint p.base false b q
          unitsOf e p.hint pool y
        let shared := rest.any fun z => others.flatten.any fun u => holds u (c * z.1) (c * z.2)
        return [dataTok (5 * 2 ^ 29 + r % 2 ^ 29)] ++ ([1, 2, 3, 4, 5].map fun i => dataTok (part x (32 * i) 32)) ++ groups.flatten
          ++ if rest.isEmpty then [] else group (if shared then 2 else 0) rest) []

end Sys2Proof.Claims

/-- R21 to R26, R36, R121, R122, R125: a walker emits the token of its stream's ordinal, and EOS behind the last. The stream is that of the block tensor in
memory: `btwalk`'s words of each record that k0 names, and an EOR; `cfrd`'s nonzero values of each coded unit with their class and place, and an
EOG; `mvcell`'s records with their cells in the groups of their units. A tensor whose header breaks its layout is a descriptor fault. (Which
headers do is the model's reading: log 30; that a cell outside the picture has no record is its choice: log 67.) -/
def Obligations.TensorWalks : Prop :=
  ∀ (s : State) (e h : Nat), Claims.Room s.w →
    let w := beginStream s.w e h
    let x := w.elem e
    let hd := handler x.act h
    let p := patternOf (boundStream s.w e h).blk
    ∀ op i stream, (op, i, stream) ∈ [(0x88, Instr.btwalk e h, Claims.btwalkOf e (x.kreg h 0).toNat p), (0x89, .cfrd e h, Claims.cfrdOf e (hd.mode.testBit 0) p),
        (0xA2, .mvcell e h, Claims.mvcellOf e p)] → Claims.EdgeNow s e h op →
      (∀ ts v, stream w = .ok (ts, v) →
        (∀ t, ts[x.at_ h]? = some t → Claims.Issued s i e h
          ((x.emitOn w.cycle 1 (field x.act 1 % 2 ^ 8) { t with chan := hd.och }).setAt h (x.at_ h + 1)) 0) ∧
        (ts.length ≤ x.at_ h → Claims.Issued s i e h
          { x.emitCtl w.cycle h (Claims.ctlTok 3) with stopped := x.stopped ||| 2 ^ h } 0)) ∧
      ∀ b v, rdNum e p.hint p.base 64 w = .ok (b, v) → p.base % 64 ≠ 0 ∨ headerBad (BitVec.ofNat 512 b) = true →
        ∃ u, exec i s = .next { s with w := u } ∧ u.elem e = x ∧ u.mem = s.w.mem ∧ ∀ r, regionOf s.w e = some r →
          (s.w.region r).fault = none → (s.w.region r).frozen = false → (u.region r).fault = some (e, 0x07)

namespace Sys2Proof.Claims

/-- Whole cells and the fraction, in 1/64 of a cell, of a motion vector component at level `l` (R41). -/
def cellsAway (l : Nat) (m : Int) : Int := m / 2 ^ (6 + l)
def fraction (l : Nat) (m : Int) : Nat := (m - cellsAway l m * 2 ^ (6 + l)).toNat / 2 ^ l

/-- The weighted cells of a vector, clamped to the grid (R42). -/
def weighted (g : Grid) (mx my : Int) (x y : Nat) : List (Nat × Nat × Nat) :=
  let fx := fraction g.level mx
  let fy := fraction g.level my
  let u (d : Int) : Nat := (max 0 (min (x + cellsAway g.level mx + d) (g.wc - 1))).toNat
  let v (d : Int) : Nat := (max 0 (min (y + cellsAway g.level my + d) (g.hc - 1))).toNat
  [(u 0, v 0, (64 - fx) * (64 - fy)), (u 1, v 0, fx * (64 - fy)), (u 0, v 1, (64 - fx) * fy), (u 1, v 1, fx * fy)]

/-- `term` and `warp1` (R42): each term and each sum rounded to fw32, to nearest even; a cell of weight 0 is not read. -/
def warpedBy (e hint : Nat) (g : Grid) (mx my : Int) (x y c : Nat) : Rd (W32 × Flags) := do
  let ts ← (weighted g mx my x y).mapM fun (u, v, n) => do
    if n = 0 then return ((0 : W32), (0 : Flags))
    else
      let size := fmtBytes g.fmt
      let z ← rdNum e hint (g.data + v * g.pitch + u * ((g.cm1 + 1) * size) + c * size) size
      return roundFw (mulVal (fmtVal g.fmt z) (Val.make false n (-12))).1 0
  let t (i : Nat) : W32 × Flags := ts.getD i (0, 0)
  let a := fwAdd 0 (t 0).1 (t 1).1
  let b := fwAdd 0 (t 2).1 (t 3).1
  let r := fwAdd 0 a.1 b.1
  return (r.1, (t 0).2 ||| (t 1).2 ||| (t 2).2 ||| (t 3).2 ||| a.2 ||| b.2 ||| r.2)

/-- `halve` (R43): one less in the exponent field of an fw32; a result below 2^−510 is a zero of the sign, with UF and NX. -/
def halved (v : W32) : W32 × Flags :=
  let ex := part v.toNat 21 10
  if ex = 0 ∨ ex = 1023 then (v, 0) else if ex = 1 then (v &&& 0x80000000, fUF ||| fNX) else (v - 0x00200000, 0)

/-- The governing record as the handler keeps it: its kind, its vectors, and which reference each list uses (R24). -/
def kindOf (x : Elem) (h : Nat) : Nat := part (x.recW h 0) 27 3
def vector (x : Elem) (h k v : Nat) : Int := (BitVec.ofNat 16 (part (x.recW h (1 + k)) (16 * v) 16)).toInt
def uses (x : Elem) (h k : Nat) : Bool := (x.recW h 3).testBit (22 + k)
def refOf (x : Elem) (h k : Nat) : Nat := part (x.recW h 3) (24 + 4 * k) 4

/-- At least one list is used, and every used reference is described (R40, R43). -/
def allDescribed (x : Elem) (h : Nat) (g : Grid) : Bool :=
  (uses x h 0 || uses x h 1) && (!uses x h 0 || decide (refOf x h 0 < g.refn0)) && (!uses x h 1 || decide (refOf x h 1 < g.refn1))

/-- The descriptor of the reference of list `k`: at `REFBASE` + 64 · `REF0`, or + 64 · (16 + `REF1`) (R43). -/
def refGrid (e hint : Nat) (x : Elem) (h : Nat) (g : Grid) (k : Nat) : Rd Grid :=
  rdGrid e hint (g.refbase + 64 * ((if k = 0 then 0 else 16) + refOf x h k)) (some g)

/-- The lists that a record uses, with their references' descriptors. -/
def refGrids (e hint : Nat) (x : Elem) (h : Nat) (g : Grid) : Rd (List (Nat × Grid)) := do
  if uses x h 0 && uses x h 1 then
    let g0 ← refGrid e hint x h g 0
    let g1 ← refGrid e hint x h g 1
    return [(0, g0), (1, g1)]
  else if uses x h 0 then return [(0, ← refGrid e hint x h g 0)]
  else if uses x h 1 then return [(1, ← refGrid e hint x h g 1)]
  else return []

/-- The value that `warp` stores for channel `c` of cell (cx, cy), with its flags (R43). -/
def warpOf (e hint : Nat) (x : Elem) (h : Nat) (g : Grid) (cx cy c : Nat) : Rd (Nat × Flags) := do
  let a ← (do
    if kindOf x h ∈ [0, 3, 4] ∨ allDescribed x h g = false then return ((0 : W32), (0 : Flags))
    else
      let rs ← (← refGrids e hint x h g).mapM fun (k, r) => warpedBy e hint r (vector x h k 0) (vector x h k 1) cx cy c
      let z (i : Nat) : W32 × Flags := rs.getD i (0, 0)
      if rs.length = 2 then
        let sum := fwAdd 0 (z 0).1 (z 1).1
        let v := halved sum.1
        return (v.1, (z 0).2 ||| (z 1).2 ||| sum.2 ||| v.2)
      else return z 0 : Rd (W32 × Flags))
  let v := if x.work h wCoded = 1 then fwAdd 0 a.1 (BitVec.ofNat 32 (x.work h (wVals + c))) else (a.1, 0)
  let q := storeToken g.fmt v.1
  return (q.1, a.2 ||| v.2 ||| q.2)

/-- A lineage word (R39), with whether an anchor is asked for, and whether the cell is queued. -/
def lineWord (bound depth : Nat) (rfp deg anc : Bool) : Nat :=
  bound * 2 ^ 16 + (if rfp then 2 ^ 10 else 0) + (if deg then 2 ^ 9 else 0) + (if anc then 2 ^ 8 else 0) + depth

/-- What `drift` makes of a cell (R40, R45 to R47): its lineage word, whether it asks for an anchor, and whether it is queued. -/
def driftOf (e hint : Nat) (x : Elem) (h : Nat) (g : Grid) (cx cy : Nat) : Rd (Nat × Bool × Bool) := do
  let kind := kindOf x h
  let first := g.level = 0
  if 5 ≤ kind ∨ part (x.recW h 0) 30 2 = 3 then noDescriptor
  else if kind = 0 then return if first then (lineWord 0 0 false false true, false, false) else (lineWord 0 0 true false false, false, true)
  else if kind = 3 ∨ kind = 4 then
    return if first then (lineWord 0xFFFF 0 false true false, true, false) else (lineWord 0 0 true false false, false, true)
  else if allDescribed x h g = false then
    return if first then (lineWord 0xFFFF 255 false true false, true, false) else (lineWord 0xFFFF 255 true false false, false, true)
  else
    let refs ← refGrids e hint x h g
    let m ← rdNum e hint (g.dmodel + 8 * g.level) 8
    if part m 56 8 ≠ 0 then noDescriptor
    else
      let ks ← refs.mapM fun (k, r) =>
        ((weighted r (vector x h k 0) (vector x h k 1) cx cy).filter fun t => t.2.2 ≠ 0).mapM fun t => rdNum e hint (r.lin + 4 * (t.2.1 * r.wc + t.1)) 4
      let cells := ks.flatten
      let d := (cells.map (part · 0 8)).foldl max 0
      let b := (cells.map (part · 16 16)).foldl max 0
      let deg := cells.any (·.testBit 9)
      let pend := cells.any (·.testBit 10)
      let f := (refs.map fun (k, _) => (if fraction g.level (vector x h k 0) ≠ 0 then 1 else 0) + (if fraction g.level (vector x h k 1) ≠ 0 then 1 else 0)).foldl max 0
      let c := min 15 (Nat.log2 (part (x.recW h 4) 0 16 + 1))
      let d' := min 255 (d + 1)
      let b' := min 0xFFFF (b + part m 0 16 + part m 16 8 * f + part m 24 8 * c)
      let beyond := decide (part m 32 8 < d') || decide (part m 40 16 < b') || pend
      return if first then (lineWord b' d' false (beyond || deg) false, beyond || deg, false) else (lineWord b' d' beyond deg false, false, beyond)

/-- What `drift` makes of a cell in its refresh form, from the feeding cells of the level below (R50). -/
def refreshOf (e hint auxa : Nat) (g : Grid) (k cx cy : Nat) : Rd (Nat × Bool × Bool) := do
  let low ← rdGrid e hint auxa none
  if g.level = 0 ∨ low.level + 1 ≠ g.level then noDescriptor
  else
    let span (c n : Nat) : List Nat := (List.range (2 * k + 2)).map fun (i : Nat) => (max 0 (min (2 * (c : Int) - k + i) (n - 1))).toNat
    let cells ← ((span cy low.hc).flatMap fun v => (span cx low.wc).map fun u => (u, v)).mapM fun (u, v) =>
      rdNum e hint (low.lin + 4 * (v * low.wc + u)) 4
    let b := (cells.map (part · 16 16)).foldl max 0
    let deg := cells.any (·.testBit 9)
    let pend := cells.any (·.testBit 10)
    return (lineWord b 0 pend deg (b == 0 && !deg), false, pend)

end Sys2Proof.Claims

/-- R40 to R50, R126 to R128: `warp` keeps a record's words, faults on a token out of sequence and on a record that
breaks its form, and, for a cell, stores the value of one channel, its warped references and its residual rounded as R42 and R43 say, and passes the
cell with its last; `drift` stores a cell's lineage word, of R46 and R47 or, in its refresh form, of R50, and queues the cell where its rule says
so; `rfq` appends a cell to its grid's refresh queue. (Which descriptors break R38 and when a queue is needed are the model's readings: log 65,
log 107; what the form of a residual is, log 66; that only a prediction reads the drift model, log 108.) -/
def Obligations.GridOperations : Prop :=
  ∀ (s : State) (e h : Nat) (v v' : World) (g : Grid), Claims.Room s.w →
    let w := beginStream s.w e h
    let x := w.elem e
    let hd := handler x.act h
    let p := patternOf (boundStream s.w e h).blk
    let b := warpB hd
    let phase := x.work h wPhase
    let after (n : Nat) : Nat := if n = phShared then phLast else n
    let cx (t : Token) : Nat := t.pay.toNat % 2 ^ 11
    let cy (t : Token) : Nat := t.pay.toNat / 2 ^ 11 % 2 ^ 11
    (Claims.EdgeNow s e h 0xA0 → ∀ t, x.seen hd.opa h = some t → t.isData = true → phase ≠ phVals →
      let faults (cause : Nat) : Prop := ∃ u, exec (.warp e h) s = .next { s with w := u } ∧ u.elem e = x ∧ u.mem = s.w.mem ∧
        ∀ r, regionOf s.w e = some r → (s.w.region r).fault = none → (s.w.region r).frozen = false → (u.region r).fault = some (e, cause)
      (∀ next, inCells phase = false → sequenceStep phase b.isSome t = some next → (phase = 1 → recBad t.pay.toNat = false) →
        Claims.Issued s (.warp e h) e h (keepToken (x.take hd.opa h) h next t) 0) ∧
      (sequenceStep phase b.isSome t = none → faults 0x05) ∧
      (phase = 1 → recBad t.pay.toNat = true → faults 0x07) ∧
      (∀ val, inCells phase = true → t.pay.toNat < 2 ^ 22 → rdGrid e p.hint p.base none w = .ok (g, v) → g.fmt = p.fmt →
        cx t < g.wc → cy t < g.hc → Claims.kindOf x h < 5 → x.recW h 0 / 2 ^ 30 % 4 ≠ 3 →
        Claims.warpOf e p.hint x h g (cx t) (cy t) (x.work h wChan) v = .ok (val, v') →
          let c := x.work h wChan
          let out := x.dataOut w.cycle h (BitVec.ofNat 32 (cy t * 2 ^ 11 + cx t))
          let z := x.issue (newAccess x h .store (g.data + cy t * g.pitch + cx t * ((g.cm1 + 1) * fmtBytes g.fmt) + c * fmtBytes g.fmt) (fmtBytes g.fmt) g.fmt val.1
            p.hint (if c = g.cm1 then [out] else []) none)
          Claims.Issued s (.warp e h) e h
            (if c = g.cm1 then (((z.take hd.opa h).setWork h wPhase (after phase)).setWork h wChan 0).setAt h (x.at_ h + 1) else z.setWork h wChan (c + 1)) val.2)) ∧
    (Claims.EdgeNow s e h 0xA1 → ∀ t d, x.seen hd.opa h = some t → t.isData = true → rdGrid e p.hint p.base none w = .ok (g, v) →
      g.level = 0 ∨ g.rq ≠ 0 → cx t < g.wc → cy t < g.hc →
      (if hd.mode.testBit 0 then (∀ u ∈ x.heads h, u.isCtl = false) ∧ hd.opa < 4 ∧ Claims.refreshOf e p.hint p.auxa g (hd.mode / 2 % 4) (cx t) (cy t) v = .ok (d, v')
        else inCells phase = true ∧ t.pay.toNat < 2 ^ 22 ∧ Claims.driftOf e p.hint x h g (cx t) (cy t) v = .ok (d, v')) →
      let y := if hd.mode.testBit 0 then x else x.setWork h wPhase (after phase)
      let y1 := y.issue (newAccess y h .store (g.lin + 4 * (cy t * g.wc + cx t)) 4 0x05 d.1 p.hint [y.dataOut w.cycle h (BitVec.ofNat 32 d.1)] none)
      let y2 := if d.2.1 && g.prec != 0 then y1.issue (newAccess y1 h .orWord (g.prec + 0x10) 4 probeFmt 0x40 p.hint [] none) else y1
      let y3 := if d.2.2 then y2.issue (newAccess y2 h .append (g.rq + 8) 8 probeFmt (2 ^ 63 + g.level * 2 ^ 32 + cy t * 2 ^ 16 + cx t) p.hint [] none) else y2
      Claims.Issued s (.drift e h) e h ((y3.take hd.opa h).setAt h (x.at_ h + 1)) 0) ∧
    (Claims.EdgeNow s e h 0xA3 → (∀ u ∈ x.heads h, u.isCtl = false) → rdGrid e p.hint p.base none w = .ok (g, v) → g.rq ≠ 0 →
      let a := (operand x h hd.opa).toNat
      Claims.Issued s (.rfq e h) e h (Claims.issues x h (newAccess x h .append (g.rq + 8) 8 0x05
        (2 ^ 63 + g.level * 2 ^ 32 + a / 2 ^ 11 % 2 ^ 11 * 2 ^ 16 + a % 2 ^ 11) p.hint [x.dataOut w.cycle h 0] (some 0))) 0)

/-! ## Events of the device -/

namespace Sys2Proof.Claims

/-- Between two blocks the event `i` happens, and leaves the device as `P` says; whose turn it is and what the world does next are
unchanged (R130). -/
def Happens (s : State) (i : Instr) (P : World → Prop) : Prop := s.txn = none → ∃ w, exec i s = .next { s with w := w } ∧ P w

/-- The event `i`, whose accesses a budget could hold back, happens while no budget of memory slots or of CXL bytes has been reached
(R141). -/
def Performs (s : State) (i : Instr) (P : World → Prop) : Prop := Room s.w → Happens s i P

/-- No byte of memory and no thread is changed. -/
def Quiet (s : State) (w : World) : Prop := w.mem = s.w.mem ∧ w.threads = s.w.threads

/-- Of the elements only `e` is changed. -/
def Alone (s : State) (w : World) (e : Nat) : Prop := ∀ f, f ≠ e → w.elem f = s.w.elem f

/-- Thread `t`, which was as `th`, has entered its handler between two blocks: the saved registers, the mode, the event mask and the
handler's address (R131, R134, R259); what the waits of an abandoned block took of its event flag is given back (R213). No other thread and no
byte of memory is changed. -/
def EntersHandler (s : State) (t : Nat) (th : Thread) (code : Nat) (v : Word) (idx : Nat) (w : World) : Prop :=
  w.mem = s.w.mem ∧ (∀ u, u ≠ t → w.thread u = s.w.thread u) ∧ ∃ ts, w.thread t = { th with
      tcause := BitVec.ofNat 64 code, tval := v, tepc := th.pc, tidx := BitVec.ofNat 64 idx, tstat := ts
      pc := th.thand, phase := .running, wait := none, since := none
      flag := th.flag || decide (0 < th.wakes), wakes := 0 } ∧
    ts.getLsbD 1 = true ∧ ts.getLsbD 0 = th.tstat.getLsbD 1 ∧ ts.getLsbD 2 = true ∧ ts.getLsbD 3 = th.tstat.getLsbD 2

/-- The block of thread `t` at its block counter traps before it begins: the handler is entered, and the turn goes on (R131, R167). -/
def BlockTraps (s : State) (t code : Nat) (v : Word) (idx : Nat) : Prop :=
  ∃ u, exec (.illegalBlock t) s = .next u ∧ u.txn = none ∧ u.turn = nextTurn u.w t ∧ EntersHandler s t (s.w.thread t) code v idx u.w

/-- A header word as R166 and R167 ask: its mark, its reserved bits, and a word count that its lines hold. -/
def GoodHeader (h : W32) : Prop :=
  h.toNat / 2 ^ 16 = 0xA500 ∧ h.toNat / 2 ^ 7 % 2 ^ 7 = 0 ∧ 0 < h.toNat % 2 ^ 7 ∧ h.toNat % 2 ^ 7 < 32 * (h.toNat / 2 ^ 14 % 4 + 1)

/-- The indices from `i` up to `n` at which an instruction begins, at most `k` of them: the extension word of a long form is passed
over (R167, R168). -/
def wordsFrom (word : Nat → W32) (n i : Nat) : Nat → List Nat
  | 0 => []
  | k + 1 => if n < i then [] else i :: wordsFrom word n (if isLong (word i) then i + 2 else i + 1) k

/-- Is a word an exit (R168)? -/
def exitWord (v : W32) : Bool :=
  match decode v 0 with
  | .ok i => i.isExit
  | .error _ => false

end Sys2Proof.Claims

/-- R131, R133, R167, R177, R259: the oldest pending event of a thread that `EVM` does not hold is taken between blocks; a wait that is over lets its
thread run; a block that is not legal (its header, a nonzero word behind its last, a ninth exit, a
long form at its last word), or a line of which cannot be fetched, traps before it begins, and a word that is no instruction traps when it is reached.
(That only a word which decodes counts as an exit is the model's reading: log 14; which of several faults of a block is named is its choice, log 123.) -/
def Obligations.ThreadEvents : Prop :=
  ∀ (s : State) (t : Nat),
    let th := s.w.thread t
    (∀ e rest, th.events = e :: rest → th.tstat.getLsbD 2 = false → th.phase = .running ∨ th.phase = .waiting → th.dheld = false →
      Claims.Happens s (.eventEntry t) (Claims.EntersHandler s t { th with events := rest } e.code e.val 0)) ∧
    (∀ c, th.phase = .waiting → th.wait = some c → waitOver s.w t c = true →
      Claims.Happens s (.waitSatisfied t) fun w => w = s.w.setThread t { th with phase := .running, wait := none }) ∧
    (th.phase = .running → th.dheld = false ∨ th.dstep = true → s.txn = none →
      (∀ w0 f, fetchLine s.w t th.pc.toNat = (w0, .error f) →
        (f.code ≠ 0x0B → f.val = th.pc) ∧ Claims.BlockTraps s t f.code f.val 0) ∧
      (∀ w0 line, fetchLine s.w t th.pc.toNat = (w0, .ok line) →
        let h := line.headD 0
        let lines := h.toNat / 2 ^ 14 % 4 + 1
        let nwrd := h.toNat % 2 ^ 7
        (¬Claims.GoodHeader h → Claims.BlockTraps s t 0x01 (h.setWidth 64) 0) ∧
        (Claims.GoodHeader h → ∀ w1 f, fetchLines w0 t (th.pc.toNat + 128) (lines - 1) = (w1, .error f) →
          (f.code ≠ 0x0B → ∃ i, 0 < i ∧ i < lines ∧ f.val = BitVec.ofNat 64 (th.pc.toNat + 128 * i)) ∧
            Claims.BlockTraps s t f.code f.val 0) ∧
        (Claims.GoodHeader h → ∀ w1 more, fetchLines w0 t (th.pc.toNat + 128) (lines - 1) = (w1, .ok more) →
          let word (i : Nat) : W32 := (h :: (line.tail ++ more)).getD i 0
          (∀ i, nwrd < i → i < 32 * lines → word i ≠ 0 → (∀ j, nwrd < j → j < i → word j = 0) →
            Claims.BlockTraps s t 0x01 ((word i).setWidth 64) i) ∧
          ((∀ i, nwrd < i → word i = 0) →
            let exits := (Claims.wordsFrom word nwrd 1 nwrd).filter fun i => Claims.exitWord (word i)
            (∀ i, exits[8]? = some i → Claims.BlockTraps s t 0x01 ((word i).setWidth 64) i) ∧
            (exits.length ≤ 8 → nwrd ∈ Claims.wordsFrom word nwrd 1 nwrd → isLong (word nwrd) = true →
              Claims.BlockTraps s t 0x01 ((word nwrd).setWidth 64) nwrd))))) ∧
    ∀ x, s.txn = some x → t = s.turn → x.instr.toOption = none →
      exec (.illegalInstruction t) s = .next (trapWord s 0x02 (x.word.setWidth 64))

namespace Sys2Proof.Claims

/-- Entry `i` of an edge element's accesses may be performed now: issued, sent to no chain unit, not behind an earlier access to
the same bytes, and the element's core has power (R114, R124, R295). -/
def MayPerform (s : State) (e i : Nat) (a : Access) : Prop :=
  (s.w.elem e).acc[i]? = some a ∧ a.phase = .issued ∧ a.op.isChain = false ∧ mustWait (s.w.elem e) i = false ∧ powered s.w (eCore e) = true

/-- Entry `i`, whose access left the device as `w0`, is done with value `v`: its token has its payload, its log entry is there unless a
replay brought it, and results that wait for nothing any more have left (R114, R119, R233). -/
def Finished (s : State) (e i : Nat) (a : Access) (v : Nat) (w0 w : World) : Prop :=
  let x := s.w.elem e
  w.mem = w0.mem ∧ w.threads = w0.threads ∧ Alone s w e ∧ w.elem e = Elem.deliver { x with
    acc := listSet x.acc i (a.complete v).1, busyAt := s.w.cycle, log := x.logWith a v } ∧
    (a.op.isEntry = false → x.logWith a v = if a.op.logs = true ∧ a.logged = none then x.log ++ [(a.h, a.nth, v, a.epoch)] else x.log)

/-- Element `e` may hand on tokens: its core has power, its region is not frozen and no fault of it waits for a rollback, and its clock runs
(R61, R70, R295). -/
def MaySend (s : State) (e : Nat) : Prop := flowing s.w e = true ∧ (s.w.elem e).gated = false

end Sys2Proof.Claims

/-- R49, R59, R61, R63, R67, R114, R118, R119, R124, R233: an edge element's access that may be performed loads, stores or updates its bytes and is finished,
or answers from the log on a replay; an append that has taken its slot stands in its place with the entry due, at its own address; a header at its
partition's head goes into its handler's latch; a token leaves the output buffer, the crossbar and the control output when its lanes take it: on lane a
it stands in the port from the next cycle on, and dropped out of a crossbar it stands there at once. A partition that has a word free since before the cycle
takes it, one whose word was freed in it does not. -/
def Obligations.AccessesAndTokens : Prop :=
  ∀ (s : State) (e : Nat),
    let x := s.w.elem e
    let task := edgeTask s.w e
    (∀ i a, Claims.MayPerform s e i a →
      (∀ v, a.logged = some v → Claims.Performs s (.edgeAccessComplete e i) (Claims.Finished s e i a v s.w)) ∧
      (a.logged = none →
        (∀ w1 bs, a.op = .load → nodeLoad s.w (edgeReach e) task (edgeSpace s.w e) a.touch a.va a.len = (w1, .ok bs) →
          Claims.Performs s (.edgeAccessComplete e i) (Claims.Finished s e i a (leNat bs) s.w)) ∧
        (∀ w1 gs, a.op = .store → nodeAccess s.w (edgeReach e) (edgeSpace s.w e) .store a.va a.len = (w1, .ok gs) →
          Claims.Performs s (.edgeAccessComplete e i) (Claims.Finished s e i a 0 (edgeStore w1 e a gs (leBytes a.len a.val)))) ∧
        (∀ mode c w1 g, a.op = .amo mode c → locateWord s.w e a = (w1, .ok g) →
          let old := leNat (segBytes w1 [g])
          let new := (amoNew mode a.fmt old (BitVec.ofNat 32 a.val) (BitVec.ofNat 32 c)).1
          Claims.Performs s (.edgeAccessComplete e i) (Claims.Finished s e i a old (edgeStore w1 e a [g] (leBytes a.len new)))) ∧
        (∀ w1 g, a.op = .orWord → locateWord s.w e a = (w1, .ok g) →
          let old := leNat (segBytes w1 [g])
          Claims.Performs s (.edgeAccessComplete e i) (Claims.Finished s e i a old (edgeStore w1 e a [g] (leBytes a.len (old ||| a.val))))) ∧
        (∀ w1 slot b, a.op = .append → appendEntry s.w e a = .goesOn w1 slot b →
          (∀ w2 g, locateWord s.w e a = (w2, .ok g) →
            b = { a with op := .entry slot (some (exactAddr (leNat (segBytes w2 [{ g with pa := g.pa - 8, len := 8 }]) + 8 * slot))) }) ∧ Claims.Performs s (.edgeAccessComplete e i) fun w =>
            w.mem = w1.mem ∧ Claims.Alone s w e ∧ (w.elem e).acc = listSet x.acc i b ∧ (w.elem e).out = x.out))) ∧
    (∀ q h t, Claims.MaySend s e → x.head q h = some t → t.isHeader = true → enabled x.act h = true →
        bit (handler x.act h).qreq q = true →
      (t.badHeader = true → Claims.Happens s (.headerLatch e q h) fun w => w = elemFault s.w e 0x03) ∧
      (t.badHeader = false → forwardsOn x h q = none → Claims.Happens s (.headerLatch e q h) fun w => Claims.Quiet s w ∧ Claims.Alone s w e ∧
        w.elem e = { x.take q h with latch := tabSet (4 * h + q) t.pay x.latch, busyAt := s.w.cycle }) ∧
      (t.badHeader = false → ∀ lanes, forwardsOn x h q = some lanes → x.out.length + x.pureWaiting < 2 →
        Claims.Happens s (.headerLatch e q h) fun w => Claims.Quiet s w ∧ Claims.Alone s w e ∧
          w.elem e = Elem.emitOn { x.take q h with latch := tabSet (4 * h + q) t.pay x.latch, busyAt := s.w.cycle }
            s.w.cycle 1 lanes { t with chan := (handler x.act h).och })) ∧
    (∀ o rest w1, Claims.MaySend s e → x.out = o :: rest → o.ready ≤ s.w.cycle → x.sendAt ≤ s.w.cycle → toLanes s.w e o.tok (lanesOf o.lanes) = .taken w1 →
        o.tok.isCtl = false ∨ o.tok.code ≠ 3 →
      Claims.Happens s (.tokenSend e 0) fun w => Claims.Quiet s w ∧ (∀ f, f ≠ e → w.elem f = w1.elem f) ∧
        w.elem e = Elem.deliver { w1.elem e with out := rest, busyAt := s.w.cycle, sendAt := s.w.cycle + 1 }) ∧
    (∀ o rest dir n p, Claims.MaySend s e → x.out = o :: rest → o.ready ≤ s.w.cycle → x.sendAt ≤ s.w.cycle →
        lanesOf o.lanes = [2 * dir] → neighbour e dir = some n →
        o.tok.kind = 0 → o.tok.chan < 4 → laneDead s.w e dir 0 = false → sectorAccepts s.w n = some true → (s.w.elem n).gated = false →
        [0, 1, 2, 3].filter (fun p => field (s.w.elem n).act (6 + p) == opposite dir + 1) = [p] →
        enabled (s.w.elem n).act o.tok.chan = true →
        n ≠ e →
      let y := s.w.elem n
      let k := 4 * p + o.tok.chan
      let there := (y.part p o.tok.chan).length + (tabGet [] k y.arriving).length + if y.freed.testBit k then 1 else 0
      (there < partSize y.act → Claims.Happens s (.tokenSend e 0) fun w => Claims.Quiet s w ∧
        w.elem n = { y with busyAt := s.w.cycle, arriving := tabSet k (tabGet [] k y.arriving ++ [o.tok]) y.arriving }) ∧
      (partSize y.act ≤ there → Claims.Happens s (.tokenSend e 0) fun w => w = s.w)) ∧
    (∀ dir w1, Claims.MaySend s e → dir < 4 → tabHas dir x.xb = true → (xbField x dir).testBit 3 = false → bits (xbField x dir) 2 0 ≠ 0 →
        let t := tabGet { kind := 0, chan := 0, pay := 0 } dir x.xb
        t.isSwt = false → t.due ≤ s.w.cycle → toLane s.w e (bits (xbField x dir) 2 0 - 1) 1 { t with due := 0 } = .taken w1 →
      Claims.Happens s (.tokenSend e (dir + 1)) fun w => Claims.Quiet s w ∧ (∀ f, f ≠ e → w.elem f = w1.elem f) ∧
        w.elem e = { w1.elem e with xb := tabDel dir (w1.elem e).xb, busyAt := s.w.cycle
                                    freed := (w1.elem e).freed ||| if t.due < s.w.cycle then 2 ^ (16 + dir) else 0 }) ∧
    (∀ dir, Claims.MaySend s e → dir < 4 → tabHas dir x.xb = true → (xbField x dir).testBit 3 = true → xbField x dir % 8 = 0 →
        let t := tabGet { kind := 0, chan := 0, pay := 0 } dir x.xb
        let p := xbField x dir / 16 % 4
        t.kind = 0 → t.due ≤ s.w.cycle → field x.act (6 + p) % 8 = 5 → enabled x.act t.chan = true → tabGet [] (4 * p + t.chan) x.arriving = [] →
        (x.part p t.chan).length + (if x.freed.testBit (4 * p + t.chan) then 1 else 0) < partSize x.act →
      Claims.Happens s (.tokenSend e (dir + 1)) fun w => Claims.Quiet s w ∧ Claims.Alone s w e ∧
        w.elem e = { x.setPart p t.chan (x.part p t.chan ++ [{ t with due := 0 }]) with
          busyAt := s.w.cycle, xb := tabDel dir x.xb, freed := x.freed ||| if t.due < s.w.cycle then 2 ^ (16 + dir) else 0 }) ∧
    ∀ b m rest w1, Claims.MaySend s e → x.cout = (b, m) :: rest → x.ctlAt ≤ s.w.cycle → b.due ≤ s.w.cycle → toCtl s.w e b ([0, 1, 2, 3].filter fun d => m.testBit d) = .taken w1 →
      Claims.Happens s (.tokenSend e 5) fun w => Claims.Quiet s w ∧ (∀ f, f ≠ e → w.elem f = w1.elem f) ∧
        w.elem e = { w1.elem e with cout := rest, busyAt := s.w.cycle, ctlAt := s.w.cycle + 1 }

namespace Sys2Proof.Claims

/-- Thread `t` has taken a record: `FLTCNT` counts it, and no other register of the thread, but for the event flag, the events and the
lost bit, is changed; nor is any other thread (R217, R260, R262). -/
def Recorded (s : State) (t : Nat) (w : World) : Prop :=
  (∀ u, u ≠ t → w.thread u = s.w.thread u) ∧ ∃ n f es, w.thread t = { s.w.thread t with fltcnt := n, flag := f, events := es } ∧
    n.toNat % 2 ^ 32 = ((s.w.thread t).fltcnt.toNat % 2 ^ 32 + 1) % 2 ^ 32

/-- The address of the record that thread `t` takes next, in its ring of 64 (R260). -/
def recordAt (th : Thread) : Word := BitVec.ofNat 64 (th.fltrec.toNat / 2 ^ 12 * 2 ^ 12 + 64 * (th.fltcnt.toNat % 64))

/-- Element `e` takes part in a cut of region `r` that it has not recorded (R265). -/
def InCut (s : State) (e r : Nat) : Prop :=
  regionOf s.w e = some r ∧ (s.w.region r).cutting = true ∧ MaySend s e ∧ (s.w.elem e).snap = none ∧
    planeConfigured (s.w.elem e).act = true

/-- An element whose handlers all are `ldst`, one of them with a feedback port (R115). -/
def FeedbackOnly (x : Elem) : Prop :=
  (∃ h ∈ handlersOf x.act, (handler x.act h).qreq ≠ 0) ∧ ∀ h ∈ handlersOf x.act, (handler x.act h).op = 0x80

end Sys2Proof.Claims

/-- R119, R148, R260 to R267: an element records its part of a cut when the markers stand at the heads of its active queues, and sends one on, and a
source when its marker enters its output buffer; an `ldst` with a feedback port sends its marker as a source does, and records once it has come back; a
cut is complete when every element has recorded, and its replay log keeps what was logged since; a first element fault is recorded and rolled back, a repeated one freezes the region and raises its event; the watchdog
finds the lowest element that holds a token; an access that a memory node cannot perform stalls in place, with a record and an event, which wait
where the thread cannot take them, and an uncorrectable error met again, or one that no thread can service, is fatal to the task with code 8; so
stalls the store of a thread that the host or a peer answers with an error.
(The model's readings of a cut and of a fault stand in log 35 to 41, log 68 to 70 and log 120; which stores an error response still meets in log 27;
what a budget holds back in log 45.) -/
def Obligations.CutsAndFaults : Prop :=
  ∀ (s : State) (e r t : Nat),
    let x := s.w.elem e
    let g := s.w.region r
    let th := s.w.thread t
    let gone (y : Elem) : Elem := { y with snap := some (recordOf s.w e g.epoch), epoch := g.epoch, busyAt := s.w.cycle }
    let marked (y : Elem) : Elem := y.emitOn s.w.cycle 0 (wideLanes x.act) (mrkWord g.epoch)
    let taken := (activeQueues x.act).foldl (fun y q => y.take q.1 q.2) x
    let room := x.acc = [] ∧ x.out.length < 2
    let becomes (y : Elem) : Prop := Claims.Happens s (.snapshotRecord e) fun w => Claims.Quiet s w ∧ Claims.Alone s w e ∧ w.elem e = y
    let records (y : Elem) : Prop := Claims.Happens s (.snapshotRecord e) fun w => Claims.Quiet s w ∧ Claims.Alone s w e ∧ w.elem e = gone y
    (Claims.InCut s e r →
      (activeQueues x.act = [] → sourceElement x = false → x.early = none → records x) ∧
      (activeQueues x.act = [] → sourceElement x = true → room → records (marked x)) ∧
      (markersHead x g.epoch = true → ¬ Claims.FeedbackOnly x → x.early = none → records (marked taken)) ∧
      (activeQueues x.act ≠ [] → Claims.FeedbackOnly x → x.early = none → room →
        becomes { marked x with early := some (recordOf s.w e g.epoch), epoch := g.epoch, busyAt := s.w.cycle }) ∧
      (∀ n, markersHead x g.epoch = true → x.early = some n →
        becomes { taken with snap := some { n with aux := x.aux }, early := none, epoch := g.epoch, busyAt := s.w.cycle })) ∧
    (g.cutting = true → g.frozen = false → g.fault = none → powered s.w (r / 4) = true →
      (∀ f ∈ regionElems s.w r, (planeConfigured (s.w.elem f).act = false ∨ (s.w.elem f).snap.isSome = true) ∧
        ∀ a ∈ (s.w.elem f).acc, a.op.isChain = true → a.phase ≠ .done → a.epoch = g.epoch) →
      Claims.Happens s (.cutComplete r) fun w => Claims.Quiet s w ∧
        w.region r = { g with cutting := false, cutDue := g.cutDue && g.cutOld, cutOld := false, faulted := false, wdFaulted := false } ∧
        ∀ f ∈ regionElems s.w r, (w.elem f).snap = none ∧ (w.elem f).early = none ∧ (w.elem f).epoch = g.epoch ∧
          let n := (s.w.elem f).snap.getD (recordOf s.w f g.epoch)
          (w.elem f).cut = some n ∧
          (w.elem f).log = (s.w.elem f).log.filter fun l => l.2.2.2 == g.epoch || decide (tabGet 0 l.1 n.issued ≤ l.2.1)) ∧
    (∀ cause, g.fault = some (e, cause) → g.owner = some t → t < threadCount → readFrozen s.w r = false →
      (g.faulted = false → g.shadow ≠ .wave → g.cutDue = false →
        (∀ f ∈ regionElems s.w r, (s.w.elem f).acc = [] ∧ ∃ n, (s.w.elem f).cut = some n ∧
          n.side = (s.w.elem f).side) →
        Claims.Performs s (.rollback r) fun w => Claims.Recorded s t w ∧ (w.thread t).flag = true ∧ (w.thread t).events = th.events ∧
          (w.region r).fault = none ∧ (w.region r).faulted = true ∧ (w.region r).wdFaulted = (cause == 9) ∧ (w.region r).cutting = false ∧
          ∀ f ∈ regionElems s.w r, ∃ n, (s.w.elem f).cut = some n ∧ (w.elem f).k = n.k ∧ (w.elem f).latch = n.latch ∧ (w.elem f).bank = n.bank ∧
            (w.elem f).ctx = n.ctx ∧ (w.elem f).spos = n.spos ∧ (w.elem f).cq = n.cq ∧ (w.elem f).aux = n.aux ∧
            (w.elem f).reported = n.reported ∧ (w.elem f).stopped = n.stopped &&& (15 - stopsOnce (s.w.elem f).act) ∧
            (w.elem f).oldXb = n.oldXb ∧ (w.elem f).act = (s.w.elem f).act ∧ (w.elem f).shd = (s.w.elem f).shd ∧ (w.elem f).parts = [] ∧ (w.elem f).out = [] ∧
            (w.elem f).issued = n.issued ∧
            (w.elem f).replay = ((s.w.elem f).log.map fun l => (l.1, l.2.1, l.2.2.1)) ++
              (s.w.elem f).replay.filter fun q => (s.w.elem f).log.all fun l => l.1 != q.1 || l.2.1 != q.2.1) ∧
      (g.faulted = true → canReceive s.w t = true → Claims.Performs s (.rollback r) fun w => Claims.Recorded s t w ∧
        (w.thread t).flag = true ∧ (w.thread t).events = th.events ++ [{ code := 0x30 + cause, val := Claims.recordAt th }] ∧
        w.region r = { g with frozen := true, fault := none } ∧
        ∀ k y, g.task = some k → cause = 9 → g.wdFaulted = true → s.w.task? k = some y → y.dying = none →
          w.task? k = some { y with dying := some 8 })) ∧
    (g.flows = true → g.frozen = false → g.fault = none → 2 ^ (s.w.die (dieOf (r / 4))).wdl ≤ g.still →
      (∀ y, s.w.elems.find? (fun kv => regionOf s.w kv.1 == some r && kv.2.holds) = some (e, y) →
        Claims.Happens s (.watchdog r) fun w => w = elemFault s.w e 0x09)) ∧
    (∀ agt k n, nodeFault s.w agt k = some n → n.rcv = some t → canReceive s.w t = true → n.fault.poison = false ∨ n.met = false →
      Claims.Performs s (.memoryNodeFault agt k) fun w => Claims.Recorded s t w ∧
        (w.thread t).events = th.events ++ [{ code := 0x20 + n.record.kind, val := Claims.recordAt th }] ∧
        (w.thread t).flag = (th.flag || n.region.isSome) ∧
        (agt = 0 → ∃ a, (w.elem (k / 64)).acc[k % 64]? = some a ∧ a.phase = .stalled) ∧ (agt = 1 → (w.channel k).stalled = true) ∧
        (agt = 2 → ∃ z, w.session? k = some z ∧ z.stalled = true) ∧
        (agt = 3 → (w.region k).cqStalled = true ∨ ∃ l, (w.region k).load = some l ∧ l.stalled = true) ∧
        (agt = 4 → (w.sluice k).stalled = true) ∧ (agt = 5 → (w.matrix k).stalled = true) ∧ (agt = 7 → (w.region k).complStalled = true)) ∧
    (∀ agt k n, nodeFault s.w agt k = some n → n.rcv = some t → canReceive s.w t = false → n.fault.poison = false ∨ n.met = false →
      Claims.Happens s (.memoryNodeFault agt k) fun w => Claims.Quiet s w ∧
        w.owed = s.w.owed ++ [{ rcv := t, record := some n.record, code := 0x20 + n.record.kind, val := 0, flag := n.region.isSome }]) ∧
    (∀ agt k n j y, nodeFault s.w agt k = some n → n.rcv = none → n.task = some j → s.w.task? j = some y → y.dying = none →
      Claims.Performs s (.memoryNodeFault agt k) fun w => w.threads = s.w.threads ∧ ∃ z, w.task? j = some z ∧ z.dying = some 8) ∧
    (∀ agt k n j y, nodeFault s.w agt k = some n → n.rcv = some t → n.fault.poison = true → n.met = true → n.task = some j →
        s.w.task? j = some y → y.dying = none →
      Claims.Performs s (.memoryNodeFault agt k) fun w => ∃ z, w.task? j = some z ∧ z.dying = some 8) ∧
    ∀ i y, th.path[i]? = some y → y.phase = .sent → canReceive s.w t = true → Claims.Performs s (.storeErrorResponse t i) fun w =>
      (∀ u, u ≠ t → w.thread u = s.w.thread u) ∧ (w.thread t).path = listSet th.path i { y with phase := .stalled } ∧
      (w.thread t).events = th.events ++ [{ code := 0x27, val := Claims.recordAt th }]

/-- R70 to R73, R78 to R83: a load begins by reading and checking its header, reads and applies one command after another, compares its checksum
after the last and is sealed 64 cycles later; a load refused says why, and what it says stands until another is refused. In a released switch an element flips: its planes trade places and its
handlers start anew. An idle element's clock stops and starts; a woken sector comes up, and one with nothing in it goes off. -/
def Obligations.LoadsFlipsAndPower : Prop :=
  ∀ (s : State) (e r : Nat),
    let x := s.w.elem e
    let g := s.w.region r
    let calm := g.starting = false ∧ g.armedSwitch = false ∧ ∀ f ∈ regionElems s.w r, (s.w.elem f).heldSwt = false
    let refused (c i : Nat) (w : World) : Prop := (w.region r).cause = c ∧ (w.region r).cidx = i ∧ (w.region r).refused = true ∧ (w.region r).shadow = .none ∧
      (w.region r).load = none ∧ ∀ f ∈ regionElems s.w r, (g.cutDue = false → (w.elem f).shd = []) ∧ (w.elem f).act = (s.w.elem f).act
    (∀ va sp w1 bs, g.cq = [(.load va false, sp)] → g.shadow ≠ .wave → g.cutDue = false → g.frozen = false → g.saveAt = none → g.load = none →
        g.cqStalled = false → calm → regionAwake s.w r = true → (s.w.core (r / 4)).off = false →
        ownerStoresDone s.w r = true →
        nodeLoad (s.w.setRegion r { g with cq := [] }) (cfgReach r) g.task sp Touch.load va 32 = (w1, .ok bs) →
      let hdr := leNat bs
      let l : Load := { va := va, sp := sp, thread := g.owner, hdr := BitVec.ofNat 256 hdr, cmds := [], stalled := false, met := false, lastAt := none }
      g.owner.isSome = true → bs.length = 32 →
      (headerCause g va hdr = 0 → hdr / 2 ^ 32 % 2 ^ 32 ≠ 0 → Claims.Performs s (.loadBegin r) fun w => Claims.Quiet s w ∧
        w.region r = { g with
          cq := [], load := some l, shadow := .loading, scid := hdr / 2 ^ 64 % 2 ^ 64, shdChanged := false, met := false, refused := false } ∧
        ∀ f ∈ regionElems s.w r, (w.elem f).shd = (if hdr.testBit 8 then (s.w.elem f).act else []) ∧ (w.elem f).act = (s.w.elem f).act) ∧
      (headerCause g va hdr ≠ 0 → Claims.Performs s (.loadBegin r) fun w => Claims.Quiet s w ∧ refused (headerCause g va hdr) 0xFFFFFFFF w)) ∧
    (∀ l w1 bs, g.load = some l → l.stalled = false → l.lastAt = none → g.frozen = false → regionAwake s.w r = true →
        nodeLoad s.w (cfgReach r) g.task l.sp Touch.load (l.va + 32 + 4 * l.cmds.length) 4 = (w1, .ok bs) →
      let word := BitVec.ofNat 32 (leNat bs)
      let cause := commandCause g.shape.1 g.shape.2 (commandOf word)
      let l' := { l with cmds := word :: l.cmds, met := false }
      let count := l.hdr.toNat / 2 ^ 32 % 2 ^ 32
      let sum := leNat (shake256 (leBytes 16 (l.hdr.toNat % 2 ^ 128) ++ l'.cmds.reverse.flatMap fun c => leBytes 4 c.toNat) 16)
      (cause = 0 → l.cmds.length + 1 ≠ count → Claims.Performs s (.loadCommand r) fun w => Claims.Quiet s w ∧
        w.elems = (applyCommand w1 r (commandOf word)).elems ∧ (w.region r).load = some l') ∧
      (cause = 0 → l.cmds.length + 1 = count → sum = l.hdr.toNat / 2 ^ 128 → g.cq = [] → calm → g.shadow = .loading → Claims.Performs s (.loadCommand r) fun w =>
        Claims.Quiet s w ∧ w.elems = (applyCommand w1 r (commandOf word)).elems ∧ (w.region r).load = some { l' with lastAt := some s.w.cycle }) ∧
      (l.thread.isSome = true → g.cq = [] → calm →
        (cause = 0 → l.cmds.length + 1 = count → sum ≠ l.hdr.toNat / 2 ^ 128 →
          Claims.Performs s (.loadCommand r) fun w => Claims.Quiet s w ∧ refused 0x06 0xFFFFFFFF w) ∧
        (cause ≠ 0 → Claims.Performs s (.loadCommand r) fun w => Claims.Quiet s w ∧ refused cause l.cmds.length w))) ∧
    (∀ l c, g.load = some l → l.lastAt = some c → g.shadow = .loading → c + 64 ≤ s.w.cycle → g.frozen = false → g.cq = [] → calm →
      (shadowCause s.w r = 0 → Claims.Happens s (.seal r) fun w => Claims.Quiet s w ∧ w.elems = s.w.elems ∧ w.region r = { g with shadow := .sealed }) ∧
      (shadowCause s.w r ≠ 0 → l.thread.isSome = true →
        Claims.Happens s (.seal r) fun w => Claims.Quiet s w ∧ refused (shadowCause s.w r) 0xFFFFFFFF w)) ∧
    (regionOf s.w e = some r → flipReady s.w r e = true → Claims.Happens s (.flip e) fun w => Claims.Quiet s w ∧
      (w.elem e).act = x.shd ∧ (w.elem e).shd = x.act ∧ (w.elem e).actCid = x.shdCid ∧ (w.elem e).shdCid = x.actCid ∧
      (w.elem e).k = planeRegs x.shd ∧ (w.elem e).latch = [] ∧ (w.elem e).bank = [] ∧ (w.elem e).ctx = 0 ∧
      (x.known = true ∨ planeConfigured x.act = true ∨ planeConfigured x.shd = true →
        (w.elem e).flipCycle = s.w.cycle ∧ (w.elem e).known = true ∧ (w.elem e).flipId = if planeConfigured x.shd then x.shdCid else 0) ∧
      (w.elem e).side = !x.side ∧
      ((w.elem e).flipped = true ∨ ∀ f ∈ regionElems s.w r, f ≠ e → (s.w.elem f).flipped = true)) ∧
    (x.idle = true → x.busyAt + 1024 ≤ s.w.cycle →
      regionOf s.w e = none ∨ (regionOf s.w e = some r ∧ g.load = none ∧ (∀ c ∈ g.cq, ∀ va d, c.1 ≠ .load va d) ∧ (g.shadow ≠ .wave ∨ x.flipped = true)) →
      Claims.Happens s (.elementClockGate e) fun w => w = s.w.setElem e { x with gated := true }) ∧
    (x.gated = true → Claims.Happens s (.elementWake e) fun w => w = s.w.setElem e { x with gated := false, busyAt := s.w.cycle }) ∧
    ∀ c i, i < 12 →
      (∀ n, s.w.sectors.find? (·.1 == 12 * c + i) = some (12 * c + i, n) → s.w.cycle < n →
        Claims.Happens s (.sectorWake c i) fun w => w = { s.w with sectors := tabSet (12 * c + i) s.w.cycle s.w.sectors }) ∧
      ((∀ h, h < 4 → (s.w.region (4 * c + h)).mask.testBit i = false) → (∀ f ∈ sectorElems c i, planeConfigured (s.w.elem f).act = false) →
        Claims.Happens s (.sectorPowerOff c i) fun w => w = { s.w with sectors := tabDel (12 * c + i) s.w.sectors })

/-! ## Tasks -/

/-- R136 to R148, R218, R228, R269, R285: the dispatcher reads its oldest record and inserts the task, or stores the code with which it fails and fails its fault
domain with it, and the queue it came from advances; a waiting task
whose last slot is satisfied is ready, one whose slot names the tag of a task still in the table waits, and one whose slot holds a failure fails; the
first ready task that finds a place is bound, its thread starting as R144 says; a period opens the budgets; a task whose region has completed and whose
thread has halted completes, which satisfies the slots that name its tag.
(The order in which a record's faults are looked for, and that a rejected record fails none of the tasks that name its tag, is log 43; that its
reads see the stores before its `tenq` is log 54; the effective priority kept at the binding is log 47; what a budget that has been
reached holds is log 45; where a wavefront still travels a region does not complete, log 125.) -/
def Obligations.TaskLife : Prop :=
  ∀ (s : State) (d : Nat),
    (∀ x rest, (s.w.die d).inbox = x :: rest → (s.w.die d).off = false →
        (∀ u n, x.after = some (u, n) → ∀ y ∈ (s.w.thread u).path, n ≤ y.seq) →
      let advanced (w : World) : Prop := ∀ q, x.queue = some q → (w.queue q).prog = ((s.w.queue q).prog + 1) % 2 ^ 32
      (∀ w1 t path, readLaunch s.w d x = (w1, .ok (t, path)) →
        dieNodes s.w d + (path.filter fun n => !tabHas (2 ^ 64 * d + n.1) s.w.nodes).length ≤ 512 →
        Claims.Performs s (.taskInsertion d) fun w => Claims.Quiet s w ∧ w.task? (taskKey d (lTag x.launch)) = some t ∧ (w.die d).inbox = rest ∧
          (w.die d).nextNum = (s.w.die d).nextNum + 1 ∧ advanced w ∧ (t.deps = [] → t.phase = .ready)) ∧
      (∀ w1 code dom, readLaunch s.w d x = (w1, .error (code, dom)) → x.launch.toNat / 2 ^ (8 * 24) % 8 = 0 →
        ∃ w2, w2.mem = s.w.mem ∧ w2.tasks = s.w.tasks ∧ w2.threads = s.w.threads ∧ (w2.die d).inbox = rest ∧ advanced w2 ∧
          let w3 := (nodeStore w2 (.dieAgent d) none x.sp Touch.store (x.launch.toNat / 2 ^ (8 * 24) % 2 ^ 64) (leBytes 8 (2 ^ 63 + code))).1
          w3.tasks = s.w.tasks ∧ Claims.Performs s (.taskInsertion d) fun w => (dom = 0 → w = w3) ∧
            (dom ≠ 0 → w = failRounds (w3.tasks.length + 1) w3 (((dieTasks w3 d).filter fun kv => kv.2.fdom == dom).map fun kv => (kv.1, 7)) true)) ∧
      (launchBad x.launch = true → readLaunch s.w d x = (s.w, .error (1, 0))) ∧
      (launchBad x.launch = false → lTag x.launch = 0 ∨ (s.w.task? (taskKey d (lTag x.launch))).isSome = true →
        readLaunch s.w d x = (s.w, .error (2, 0)))) ∧
    (∀ k x l m, dieTasks s.w d = l ++ (k, x) :: m → (∀ q ∈ l ++ m, q.1 ≠ k ∧ (q.2.phase ≠ .waiting ∨ q.2.dying.isSome = true)) →
      x.phase = .waiting → x.dying = none → (s.w.die d).off = false →
      (x.deps = [] → Claims.Happens s (.dependencePoll d) fun w => w = s.w.setTask k { x with phase := .ready, readyAt := s.w.periods }) ∧
      (∀ n, x.deps = [.tag n] → (s.w.task? (taskKey d n)).isSome = true → Claims.Happens s (.dependencePoll d) fun w => w = s.w.setTask k x) ∧
      ∀ va w1 b, x.deps = [.word va] → nodeLoad s.w (.dieAgent (taskDie k)) (some k) x.src Touch.load va 8 = (w1, .ok b) →
        let v := leNat b
        (v = 0 → Claims.Performs s (.dependencePoll d) fun w => w = w1.setTask k x) ∧
        (v ≠ 0 → v < 2 ^ 63 → Claims.Performs s (.dependencePoll d) fun w => w = w1.setTask k { x with deps := [], phase := .ready, readyAt := s.w.periods }) ∧
        (v / 2 ^ 63 = 1 → Claims.Performs s (.dependencePoll d) fun w => w = failTask w1 k 6)) ∧
    (∀ k x p, firstPlaced s.w d (readyTasks s.w d) false = some (k, x, p) → x.phase = .ready → x.args.length = 8 →
      let t := placeThread s.w x p
      Claims.Happens s (.taskBinding d) fun w => (p.drops = none → w.mem = s.w.mem ∧ ∀ u, t ≠ some u → w.thread u = s.w.thread u) ∧
        w.task? k = some { x with phase := .running, prio := x.effective s.w, unplaced := none, region := some p.region, thread := t, sliceEnd := s.w.cycle + 64 * 33000 } ∧
        (w.region p.region).owner = t ∧ (w.region p.region).task = some k ∧ (w.region p.region).running = true ∧ (w.region p.region).space = x.space ∧
        ∀ u, t = some u → let th := w.thread u
          th.pc = BitVec.ofNat 64 x.entry ∧ th.phase = .running ∧ th.task = some k ∧ th.tstat = 0 ∧ th.readG 3 = BitVec.ofNat 64 x.trec ∧
          th.readG 12 = BitVec.ofNat 64 (p.region % 4) ∧ (∀ i v, x.args[i]? = some v → th.readG (BitVec.ofNat 6 (4 + i)) = v)) ∧
    (33000 * (s.w.periods + 1) ≤ s.w.cycle → Claims.Happens s .periodStart fun w => Claims.Quiet s w ∧ w.periods = s.w.periods + 1 ∧
      ∀ n x, (n, x) ∈ s.w.nodes →
        let limit (i : Nat) : Nat := x.lim.getD i 0xFFFFFFFF
        (n, { x with cnt := x.cnt.zipIdx.map fun c => if limit c.2 = 0xFFFFFFFF then 0 else c.1 - limit c.2 }) ∈ w.nodes) ∧
    (∀ r k x w1, regionDone s.w r = true → (s.w.region r).armed = none → (s.w.region r).task = some k → s.w.task? k = some x → x.region = some r → x.dying = none →
      (∀ t, x.thread = some t → (s.w.thread t).phase = .halted ∧ (s.w.thread t).path = []) → storeCompletion s.w k x x.cval = (w1, true) →
      Claims.Performs s (.regionCompletion r) fun w => w.mem = w1.mem ∧ w.task? k = none ∧ (w.region r).running = false ∧
        (w.region r).owner = none ∧ (w.region r).task = none ∧ (w.region r).reusable = true ∧
        (∀ j y, s.w.task? j = some y → j ≠ k → taskDie j = taskDie k → y.phase = .waiting → y.deps = [.tag (taskTag k)] →
          w.task? j = some { y with deps := [], phase := .ready, readyAt := s.w.periods }) ∧
        ∀ t, x.thread = some t → w.thread t = { w1.thread t with wait := none, task := none }) ∧
    ∀ r va v w1 lost, regionDone s.w r = true → (s.w.region r).armed = some (va, v) → (s.w.region r).complStalled = false →
      nodeStore s.w (cfgReach r) (s.w.region r).task (s.w.region r).space Touch.store va (leBytes 8 v) = (w1, .ok lost) →
      let w2 := noteLostIn w1 r 7 0 0 0xFF 3 (s.w.region r).space lost
      Claims.Performs s (.regionCompletion r) fun w => w.mem = w2.mem ∧ (w.region r).running = false ∧ (w.region r).armed = none ∧
        ∀ t, (s.w.region r).owner = some t → w.thread t = { w2.thread t with flag := true }

/-- R229, R270 to R279, R297, R358: at its stop request a victim's region drains and its thread stops at its block boundary; quiescent, or at the force point,
the region freezes; its context is then saved and its place is free, its completion with it, the one that its thread armed on the region or its own; a
saved task that finds a place takes it, and is restored there once the sectors are awake and the core has power; a stop request that finds the region
frozen for a `DREAD` is kept for its thaw; a task that a fence finds running
past its drain time fails with code 7. (What a save keeps beside its area is the model's: log 50; so is the space in which the dispatcher accesses the area, log 52; that the region of
`rgsave` is left stopped and no longer frozen, log 41; and that a stopped thread's waiting block is abandoned, log 8.) -/
def Obligations.Preemption : Prop :=
  ∀ (s : State) (d tag r : Nat),
    let k := taskKey d tag
    let g := s.w.region r
    let frozen (w : World) : Prop := w.region r = { g with frozen := true, draining := false } ∧ (∀ u, ∀ y ∈ w.unit u, y.region ≠ r) ∧
      ∀ e ∈ regionElems s.w r, ∀ a ∈ (w.elem e).acc, a.op.isChain = true → a.phase ≠ .issued
    (∀ x start stop force why, s.w.task? k = some x → x.victim = some (why, start, stop, force) → x.region = some r →
      (x.phase = .running → start ≤ s.w.cycle → readFrozen s.w r = true → Claims.Happens s (.stopRequest d tag) fun w => w.mem = s.w.mem ∧
        w.task? k = some { x with phase := .stopping, stopped := true } ∧ w.region r = g ∧
        ∀ y b, w.jibor.reading = some y → y.before = some b → b.2 = true) ∧
      (x.phase = .running → start ≤ s.w.cycle → readFrozen s.w r = false → Claims.Happens s (.stopRequest d tag) fun w => w.mem = s.w.mem ∧
        w.task? k = some { x with phase := .stopping, stopped := true } ∧ w.region r = { g with draining := true } ∧
        ∀ t, x.thread = some t → w.thread t = if (s.w.thread t).phase = .halted then s.w.thread t
          else { s.w.thread t with
            phase := .saved, wait := none, since := none, flag := (s.w.thread t).flag || decide (0 < (s.w.thread t).wakes), wakes := 0 }) ∧
      (x.phase = .stopping → force ≤ s.w.cycle → g.draining = true → readFrozen s.w r = false → Claims.Happens s (.forcePoint d tag) fun w => Claims.Quiet s w ∧
        w.task? k = some { x with forced := true } ∧ (w.region r).forced = true ∧ (g.shadow ≠ .wave → (w.region r).frozen = true))) ∧
    (g.draining = true → g.shadow ≠ .wave → readFrozen s.w r = false → g.forced = true ∨ quiescent s.w r = true → Claims.Happens s (.regionFreeze r) fun w =>
      Claims.Quiet s w ∧ frozen w) ∧
    (∀ j x due a b c w1, g.frozen = true → g.draining = false → accessesSettled s.w r = true → readFrozen s.w r = false → g.saveAt = none → g.task = some j → s.w.task? j = some x →
        x.victim = some (a, b, due, c) → x.phase = .stopping → (∀ t, x.thread = some t → threadSettled s.w t = true) →
      let slots := x.thread.any (holdsSlots s.w)
      let halted := x.thread.any fun t => (s.w.thread t).phase == .halted
      let info : SaveInfo :=
        { tag := taskTag j, thr := x.thread, halted := halted, forced := x.forced, armed := g.armed.or (some (x.caddr, x.cval)), overrun := s.w.cycle - due, tiles := slots }
      writeArea s.w r (.ctrl (r / 4)) (some j) { x.space with user := false } x.csave info g.cq (x.thread.map fun _ => residentName j) = (w1, .ok ()) →
      Claims.Performs s (.contextSave r) fun w => w.mem = w1.mem ∧ w.region r = Region.reset ∧
        (∃ y, w.task? j = some y ∧ y.phase = .saved ∧ y.region = none ∧ y.thread = none ∧ y.victim = none ∧ y.deps = x.deps ∧ y.csave = x.csave ∧
            y.sameCore = if slots || x.thread.any (holdsSluice s.w) then some (r / 4) else none) ∧
        ∀ t, x.thread = some t → (w.thread t).phase = .halted ∧ (w.thread t).task = none ∧ (w.thread t).events = []) ∧
    (∀ va sp w1, g.frozen = true → accessesSettled s.w r = true → readFrozen s.w r = false → g.saveAt = some (va, sp) → g.cqStalled = false →
      writeArea s.w r (.ctrl (r / 4)) g.task sp va { tag := 0, thr := none, halted := false, forced := false, armed := g.armed, overrun := 0, tiles := false }
        [] none = (w1, .ok ()) → g.cq = [] →
      Claims.Performs s (.contextSave r) fun w => w.mem = w1.mem ∧ w.threads = w1.threads ∧ (w.region r).running = false ∧ (w.region r).frozen = false ∧
        (w.region r).saveAt = none ∧ (w.region r).owner = g.owner ∧ ∀ c, (w.chain c).owner = (w1.chain c).owner) ∧
    (∀ x p, firstPlaced s.w d (readyTasks s.w d) false = some (k, x, p) → x.phase = .saved → regionAwake (placeSaved s.w k x p) p.region = false →
      Claims.Happens s (.taskRestore d tag) fun w => w.task? k = some { x with
          phase := .loading, prio := x.effective s.w, unplaced := none, region := some p.region } ∧
        (w.region p.region).task = some k ∧ (w.region p.region).owner = placeThread s.w x p ∧ (w.region p.region).mask = p.mask) ∧
    (∀ x w1 a w2, (∀ j y p, firstPlaced s.w d (readyTasks s.w d) false = some (j, y, p) → j ≠ k) → s.w.task? k = some x → x.phase = .loading →
        x.region = some r → regionAwake s.w r = true → powered s.w (r / 4) = true →
      let who := Reach.ctrl (r / 4)
      let sp : Space := { x.space with user := false }
      let side := sideOf w1 who sp x.csave
      let w3 := restoreRegion (renameChains w1 (residentName k) r) r a side x.space (x.entry == 0)
      let w4 := match g.owner with
        | some t => restoreThread w3 k t a side
        | none => w3
      readArea s.w who (some k) sp x.csave g = (w1, .ok a) → areaGood g a = true → (w2.region r).cq = [] →
      nodeStore w4 who (some k) sp Touch.store (x.csave + 0x40) (leBytes 8 2) = (w2, .ok []) →
      Claims.Performs s (.taskRestore d tag) fun w => w.mem = w2.mem ∧ ∃ y, w.task? k = some y ∧ y.phase = .running ∧ y.region = some r ∧
        y.thread = g.owner ∧ y.overrun = at_ a.body 0x28 8 ∧
        (w.region r).armed = (if side.own then (w2.region r).armed else none) ∧
        ((at_ a.body 4 4).testBit 2 = true → side.own = false → y.caddr = at_ a.body 0x18 8 ∧ y.cval = at_ a.body 0x20 8) ∧
        y.sliceEnd = s.w.cycle + max 1 (64 - (at_ a.body 0x28 8 + 32999) / 33000) * 33000) ∧
    ∀ x c, s.w.task? k = some x → x.fenceBy = some c → c ≤ s.w.cycle → x.phase = .running →
      Claims.Happens s (.drainTimeExpiry d tag) fun w => w = failTask s.w k 7

/-! ## The engines' events -/

/-- R239 to R248, R312 to R326, R15, R17, R18, R31: a channel takes its next copy, moves its bytes a granule at a time and, with the last of them performed,
writes its stamp, sets its thread's event flag and hands on its follow-on; the matrix array takes its next command and ends it after its cycles; a released
slot is cleared; the Sluice accepts one command and drains a row and its stamp; a Headwater session consumes a chunk, completes a picture, closes.
(What a picture parses to is a free value, and that it is written at once is the model's: log 78, log 79; so is that a follow-on enters the matrix queue
whatever its length: log 72, and that a copy's addresses wrap at 2^64: log 29; so is which session an engine serves, and from when to when it is in a picture: log 106; that an aborted session closes only when its block has been written: log 83.) -/
def Obligations.EngineEvents : Prop :=
  ∀ (s : State) (c k : Nat),
    let powered : Prop := (s.w.die (dieOf (k / 4))).off = false
    let flagged (t : Nat) (v w : World) : Prop := w.thread t = { v.thread t with flag := true } ∧ ∀ u, u ≠ t → w.thread u = v.thread u
    (∀ x rest,
      let ch := s.w.channel k
      powered → ch.cur = none → ch.queue = x :: rest → x.cancelled = true ∨ mayStart s.w x.thread x.seq (k % 4) = true →
      Claims.Happens s (.copyBegin k 0) fun w => w = s.w.setChannel k { queue := rest, cur := some x, pos := 0, stalled := false, met := false }) ∧
    (∀ x w1,
      let ch := s.w.channel k
      let n := pieceLen x.blk ch.pos
      powered → ch.cur = some x → x.cancelled = false → ch.stalled = false → ch.pos < cTotal x.blk → 0 < n → copyPiece s.w k x ch.pos = (w1, .ok ()) →
      Claims.Performs s (.copyBegin k n) fun w => w = w1.setChannel k { w1.channel k with pos := ch.pos + n, met := false }) ∧
    (∀ x w1 bs w2,
      let ch := s.w.channel k
      let task := (s.w.thread x.thread).task
      let n := pieceLen x.blk ch.pos
      powered → ch.cur = some x → x.cancelled = false → ch.stalled = false → ch.pos < cTotal x.blk → 0 < n →
      cKind x.blk = 0 → pieceRows x.blk 32 ch.pos n = [(ch.pos, n)] → nodeLoad s.w (.copy (k / 4)) task x.sp (cTouch x.blk Touch.load) (copySrc x.blk ch.pos) n = (w1, .ok bs) →
      nodeStore w1 (.copy (k / 4)) task x.sp (cTouch x.blk Touch.store) (wrap 64 (copyDst x.blk ch.pos)) bs = (w2, .ok []) →
      Claims.Performs s (.copyBegin k n) fun w => w.mem = w2.mem ∧ w.threads = w2.threads ∧ w.channel k = { ch with pos := ch.pos + n, met := false }) ∧
    (∀ x,
      let ch := s.w.channel k
      powered → ch.cur = some x → ch.stalled = false → x.cancelled = true ∨ cTotal x.blk ≤ ch.pos →
      let after (v w : World) : Prop := w.channel k = { ch with cur := none, pos := 0, met := false } ∧ flagged x.thread v w ∧
        (w.matrix (k / 4)).queue =
          (s.w.matrix (k / 4)).queue ++ x.follow.toList.map (fun op => ({ thread := x.thread, sp := x.sp, seq := 0, op := op } : MatCmd))
      (cStamp x.blk = 0 → Claims.Performs s (.copyCompletionPoint k) fun w => w.mem = s.w.mem ∧ after s.w w) ∧
      ∀ w1, cStamp x.blk ≠ 0 → nodeStore s.w (.copy (k / 4)) (s.w.thread x.thread).task x.sp Touch.store (cStamp x.blk)
          (leBytes 8 (cStval x.blk + if x.cancelled then 3 * 2 ^ 62 else 0)) = (w1, .ok []) →
        Claims.Performs s (.copyCompletionPoint k) fun w => w.mem = w1.mem ∧ after w1 w) ∧
    (∀ x rest,
      let m := s.w.matrix c
      coreGated s.w c = false → m.cur = none → m.queue = x :: rest → mayStart s.w x.thread x.seq 4 = true → x.op.cycles.2 = 0 ∨ s.w.admitted (s.w.thread x.thread).task 0 = true →
      Claims.Happens s (.matrixCommandStart c) fun w => w.mem = s.w.mem ∧
        w.matrix c = { m with
          queue := rest, cur := some x, tile := (match x.op with
            | .read acc .. => some (s.w.tile (4 * c + acc))
            | _ => none), doneAt := s.w.cycle + x.op.cycles.1, stalled := false, met := false } ∧
        (∀ acc a, x.op = .zero acc a → w.tile (4 * c + acc) = { anchor := a, cells := [] } ∧ w.threads = s.w.threads) ∧
        ∀ acc a b da db, x.op = .tile acc a b da db →
          w.tile (4 * c + acc) = (tileMul (s.w.tile (4 * c + acc)) (s.w.slotOp (16 * c + a)) (s.w.slotOp (16 * c + b)) da db).1) ∧
    (∀ x,
      let m := s.w.matrix c
      coreGated s.w c = false → m.cur = some x → m.doneAt ≤ s.w.cycle → m.stalled = false →
      let after (w : World) : Prop := w.threads = s.w.threads ∧ w.matrix c = { m with cur := none, tile := none, met := false }
      (∀ acc dst fmt pitch sc rm satf, x.op ≠ .read acc dst false fmt pitch sc rm satf) →
        Claims.Performs s (.matrixCommandComplete c) fun w => w.mem = s.w.mem ∧ after w) ∧
    (∀ x acc dst fmt pitch sc rm satf w1,
      let m := s.w.matrix c
      coreGated s.w c = false → m.cur = some x → m.doneAt ≤ s.w.cycle → m.stalled = false → x.op = .read acc dst false fmt pitch sc rm satf →
      storeRows s.w (.engine c) (s.w.thread x.thread).task x.sp (readRows (m.tile.getD (s.w.tile (4 * c + acc))) x.op) = (w1, .ok []) →
      Claims.Performs s (.matrixCommandComplete c) fun w => w.mem = w1.mem ∧ w.threads = w1.threads ∧
        w.matrix c = { m with cur := none, tile := none, met := false }) ∧
    (∀ t seq,
      let y := s.w.slotOp k
      y.phase = .claimed t ∨ y.phase = .leaving t → y.release = some seq → slotBusy s.w (k / 16) t (k % 16) seq = false →
      Claims.Happens s (.slotRelease k) fun w => w = s.w.setSlotOp k { y with phase := .clearing, release := none, clearFrom := s.w.cycle }) ∧
    ((s.w.slotOp k).phase = .clearing → (s.w.slotOp k).clearFrom + 64 ≤ s.w.cycle → Claims.Happens s (.slotCleared k) fun w => Claims.Quiet s w ∧
      w.slotOp k = Slot.reset ∧ ∀ j, j ≠ k → w.slotOp j = s.w.slotOp j) ∧
    (
      let z := s.w.sluice c
      (s.w.die (dieOf c)).off = false → z.stalled = false → z.drain = none → z.run = none →
      ∀ x rest, z.queue = x :: rest → mayStart s.w x.thread x.seq 5 = true →
        (∀ b, x.op = .cfg b → Claims.Performs s (.sluiceAccept c) fun w => Claims.Quiet s w ∧ (w.sluice c).on = true ∧ (w.sluice c).blk = b ∧
          (w.sluice c).pairs = [] ∧ (w.sluice c).counts = [] ∧ (w.sluice c).drains = 0 ∧ (w.sluice c).queue = rest) ∧
        (∀ score idx, x.op = .put score idx → z.on = true → Claims.Performs s (.sluiceAccept c) fun w =>
          w = s.w.setSluice c (({ z with queue := rest }).enter score idx)) ∧
        (∀ final release, x.op = .drain final release → z.on = true → Claims.Performs s (.sluiceAccept c) fun w =>
          w = s.w.setSluice c { z with queue := rest, drain := some (final, release, x.seq), posted := 0 }) ∧
        ((∀ b, x.op ≠ .cfg b) → z.on = false → Claims.Performs s (.sluiceAccept c) fun w => w = s.w.setSluice c { z with queue := rest })) ∧
    (∀ release seq w1 w2,
      let z := s.w.sluice c
      let task := (s.w.thread (z.owner.getD 0)).task
      (s.w.die (dieOf c)).off = false → z.drain = some (false, release, seq) → z.stalled = false → z.posted = 0 → zHen z.blk = false →
      nodeStore s.w (.engine c) task z.sp Touch.store (zOut z.blk + zOstr z.blk * z.drains) (rowImage z) = (w1, .ok []) →
      nodeStore (w1.setSluice c { z with pairs := [], posted := 1, met := false }) (.engine c) task z.sp Touch.store (zStamp z.blk)
        (leBytes 8 (z.drains + 1)) = (w2, .ok []) →
      Claims.Performs s (.sluiceDrain c) fun w => w.mem = w2.mem ∧ w.threads = w2.threads ∧ (w.sluice c).pairs = [] ∧ (w.sluice c).drain = none ∧
        (w.sluice c).drains = z.drains + 1 ∧ (w.sluice c).on = (z.on && !release)) ∧
    ∀ x, s.w.session? k = some x →
      (∀ ch w1 bs, dueWork s.w k x = some (.inr ch) → nodeLoad s.w (sessionReach k) (sessionTask s.w x) x.sp Touch.load ch.va ch.len = (w1, .ok bs) →
        let y := { x with chunks := x.chunks.tail, stream := x.stream ++ bs, bcon := x.bcon + ch.len, met := false }
        y.chunks ≠ [] ∨ y.state ≠ 4 → nextParsed y ≠ .badSequence → Claims.Performs s (.chunkConsumed k) fun w =>
          (w.engine (k / 16)).last = k % 16 ∧ (w.engine (k / 16)).busy = (if nextParsed y = .more false then none else some k) ∧
          ∃ z, w.session? k = some z ∧ z.chunks = y.chunks ∧ z.stream = y.stream ∧ z.bcon = y.bcon) ∧
      (∀ p d w1, dueWork s.w k x = some (.inl (p, d)) →
        let y := { (pictureWrites k x p d).2 with met := false }
        storeRows s.w (sessionReach k) (sessionTask s.w x) x.sp (pictureWrites k x p d).1 = (w1, .ok []) →
        y.chunks ≠ [] ∨ y.state ≠ 4 → nextParsed y ≠ .badSequence → Claims.Performs s (.pictureComplete k) fun w =>
          w.engine (k / 16) = { last := k % 16, busy := none } ∧
          ∃ z, w.session? k = some z ∧ z.pdone = x.pdone + 1 ∧ z.descs = x.descs.tail ∧ z.chunks = x.chunks) ∧
      ∀ w1, x.stalled = false → x.aborting = true → x.freeing = false → x.state ≠ 5 → mayStart s.w x.after.1 x.after.2 6 = true →
        storeRows s.w (sessionReach k) (sessionTask s.w x) x.sp (statusRows k { x with chunks := [], descs := [], state := 0 } ++
          [(hStamp x.blk, leBytes 8 (x.pdone % 2 ^ 62 + 2 ^ 63))]) = (w1, .ok []) →
        Claims.Performs s (.abortClose k) fun w => w.mem = w1.mem ∧ w.threads = w1.threads ∧ w.session? k = none

/-! ## Confluence, the host and the memory system -/

/-- R222, R234, R348, R351, R372: a chain's state is `LAST`, the number of the access performed last, and `NEXT`, the number expected next or the wildcard (no value). At die reset
they are 0 and the wildcard; performing an access and `chainset` write both; `chainst` reads `NEXT` as an offset from `LAST`. A `chainset` behind a binding that is not yet in place
waits in its core's queue, and one that finds that queue full holds its block. -/
def Obligations.ChainState : Prop :=
  (∀ k, (State.reset.w.chain k).last = 0 ∧ (State.reset.w.chain k).nxt = none) ∧
  (∀ (s : State) (k i : Nat) (en : ChainEntry) (a : Access), nextEntry (s.w.chain k) (chainEntries s.w k) = some en → entryIndex s.w en = some i →
    (s.w.elem en.elem).acc[i]? = some a → powered s.w (eCore en.elem) = true →
    Claims.Performs s (.chainPerform k) fun w => (w.chain k).last = en.q ∧ (w.chain k).nxt = en.succ) ∧
  ∀ (s : State) (x : Txn) (p : Pr) (d a : Reg),
    let n := (s.readG d).toNat
    let v := (s.readG a).toNat
    let k := 4096 * s.die + n
    (Accesses s x p [d, a] [] → n < 2 ^ 12 → v < 2 ^ 32 →
      (16 ≤ (s.w.streamQueue s.core).length → ∃ t, exec (.chainset p d a) s = .next t ∧ Claims.Holds s t x .room) ∧
      ((s.w.streamQueue s.core).length < 16 → bindingWaits s.w s.core = true → ∃ t, exec (.chainset p d a) s = .next t ∧ Onward s t x 1 ∧
        t.w.streamQueue s.core = s.w.streamQueue s.core ++ [.chain k v (issuedOnChain s.w k)] ∧ t.w.chains = s.w.chains) ∧
      (Claims.StreamsFree s → ∃ t, exec (.chainset p d a) s = .next t ∧ Onward s t x 1 ∧
        let c := t.w.chain k
        let q := v % 2 ^ 16 % 65535
        let next := v / 2 ^ 24 % 2 ^ 8
        c.last = q ∧ c.nxt = if next = 0 then none else some ((q + next) % 65535))) ∧
    (Accesses s x p [a] [] → v < 2 ^ 12 →
      let c := s.w.chain (4096 * s.die + v)
      let offset := match c.nxt with | some m => (m + 65535 - c.last) % 65535 | none => 0
      ∃ t f, exec (.chainst p d a) s = .next t ∧ WroteG s t x 1 d (BitVec.ofNat 64 (f * 2 ^ 32 + offset % 2 ^ 8 * 2 ^ 16 + c.last)))

/-- R120, R347 to R358: a home unit with room accepts an access of an element whose region owns the chain, or of any where none does; it performs the entry that is due next,
which becomes the chain's last, and answers with the old value; another region's access, a gap too long and an overflow are element faults. -/
def Obligations.ChainEvents : Prop :=
  ∀ (s : State) (e i k r : Nat),
    let ch := s.w.chain k
    let u := chainUnit k
    (∀ a w1 g, (s.w.elem e).acc[i]? = some a → regionOf s.w e = some r → a.phase = .issued → a.op.isChain = true → chainWaits (s.w.elem e) i a = false →
        behindChainset s.w e a = false → (s.w.region r).frozen = false → powered s.w (eCore e) = true → a.logged = none → locateWord s.w e a = (w1, .ok g) → chainKey e a = k → (s.w.unit u).length < 256 →
      (ch.owner = none ∨ ch.owner = some r → Claims.Happens s (.chainAccept e i) fun w => Claims.Quiet s w ∧ Claims.Alone s w e ∧
        w.chain k = { ch with owner := some r } ∧ (w.elem e).acc = listSet (s.w.elem e).acc i { a with phase := .atUnit, pa := g.pa, cmp := g.cmp } ∧
        ∃ en, w.unit u = s.w.unit u ++ [en] ∧ en.chain = k ∧ en.q = a.link % 2 ^ 16 % 65535 ∧ en.region = r ∧ en.elem = e ∧ en.h = a.h ∧ en.nth = a.nth ∧
          (a.link / 2 ^ 24 % 2 ^ 8 = 0 → en.succ = none) ∧ (a.link / 2 ^ 16 % 2 ^ 8 = 0 → en.pred = none)) ∧
      (∀ o, ch.owner = some o → o ≠ r → Claims.Happens s (.chainAccept e i) fun w => w = elemFault w1 e 0x07)) ∧
    (∀ en a, nextEntry ch (chainEntries s.w k) = some en → entryIndex s.w en = some i → (s.w.elem en.elem).acc[i]? = some a → a.logged = none →
        powered s.w (eCore en.elem) = true →
      let g : Seg := { va := a.va, pa := a.pa, len := a.len, cmp := a.cmp }
      let old := leNat (segBytes s.w [g])
      let cut := s.w.region en.region
      let w0 := (s.w.setUnit u ((s.w.unit u).erase en)).setChain k (ch.step en (cut.cutting && en.epoch == cut.epoch))
      let stored (v : Nat) : World := edgeStore w0 en.elem a [g] (leBytes a.len v)
      let w1 := if a.op = .chainStore then stored a.val else if a.op = .chainAdd then stored (chainAdd a.fmt old (BitVec.ofNat 32 a.val)).1 else w0
      a.op = .chainLoad ∨ a.op = .chainStore ∨ a.op = .chainAdd →
      Claims.Performs s (.chainPerform k) fun w => w.mem = w1.mem ∧ w.threads = w1.threads ∧ Claims.Alone s w en.elem ∧
        (w.chain k).last = en.q ∧ (w.chain k).nxt = en.succ ∧ (w.chain k).gap = 0 ∧ (w.chain k).owner = ch.owner ∧ w.unit u = (s.w.unit u).erase en ∧
        w.elem en.elem = Elem.deliver { s.w.elem en.elem with
          acc := listSet (s.w.elem en.elem).acc i (a.complete old).1, busyAt := s.w.cycle
          log := if a.op.logs then (s.w.elem en.elem).log ++ [(a.h, a.nth, old, a.epoch)] else (s.w.elem en.elem).log }) ∧
    (∀ en rest, chainEntries s.w k = en :: rest → (∀ x ∈ en :: rest, performable ch x = false) → 2 ^ (s.w.die (k / 4096)).gapl ≤ ch.gap →
      Claims.Happens s (.chainGap k) fun w => w = elemFault s.w en.elem 0x0B) ∧
    ∀ n en, 256 ≤ (s.w.unit n).length → (∀ x ∈ s.w.unit n, performable (s.w.chain x.chain) x = false) →
      let count (c : Nat) : Nat := ((s.w.unit n).filter (·.chain == c)).length
      (s.w.unit n).find? (·.chain == k) = some en → (∀ x ∈ s.w.unit n, x.chain ≠ k → count x.chain < count k ∨ (count x.chain = count k ∧ k < x.chain)) →
      Claims.Happens s (.chainOverflow n) fun w => w = elemFault s.w en.elem 0x0A

/-- R257, R281 to R288, R338, R342, R345, R371: what the host and the memory system do between blocks: accesses and snoops, invalidations, launch
queues, register writes, the peer ports' ID, hot lines and slot tables. The first access of a host that has not committed its HDM decoders stands for that
commit (log 33); a record that cannot be read is passed over (log 92), and an invalidation waits for the chain accesses that a unit holds and for the
stores on their way that used what it names, while one that waits at a store path is translated anew (log 93). -/
def Obligations.HostEvents : Prop :=
  ∀ (s : State) (d q : Nat) (v : Word),
    let x := s.w.die d
    let y := s.w.queue q
    (∀ off n val, let pa := off / (48 * 2 ^ 30) * 2 ^ 36 + off % (48 * 2 ^ 30)
      let a := Reach.dieAgent (off / (48 * 2 ^ 30))
      (s.w.jibor.released = false → ∀ wr, Claims.Happens s (.hostMemAccess wr off n val) fun w => w = s.w) ∧
      (s.w.jibor.released = true → s.w.jibor.hdm = false → ∀ wr, Claims.Happens s (.hostMemAccess wr off n val) fun w =>
        w = { s.w with jibor := { s.w.jibor with hdm := true } }) ∧
      (s.w.jibor.released = true → s.w.jibor.hdm = true → off < 8 * (48 * 2 ^ 30) → 0 < n → off % 64 + n ≤ 64 → served s.w a pa = true →
      (Claims.Happens s (.hostMemAccess true off n val) fun w => w = (storeMem s.w a none pa Touch.store (leBytes n val)).1 ∧ w.threads = s.w.threads) ∧
      Claims.Happens s (.hostMemAccess false off n val) (Claims.Quiet s))) ∧
    (∀ line, windowOf (128 * line) = .host → s.w.jibor.released = true → Claims.Happens s (.hostSnoop d line) fun w => Claims.Quiet s w ∧
      tabGet [] d w.cache.rdc = (tabGet [] d s.w.cache.rdc).filter (fun y => y.1 ≠ line) ∧
      ∀ j, j ≠ d → tabGet [] j w.cache.rdc = tabGet [] j s.w.cache.rdc) ∧
    (d < 8 → Claims.Happens s (.tinvc d v) fun w =>
      w = s.w.setDie d { x with tinvc := x.tinvc ++ [(v.toNat / 2 ^ 16 % 4, v.toNat % 2 ^ 16, x.tinva)] }) ∧
    (∀ kind asid iva rest, x.tinvc = (kind, asid, iva) :: rest → buffered s.w kind asid iva = false → storesUnderWay s.w kind asid iva = false →
      Claims.Happens s (.invalidationComplete d) fun w => w.mem = s.w.mem ∧ (w.die d).tinvc = rest ∧
        (∀ t y, y ∈ (w.thread t).path → y.phase = .waiting → y.usesNamed kind asid iva = false) ∧
        ∀ c l, (c, l) ∈ w.cache.tlb ∨ (c, l) ∈ w.cache.dieTlb → ∀ t ∈ l,
          let page := t.va ≤ iva ∧ iva < t.va + t.size.bytes
          ¬ ((kind = 0 ∧ t.asid = asid ∧ page) ∨ (kind = 1 ∧ t.asid = asid) ∨ (kind = 2 ∧ page) ∨ 3 ≤ kind)) ∧
    (q < 4096 →
      (Claims.Happens s (.tail q v) fun w => w = s.w.setQueue q { y with tail := v.toNat % 2 ^ 32, stuck := false }) ∧
      ∀ on, Claims.Happens s (.qen q on) fun w => Claims.Quiet s w ∧
        w.queue q = { y with
          en := on, outProg := if y.en && !on then y.prog else y.outProg, offered := if on then y.offered else none } ∧ (∀ j, j ≠ q → w.queue j = s.w.queue j) ∧
        ∀ i, (w.die i).inbox = (s.w.die i).inbox.filter (fun z => on || z.queue ≠ some q)) ∧
    (y.en = true → (s.w.die y.die).fenced = false → (∀ z ∈ (s.w.die y.die).inbox, z.queue ≠ some q) →
      let size := 2 ^ min y.log 20
      let ahead := (y.tail + 2 ^ 32 - y.prog) % 2 ^ 32
      let sp : Space := { asid := y.asid, ptb := y.ptb, user := false }
      let due : Prop := y.offered = none ∧ y.stuck = false ∧ y.prog ≠ y.tail
      (due → size < ahead → Claims.Happens s (.launchRecordOffer q) fun w => w = s.w.setQueue q { y with ovf := true, stuck := true }) ∧
      let advanced (w : World) : Prop := w.queue q = { y with prog := (y.prog + 1) % 2 ^ 32 } ∧
        (y.irq = true → w.msix = tabSet q (tabGet 0 q s.w.msix + 1) s.w.msix)
      (∀ w1 f, due → ahead ≤ size →
        nodeLoad s.w (.dieAgent y.die) none sp Touch.load (y.base + 64 * (y.prog % size)) 64 = (w1, .error f) →
        Claims.Happens s (.launchRecordOffer q) fun w => Claims.Quiet s w ∧ advanced w) ∧
      (∀ b, y.offered = some b →
        let i : Inbound := { launch := b, sp := sp, queue := some q, after := none }
        Claims.Happens s (.launchRecordOffer q) fun w => Claims.Quiet s w ∧ w.queue q = y ∧
          (w.die y.die).inbox = (s.w.die y.die).inbox ++ if accepts s.w y.die i then [i] else []) ∧
      ∀ w1 b, due → ahead ≤ size →
        nodeLoad s.w (.dieAgent y.die) none sp Touch.load (y.base + 64 * (y.prog % size)) 64 = (w1, .ok b) →
        let i : Inbound := { launch := BitVec.ofNat 512 (leNat b), sp := sp, queue := some q, after := none }
        let z := { y with offered := some i.launch }
        Claims.Happens s (.launchRecordOffer q) fun w => Claims.Quiet s w ∧ w.queue q = z ∧
          (w.die y.die).inbox = (s.w.die y.die).inbox ++ if accepts (w1.setQueue q z) y.die i then [i] else []) ∧
    (∀ pa, windowOf pa = .aperture → pa % 8 = 0 → Claims.Happens s (.registerWrite pa 8 v) fun w =>
      w = writeRegister s.w (registerAt (pa - apertureBase)) v.toNat) ∧
    (∀ i0 i1 i2 i3,
      (i0 = i1 ∧ i1 = i2 ∧ i2 = i3 ∧ i0 < 4096 → Claims.Happens s (.pbrIdAssign i0 i1 i2 i3) fun w => w = { s.w with pbr := { valid := true, id := i0 } }) ∧
      (¬ (i0 = i1 ∧ i1 = i2 ∧ i2 = i3) → Claims.Happens s (.pbrIdAssign i0 i1 i2 i3) fun w => w = s.w)) ∧
    (∀ line, Claims.Happens s (.hotBitClear line) fun w => Claims.Quiet s w ∧
      ∀ k ls, (k, ls) ∈ w.cache.l2 → k = setKey (128 * line) → ∀ z ∈ ls, z.line = line → z.last + 65536 ≤ s.w.cycle → z.hot = false) ∧
    ∀ c, c < 64 → Claims.Happens s (.slotTableRound d c) fun w => Claims.Quiet s w ∧
      ∀ i, i < 4 → tabGet slotWordReset (4 * c + i) (w.die d).slots =
        if tabHas (4 * c + i) x.slotNext then tabGet slotWordReset (4 * c + i) x.slotNext else tabGet slotWordReset (4 * c + i) x.slots

/-- R286: a write of v to the interrupt register of thread t raises an event with code 0x41 on that thread, with tval v; while one is pending, the
write ORs v into its tval instead, so that at most one is pending; a read returns the pending value, or 0. (A thread holds at most 16 events, R275; that one for
which it has no room waits, and is pending, is the model's reading: log 34.) -/
def Obligations.ExternalInterrupts : Prop :=
  ∀ (s : State) (t : Nat) (v : Word), t < 1280 →
    let th := s.w.thread t
    (∀ w : World, readRegister w (.irq t) = (match (w.thread t).events.find? (·.code == 0x41) with
      | some e => e.val.toNat
      | none => match w.owed.find? (fun o => o.rcv == t && o.code == 0x41) with
        | some o => o.val.toNat
        | none => 0)) ∧
    ((∀ e ∈ th.events, e.code ≠ 0x41) → (∀ o ∈ s.w.owed, o.rcv = t → o.code ≠ 0x41) → canReceive s.w t = false →
      Claims.Happens s (.interruptRegister t v) fun w =>
        w = { s.w with owed := s.w.owed ++ [{ rcv := t, record := none, code := 0x41, val := v, flag := false }] }) ∧
    (∀ a o b, s.w.owed = a ++ o :: b → o.rcv = t → o.code = 0x41 → (∀ y ∈ a ++ b, y.rcv = t → y.code ≠ 0x41) → (∀ e ∈ th.events, e.code ≠ 0x41) →
      Claims.Happens s (.interruptRegister t v) fun w => w.thread t = th ∧ w.owed = a ++ { o with val := o.val ||| v } :: b) ∧
    ((∀ e ∈ th.events, e.code ≠ 0x41) → th.events.length < 16 → (∀ o ∈ s.w.owed, o.rcv ≠ t) → Claims.Happens s (.interruptRegister t v) fun w =>
      w = s.w.setThread t { th with events := th.events ++ [{ code := 0x41, val := v }] }) ∧
    ∀ a e b, th.events = a ++ e :: b → e.code = 0x41 → (∀ f ∈ a ++ b, f.code ≠ 0x41) → (∀ o ∈ s.w.owed, o.rcv = t → o.code ≠ 0x41) → Claims.Happens s (.interruptRegister t v) fun w =>
      w = s.w.setThread t { th with events := a ++ { e with val := e.val ||| v } :: b }

/-! ## Jibor -/

namespace Sys2Proof.Claims

/-- The host has written `MARG` and `MPAY` as far as a command uses them (R291). -/
def asked (w : World) (args : List Word) (pay : List Byte) : World :=
  { w with jibor := { w.jibor with arg0 := args.getD 0 w.jibor.arg0, arg1 := args.getD 1 w.jibor.arg1
                                   payload := (pay ++ w.jibor.payload.drop pay.length).take 4096 } }

/-- The mailbox with those written, its command done with result `r` (R291). -/
def done (s : State) (args : List Word) (pay : List Byte) (r : Nat) : Jibor :=
  { (asked s.w args pay).jibor with result := r, busy := false }

/-- The mailbox answers the command `i` with result `r`, and nothing else is changed (R291). -/
def Says (s : State) (i : Instr) (args : List Word) (pay : List Byte) (r : Nat) : Prop :=
  Happens s i fun w => w = { s.w with jibor := done s args pay r }

/-- A debug command on thread `t` of a core that is awake: the cores are released, the level covers the thread, and neither its die nor
its core is off (R292, R296). -/
def DebugOpen (s : State) (v : Word) : Prop :=
  s.w.jibor.released = true ∧ v.toNat < 1280 ∧ covers s.w v.toNat = true ∧ (s.w.die (dieOf (coreOf v.toNat))).off = false ∧
    (s.w.die (dieOf (coreOf v.toNat))).retention = false ∧ (s.w.core (coreOf v.toNat)).off = false

/-- A debug command turns its thread from `th` into `f th`, and answers 0 (R294). -/
def Debugs (s : State) (i : Instr) (v : Word) (f : Thread → Thread) : Prop :=
  Happens s i fun w => w.mem = s.w.mem ∧ w.jibor = done s [v] [] 0 ∧
    w.thread v.toNat = f (s.w.thread v.toNat) ∧ ∀ u, u ≠ v.toNat → w.thread u = s.w.thread u

end Sys2Proof.Claims

/-- R288 to R294: the host writes `MARG` and `MCMD` and reads `MSTS` at their offsets between steps; `IMAGE` and `RECORD` install an image that passes its checks, `ATTEST` puts the report into the payload, `DBGOPEN` opens a
level, `DBGCLOSE` releases every hold; `DHOLD`, `DSTEP`, `DRUN` and `DREAD` act on a thread that the level covers, `DREAD` on a region too, which
it leaves running or stopped as it found it; otherwise the result says why not. While `BUSY` is set the write of `MCMD` is ignored.
(The root and identity keys are free values: log 85; which result comes first is the model's reading: log 87, log 88; that other steps fall between the host's writes, log 5.) -/
def Obligations.JiborMailbox : Prop :=
  ∀ (s : State) (v a : Word) (pay : List Byte),
    let j := s.w.jibor
    (∀ off n x rest, s.txn = none → s.agenda = .mailbox off n x :: rest →
      step s = .next (serve { s with agenda := rest, w := mailboxWrite (settlePaths s.w) off n x })) ∧
    (∀ x, x < 2 ^ 64 →
      mailboxWrite s.w 0x08 8 x = { s.w with jibor := { j with arg0 := BitVec.ofNat 64 x } } ∧
      mailboxWrite s.w 0x10 8 x = { s.w with jibor := { j with arg1 := BitVec.ofNat 64 x } } ∧ mailboxWrite s.w 0x18 8 x = s.w) ∧
    (mailboxRead j 0x00 8 = 0 ∧ mailboxRead j 0x08 8 = j.arg0.toNat ∧ mailboxRead j 0x10 8 = j.arg1.toNat ∧
      mailboxRead j 0x18 8 = (if j.busy then 2 ^ 63 else 0) + j.result % 256) ∧
    let sent : List (Instr × List Word × List Byte) := [(.attest pay, [], pay), (.dbgopen v a pay, [v, a], pay), (.dbgclose, [], []),
      (.dhold v, [v], []), (.dstep v, [v], []), (.drun v, [v], []), (.dread v a, [v, a], []), (.fence v, [v], []), (.unfence v, [v], [])]
    (j.busy = true → ∀ m ∈ sent ++ [(.image v, [v], []), (.record v, [v], [])],
      Claims.Happens s m.1 fun w => w = Claims.asked s.w m.2.1 m.2.2) ∧
    (j.busy = false → j.released = false → ∀ m ∈ sent, Claims.Says s m.1 m.2.1 m.2.2 3) ∧
    (j.busy = false → ∀ rec_ i, (rec_, i) ∈ [(false, Instr.image v), (true, .record v)] →
      let h := hostBytes s.w v.toNat 256
      let img := h ++ hostBytes s.w (v.toNat + 256) (imageLength h)
      let bad := imageFormed h = false ∨ (imageType h == 4) ≠ rec_ ∨ 2 ^ 51 - 2 ^ 48 < v.toNat + 256 + imageLength h
      (bad → Claims.Says s i [v] [] 4) ∧ (¬ bad → imageResult j img ≠ 0 → Claims.Says s i [v] [] (imageResult j img)) ∧
      (¬ bad → imageResult j img = 0 → Claims.Happens s i fun w => Claims.Quiet s w ∧ w.jibor.result = 0 ∧ w.jibor.busy = false ∧
        tabGet [] (2 * imageType img + slotFor j (imageType img)) w.jibor.flash = img ∧ (rec_ = true → w.jibor.waiting = some (img.drop 256)))) ∧
    (j.busy = false → j.released = true →
      (let n := readPay (Claims.asked s.w [] pay) 32
       (pay.length = 32 → n = pay) ∧ Claims.Happens s (.attest pay) fun w => Claims.Quiet s w ∧ w.jibor.nonce = some n ∧
        w.jibor.result = 0 ∧ w.jibor.busy = false ∧ w.jibor.payload.take 544 = attestReport s.w n ∧
        (j.returned = true → (w.jibor.payload.drop 544).take 178 = exactly 64 (identityKey false) ++
          exactly 114 (ed448Sign (Config.identitySeed false) (identityKey true)))) ∧
      (programAllowed j = true → Claims.Happens s (.dbgopen 1 a pay) fun w =>
        w = { s.w with jibor := { Claims.done s [1, a] pay 0 with level := 1, asid := a.toNat % 2 ^ 16, dmax := max j.dmax 1 } }) ∧
      (programAllowed j = false → Claims.Says s (.dbgopen 1 a pay) [1, a] pay 3) ∧
      (let r := tokenResult j (readPay (Claims.asked s.w [2, a] pay) 256)
       (r = 0 → Claims.Happens s (.dbgopen 2 a pay) fun w =>
        w = { s.w with jibor := { Claims.done s [2, a] pay 0 with level := 2, asid := 0, dmax := max j.dmax 2, nonce := none } }) ∧
       (r ≠ 0 → Claims.Says s (.dbgopen 2 a pay) [2, a] pay r)) ∧
      (v ≠ 1 → v ≠ 2 → Claims.Says s (.dbgopen v a pay) [v, a] pay 4) ∧
      (Claims.Happens s .dbgclose fun w => w.mem = s.w.mem ∧ w.jibor = { Claims.done s [] [] 0 with level := 0 } ∧
        ∀ t, w.thread t = { s.w.thread t with dheld := false, dstep := false, drun := false }) ∧
      (1280 ≤ v.toNat → ∀ i ∈ [Instr.dhold v, .dstep v, .drun v], Claims.Says s i [v] [] 4) ∧
      (v.toNat < 1280 → covers s.w v.toNat = false → ∀ i ∈ [Instr.dhold v, .dstep v, .drun v], Claims.Says s i [v] [] 3)) ∧
    (j.busy = false → Claims.DebugOpen s v →
      Claims.Debugs s (.dhold v) v (fun th => { th with dheld := true, dstep := false, drun := false }) ∧
      ((s.w.thread v.toNat).dheld = true → Claims.Debugs s (.dstep v) v (fun th => { th with dstep := true })) ∧
      Claims.Debugs s (.drun v) v (fun th => { th with dheld := false, dstep := false, drun := true }) ∧
      (v.getLsbD 63 = false → a.toNat + 1024 ≤ 2 ^ 51 - 2 ^ 48 → Claims.Happens s (.dread v a) fun w => w.threads = s.w.threads ∧
        w.jibor = Claims.done s [v, a] [] 0 ∧ w.mem = (writeHost s.w a.toNat (debugThreadImage s.w v.toNat)).mem)) ∧
    (j.busy = false → j.released = true → v.getLsbD 63 = true →
      let r := v.toNat % 2 ^ 63
      let g := s.w.region r
      (1280 ≤ r ∨ 2 ^ 51 - 2 ^ 48 < a.toNat + 2187520 → Claims.Says s (.dread v a) [v, a] [] 4) ∧
      (r < 1280 → a.toNat + 2187520 ≤ 2 ^ 51 - 2 ^ 48 →
        (coversRegion s.w r = false → Claims.Says s (.dread v a) [v, a] [] 3) ∧
        (coversRegion s.w r = true → (s.w.die (dieOf (r / 4))).off = false → (s.w.die (dieOf (r / 4))).retention = false → (s.w.core (r / 4)).off = false →
            g.shadow ≠ .wave →
          (accessesSettled (freezeRegion s.w r) r = true → Claims.Happens s (.dread v a) fun w => w.threads = s.w.threads ∧
            w.jibor.result = 0 ∧ w.jibor.busy = false ∧ w.jibor.reading = none ∧ w.region r = g) ∧
          (accessesSettled (freezeRegion s.w r) r = false → Claims.Happens s (.dread v a) fun w => Claims.Quiet s w ∧ w.jibor.busy = true ∧
            (w.region r).frozen = true ∧ w.jibor.reading = some { region := r, addr := a.toNat, before := some (g.frozen, g.draining) }))))

/-- R287, R295 to R297: `FENCE` keeps tasks away from a core or a die, gives the tasks there their stop or their drain time, and fences; `UNFENCE` undoes
it and lets an installed record take effect; a core or a die goes off, to retention and back as R295 says; a power-on runs the images in flash.
(What memory holds after a power-on, and that none is released without images, are the model's: log 1, log 2, log 91; that a full fence must name a
whole die, log 89; when a core or a die goes off or to retention, log 90.) -/
def Obligations.JiborPowerAndFences : Prop :=
  ∀ (s : State) (c d : Nat) (v : Word),
    let j := s.w.jibor
    let k := s.w.core c
    let x := s.w.die d
    (∀ u, j.busy = false → j.released = true → unitOf v.toNat = some u →
      (u.full = true → (∃ n y, (n, y) ∈ s.w.sessions ∧ n / 128 = u.die) → Claims.Says s (.fence v) [v] [] 5) ∧
      ((u.full = false ∨ ∀ n y, (n, y) ∈ s.w.sessions → n / 128 ≠ u.die) → Claims.Happens s (.fence v) fun w => Claims.Quiet s w ∧ w.jibor.result = 0 ∧
        (∀ n, u.core = some n → (w.core n).fenced = true) ∧ (u.core = none → (w.die u.die).fenced = true) ∧
        (u.full = true → (w.die u.die).fullFence = true) ∧
        ∀ n y, unitTasks (setFenced s.w u true) u = [(n, y)] → y.phase = .running →
          (y.csave = 0 → w.task? n = some { y with fenceBy := some (s.w.cycle + ceilDiv (y.drain * 33) 10) }) ∧
          (y.csave ≠ 0 → ∃ z t e f, w.task? n = some z ∧ z.victim = some (t, s.w.cycle, e, f))) ∧
      Claims.Happens s (.unfence v) fun w => Claims.Quiet s w ∧ w.jibor.result = 0 ∧ (∀ n, u.core = some n → (w.core n).fenced = false) ∧
        (u.core = none → (w.die u.die).fenced = false ∧ (w.die u.die).off = false ∧ (w.die u.die).fullFence = false) ∧
        ∀ b, j.waiting = some b → ∀ n, n < 320 → u.has n = true → (w.core n).enabled = coreEnabled b n) ∧
    (j.busy = false → j.released = true → unitOf v.toNat = none → ∀ i ∈ [Instr.fence v, .unfence v], Claims.Says s i [v] [] 4) ∧
    (coreMayOff s.w c = true → Claims.Happens s (.coreOff c) fun w => w = s.w.setCore c { k with off := true }) ∧
    (k.off = true → (∀ i, i < 4 → (s.w.region (4 * c + i)).cq = [] ∧ (s.w.region (4 * c + i)).running = false ∧ (s.w.region (4 * c + i)).shadow ≠ .sealed) →
      (∃ i, i < 4 ∧ (s.w.thread (4 * c + i)).phase = .running ∧ (s.w.thread (4 * c + i)).dheld = false) →
      Claims.Happens s (.coreWake c) fun w => w = s.w.setCore c { k with off := false }) ∧
    (∀ t, k.dbgWake = some t → t + 1024 ≤ s.w.cycle → coreIdle s.w c = true →
      Claims.Happens s (.debugWakeExpiry c) fun w => w = s.w.setCore c { k with dbgWake := none }) ∧
    (dieMayRetain s.w d = true → Claims.Happens s (.dieRetention d) fun w => Claims.Quiet s w ∧ w.die d = { x with retention := true } ∧
      (∀ n ls, (n, ls) ∈ w.cache.l2 → n / 32768 ≠ d) ∧ tabGet [] d w.cache.rdc = []) ∧
    (x.retention = true → Claims.Happens s (.dieWake d) fun w => w = s.w.setDie d { x with retention := false }) ∧
    (∀ hot, Claims.Happens s (.junctionTemperature hot) fun w => w = { s.w with jibor := { j with hot := hot } }) ∧
    (∀ a b, runningImage j 1 = some a → runningImage j 4 = some b → Claims.Happens s .powerOn fun w =>
      w.jibor.released = true ∧ w.jibor.hdm = false ∧ w.jibor.busy = false ∧ w.jibor.flash = j.flash ∧ w.jibor.level = 0 ∧ w.jibor.record = b.drop 256 ∧ w.mem = State.reset.w.mem ∧
        ∀ t, (w.thread t).phase = .halted) ∧
    ((runningImage j 1 = none ∨ runningImage j 4 = none) → Claims.Happens s .powerOn fun w => w.jibor.released = false)
end

