-- ==== Sys2Proof/Laws/Tab.lean ====
section
/-! SUPPORT. The laws of sparse tables: what a set or a delete leaves at each key, and that keys keep rising. -/

namespace Sys2Proof.Machine

@[simp] theorem tabGet_tabSet_same {α : Type} (d v : α) (k : Nat) (t : Tab α) : tabGet d k (tabSet k v t) = v := by
  induction t with
  | nil => simp [tabSet, tabGet]
  | cons c t ih =>
    obtain ⟨j, u⟩ := c
    simp only [tabSet]
    split
    · rw [tabGet, if_neg (by omega), ih]
    · split <;> simp [tabGet]

theorem tabGet_tabSet_other {α : Type} (d v : α) {k l : Nat} (h : l ≠ k) (t : Tab α) :
    tabGet d l (tabSet k v t) = tabGet d l t := by
  induction t with
  | nil => simp [tabSet, tabGet, Ne.symm h]
  | cons c t ih =>
    obtain ⟨j, u⟩ := c
    simp only [tabSet]
    split
    · simp only [tabGet, ih]
    · split
      · next h2 => subst h2; simp [tabGet, Ne.symm h]
      · simp [tabGet, Ne.symm h]

theorem tabGet_tabSet {α : Type} (d v : α) (k l : Nat) (t : Tab α) :
    tabGet d l (tabSet k v t) = if l = k then v else tabGet d l t := by
  split
  · next h => subst h; simp
  · next h => exact tabGet_tabSet_other d v h t

theorem tabWf_tail {α : Type} {c : Nat × α} {t : Tab α} (h : tabWf (c :: t) = true) : tabWf t = true := by
  cases t with
  | nil => rfl
  | cons c' t => obtain ⟨j, u⟩ := c; obtain ⟨k, v⟩ := c'; simp [tabWf] at h; exact h.2

theorem tabWf_head_lt {α : Type} {j : Nat} {u : α} {t : Tab α} (h : tabWf ((j, u) :: t) = true) :
    ∀ c ∈ t, j < c.1 := by
  induction t generalizing j u with
  | nil => simp
  | cons c' t ih =>
    obtain ⟨k, v⟩ := c'
    simp [tabWf] at h
    intro c hc
    rcases List.mem_cons.1 hc with rfl | hc
    · exact h.1
    · exact Nat.lt_trans h.1 (ih h.2 c hc)

theorem tabWf_cons {α : Type} {j : Nat} {u : α} {t : Tab α} (h : tabWf t = true) (hj : ∀ c ∈ t, j < c.1) :
    tabWf ((j, u) :: t) = true := by
  cases t with
  | nil => rfl
  | cons c' t => obtain ⟨k, v⟩ := c'; simp [tabWf, h]; exact hj _ (List.mem_cons_self ..)

theorem tabGet_of_lt {α : Type} (d : α) {k : Nat} {t : Tab α} (h : ∀ c ∈ t, k < c.1) : tabGet d k t = d := by
  induction t with
  | nil => rfl
  | cons c t ih =>
    obtain ⟨j, u⟩ := c
    have h1 := h (j, u) (List.mem_cons_self ..)
    simp only at h1
    rw [tabGet, if_neg (by omega), ih (fun c hc => h c (List.mem_cons_of_mem _ hc))]

theorem mem_tabSet {α : Type} {k : Nat} {v : α} {t : Tab α} {c : Nat × α} (h : c ∈ tabSet k v t) : c = (k, v) ∨ c ∈ t := by
  induction t with
  | nil => exact .inl (by simpa [tabSet] using h)
  | cons c' t ih =>
    obtain ⟨j, u⟩ := c'
    simp only [tabSet] at h
    split at h
    · rcases List.mem_cons.1 h with rfl | h
      · exact .inr (List.mem_cons_self ..)
      · exact (ih h).imp id (List.mem_cons_of_mem _)
    · split at h
      · exact (List.mem_cons.1 h).imp id (List.mem_cons_of_mem _)
      · exact List.mem_cons.1 h

theorem mem_tabDel {α : Type} {k : Nat} {t : Tab α} {c : Nat × α} (h : c ∈ tabDel k t) : c ∈ t := by
  induction t with
  | nil => simp [tabDel] at h
  | cons c' t ih =>
    obtain ⟨j, u⟩ := c'
    simp only [tabDel] at h
    split at h
    · exact List.mem_cons_of_mem _ (ih h)
    · rcases List.mem_cons.1 h with rfl | h
      · exact List.mem_cons_self ..
      · exact List.mem_cons_of_mem _ (ih h)

theorem tabWf_tabSet {α : Type} (k : Nat) (v : α) {t : Tab α} (h : tabWf t = true) : tabWf (tabSet k v t) = true := by
  induction t with
  | nil => rfl
  | cons c t ih =>
    obtain ⟨j, u⟩ := c
    simp only [tabSet]
    split
    · next hj =>
      refine tabWf_cons (ih (tabWf_tail h)) fun c hc => ?_
      rcases mem_tabSet hc with rfl | hc
      · exact hj
      · exact tabWf_head_lt h c hc
    · split
      · next hk => subst hk; exact tabWf_cons (tabWf_tail h) (tabWf_head_lt h)
      · refine tabWf_cons h fun c hc => ?_
        rcases List.mem_cons.1 hc with rfl | hc
        · simp only; omega
        · have := tabWf_head_lt h c hc; omega

theorem tabWf_tabDel {α : Type} (k : Nat) {t : Tab α} (h : tabWf t = true) : tabWf (tabDel k t) = true := by
  induction t with
  | nil => rfl
  | cons c t ih =>
    obtain ⟨j, u⟩ := c
    simp only [tabDel]
    split
    · exact ih (tabWf_tail h)
    · exact tabWf_cons (ih (tabWf_tail h)) fun c hc => tabWf_head_lt h c (mem_tabDel hc)

@[simp] theorem tabGet_tabDel_same {α : Type} (d : α) (k : Nat) (t : Tab α) : tabGet d k (tabDel k t) = d := by
  induction t with
  | nil => rfl
  | cons c t ih =>
    obtain ⟨j, u⟩ := c
    simp only [tabDel]
    split
    · exact ih
    · next hj => rw [tabGet, if_neg hj, ih]

theorem tabGet_tabDel_other {α : Type} (d : α) {k l : Nat} (h : l ≠ k) (t : Tab α) :
    tabGet d l (tabDel k t) = tabGet d l t := by
  induction t with
  | nil => rfl
  | cons c t ih =>
    obtain ⟨j, u⟩ := c
    simp only [tabDel]
    split
    · next hj => subst hj; rw [ih]; simp [tabGet, Ne.symm h]
    · simp only [tabGet, ih]

theorem tabGet_tabDel {α : Type} (d : α) (k l : Nat) (t : Tab α) :
    tabGet d l (tabDel k t) = if l = k then d else tabGet d l t := by
  split
  · next h => subst h; simp
  · next h => exact tabGet_tabDel_other d h t

@[simp] theorem tabHas_tabDel_same {α : Type} (k : Nat) (t : Tab α) : tabHas k (tabDel k t) = false := by
  induction t with
  | nil => rfl
  | cons c t ih =>
    obtain ⟨j, u⟩ := c
    simp only [tabDel]
    split
    · exact ih
    · next hj => simp [tabHas, ih, hj]

/-- What a map over a table reads as, where an unlisted entry stays at its default. -/
theorem tabGet_tabMap {α : Type} (d : α) (f : Nat → α → α) (k : Nat) (t : Tab α) (h : f k d = d) :
    tabGet d k (tabMap f t) = f k (tabGet d k t) := by
  induction t with
  | nil => exact h.symm
  | cons c t ih =>
    obtain ⟨j, u⟩ := c
    simp only [tabMap, tabGet]
    split
    · next hj => subst hj; rfl
    · exact ih

end Sys2Proof.Machine
end

