-- ==== Sys2Proof/Laws/Memory.lean ====
section
/-! SUPPORT. The laws of memory: a read after a write, and that every write keeps the canonical form. -/

namespace Sys2Proof.Machine

theorem Memory.wf_iff (m : List Host.Cell) : Memory.wf m = true ↔ tabWf m = true ∧ ∀ c ∈ m, c.2 ≠ unlistedByte := by
  simp [Memory.wf]

/-- A write keeps the canonical form. -/
theorem wf_setByte {m : List Host.Cell} (h : Memory.wf m = true) (a : Nat) (b : Byte) : Memory.wf (setByte m a b) = true := by
  rw [Memory.wf_iff] at *
  unfold setByte
  split
  · exact ⟨tabWf_tabDel a h.1, fun c hc => h.2 c (mem_tabDel hc)⟩
  · next hb =>
    refine ⟨tabWf_tabSet a b h.1, fun c hc => ?_⟩
    rcases mem_tabSet hc with rfl | hc
    · exact hb
    · exact h.2 c hc

/-- A byte written is the byte read there, and every other byte stays. -/
theorem byteAt_setByte (m : List Host.Cell) (a c : Nat) (b : Byte) :
    byteAt (setByte m a b) c = if c = a then b else byteAt m c := by
  unfold byteAt setByte
  by_cases hb : b = unlistedByte
  · rw [if_pos hb]
    by_cases hc : c = a
    · subst hc; rw [tabGet_tabDel_same, if_pos rfl, hb]
    · rw [tabGet_tabDel_other _ hc, if_neg hc]
  · rw [if_neg hb, tabGet_tabSet]

theorem byteAt_setByte_other (m : List Host.Cell) {a c : Nat} (h : c ≠ a) (b : Byte) : byteAt (setByte m a b) c = byteAt m c := by
  unfold byteAt setByte
  split
  · exact tabGet_tabDel_other _ h m
  · exact tabGet_tabSet_other _ _ h m

theorem wf_setBytes {m : List Host.Cell} (h : Memory.wf m = true) (a : Nat) (bs : List Byte) : Memory.wf (setBytes m a bs) = true := by
  induction bs generalizing m a with
  | nil => exact h
  | cons b bs ih => exact ih (wf_setByte h a b) (a + 1)

theorem wf_setNum {m : List Host.Cell} (h : Memory.wf m = true) (a n v : Nat) : Memory.wf (setNum m a n v) = true :=
  wf_setBytes h a _

/-- A store of bytes leaves every byte outside them. -/
theorem byteAt_setBytes_other (m : List Host.Cell) (a : Nat) (bs : List Byte) {c : Nat} (h : c < a ∨ a + bs.length ≤ c) :
    byteAt (setBytes m a bs) c = byteAt m c := by
  induction bs generalizing m a with
  | nil => rfl
  | cons b bs ih =>
    simp only [List.length_cons] at h
    rw [setBytes, ih _ _ (by omega), byteAt_setByte_other _ (by omega)]

/-- A store of bytes is read back. -/
theorem byteAt_setBytes (m : List Host.Cell) (a : Nat) (bs : List Byte) (i : Nat) (hi : i < bs.length) :
    byteAt (setBytes m a bs) (a + i) = bs[i] := by
  induction bs generalizing m a i with
  | nil => simp at hi
  | cons b bs ih =>
    rw [setBytes]
    cases i with
    | zero => rw [byteAt_setBytes_other _ _ _ (by omega), byteAt_setByte]; simp
    | succ i =>
      have := ih (setByte m a b) (a + 1) i (by simpa using hi)
      rw [show a + (i + 1) = a + 1 + i by omega, this]; rfl

@[simp] theorem leBytes_length (n x : Nat) : (leBytes n x).length = n := by
  induction n generalizing x with
  | zero => rfl
  | succ n ih => simp [leBytes, ih]

@[simp] theorem bytesAt_length (m : List Host.Cell) (a n : Nat) : (bytesAt m a n).length = n := by
  induction n generalizing a with
  | zero => rfl
  | succ n ih => simp [bytesAt, ih]

theorem leNat_leBytes (n x : Nat) : leNat (leBytes n x) = x % 256 ^ n := by
  induction n generalizing x with
  | zero => simp [leBytes, leNat, Nat.mod_one]
  | succ n ih =>
    have h : x % (256 * 256 ^ n) = x % 256 + 256 * (x / 256 % 256 ^ n) := Nat.mod_mul
    rw [leBytes, leNat, ih, BitVec.toNat_ofNat, show 256 ^ (n + 1) = 256 * 256 ^ n by rw [Nat.pow_succ, Nat.mul_comm], h]

theorem bytesAt_eq (m : List Host.Cell) (a n : Nat) (f : Nat → Byte) (h : ∀ i, i < n → byteAt m (a + i) = f i) :
    bytesAt m a n = (List.range n).map f := by
  induction n generalizing a f with
  | zero => rfl
  | succ n ih =>
    rw [bytesAt, List.range_succ_eq_map, List.map_cons, List.map_map, ← h 0 (by omega),
      ih (a + 1) (f ∘ Nat.succ) (fun i hi => by have := h (i + 1) (by omega); rw [← Nat.add_assoc, Nat.add_right_comm] at this; exact this)]
    rfl

theorem bytesAt_setBytes (m : List Host.Cell) (a : Nat) (bs : List Byte) :
    bytesAt (setBytes m a bs) a bs.length = bs := by
  rw [bytesAt_eq _ _ _ (fun i => bs.getD i 0) (fun i hi => by
    rw [byteAt_setBytes m a bs i hi]; simp [List.getD, hi])]
  apply List.ext_getElem <;> simp [List.getD]
  intro i h1; simp [h1]

/-- A number stored is the number read back, cut to its bytes (R3). -/
theorem numAt_setNum (m : List Host.Cell) (a n v : Nat) : numAt (setNum m a n v) a n = v % 256 ^ n := by
  have := bytesAt_setBytes m a (leBytes n v)
  rw [leBytes_length] at this
  rw [numAt, setNum, this, leNat_leBytes]

/-- A store at physical addresses keeps the canonical form. -/
theorem wf_storePhys {w : World} (h : Memory.wf w.mem = true) (pa : Nat) (bs : List Byte) :
    Memory.wf (storePhys w pa bs).1.mem = true := by
  induction bs generalizing pa with
  | nil => exact h
  | cons b bs ih =>
    simp only [storePhys]
    split
    · exact ih _
    · exact wf_setByte (ih _) _ _

@[simp] theorem World.mem_charge (w : World) (task : Option Nat) (b n : Nat) : (w.charge task b n).mem = w.mem := by
  unfold World.charge; split <;> rfl

/-- What every step of a fold keeps, the fold keeps. -/
theorem mem_foldl {α : Type} (f : World → α → World) (h : ∀ w a, (f w a).mem = w.mem) (l : List α) (w : World) :
    (l.foldl f w).mem = w.mem := by
  induction l generalizing w with
  | nil => rfl
  | cons a l ih => rw [List.foldl_cons, ih, h]

@[simp] theorem World.mem_reach (w : World) (d a : Nat) (t : Touch) : (w.reach d a t).1.mem = w.mem := rfl

@[simp] theorem World.mem_touchLine (w : World) (d : Nat) (task : Option Nat) (t : Touch) (pa n : Nat) :
    (w.touchLine d task t pa n).mem = w.mem := by
  simp only [World.touchLine, World.mem_charge, World.mem_reach]

@[simp] theorem World.mem_touch (w : World) (d : Nat) (task : Option Nat) (pa n : Nat) (t : Touch) : (w.touch d task pa n t).mem = w.mem :=
  mem_foldl _ (fun _ _ => World.mem_touchLine ..) _ _

@[simp] theorem mem_renewMeta (w : World) (line : Nat) : (renewMeta w line).mem = w.mem := by unfold renewMeta; split <;> rfl

@[simp] theorem mem_cleanPoison (w : World) (pa n : Nat) : (cleanPoison w pa n).mem = w.mem := by
  have h : (if w.badMeta.isEmpty then w else (linesOf (homeOf w pa) n).foldl (fun w p => renewMeta w (p.1 / 128)) w).mem = w.mem := by
    split
    · rfl
    · exact mem_foldl _ (fun _ _ => mem_renewMeta ..) _ _
  simp only [cleanPoison]
  generalize (if w.badMeta.isEmpty then w else (linesOf (homeOf w pa) n).foldl (fun w p => renewMeta w (p.1 / 128)) w) = v at h ⊢
  split <;> exact h

@[simp] theorem mem_walkReach (w : World) (d : Nat) (sp : Space) (va : Nat) : (walkReach w d sp va).mem = w.mem :=
  mem_foldl _ (fun _ _ => World.mem_reach ..) _ _

/-- A store of any agent keeps the canonical form. -/
theorem wf_storeMem {w : World} (h : Memory.wf w.mem = true) (who : Reach) (task : Option Nat) (pa : Nat) (t : Touch) (bs : List Byte) :
    Memory.wf (storeMem w who task pa t bs).1.mem = true := by
  simp only [storeMem, World.mem_touch]
  exact wf_storePhys (by simpa using h) pa bs

/-- A record keeps the canonical form. -/
theorem mem_tlbFill (w : World) (who : Reach) (e : TlbEntry) : (tlbFill w who e).mem = w.mem := rfl

theorem mem_locate (w : World) (who : Reach) (sp : Space) (acc : Acc) (va : Nat) : (locate w who sp acc va).1.mem = w.mem := by
  have h : (translate w who sp acc va).1.mem = w.mem := by
    simp only [translate]
    repeat' split
    all_goals first | rfl | exact mem_walkReach ..
  unfold locate
  repeat' split
  all_goals first | rfl | exact h

theorem reset_memory : Memory.wf State.reset.w.mem = true := rfl

end Sys2Proof.Machine
end

