-- ==== Sys2Proof/Laws/State.lean ====
section
/-! SUPPORT. What each update of the state leaves in each field. -/

namespace Sys2Proof.Machine

/-! ### World.setThread -/

@[simp] theorem World.setThread_mem (w : World) (t : Nat) (x : Thread) : (w.setThread t x).mem = w.mem := rfl
@[simp] theorem World.setThread_poison (w : World) (t : Nat) (x : Thread) : (w.setThread t x).poison = w.poison := rfl
@[simp] theorem World.setThread_badMeta (w : World) (t : Nat) (x : Thread) : (w.setThread t x).badMeta = w.badMeta := rfl
@[simp] theorem World.setThread_cycle (w : World) (t : Nat) (x : Thread) : (w.setThread t x).cycle = w.cycle := rfl
@[simp] theorem World.setThread_fresh (w : World) (t : Nat) (x : Thread) : (w.setThread t x).fresh = w.fresh := rfl
@[simp] theorem World.setThread_cache (w : World) (t : Nat) (x : Thread) : (w.setThread t x).cache = w.cache := rfl
@[simp] theorem World.setThread_threads (w : World) (t : Nat) (x : Thread) : (w.setThread t x).threads = tabSet t x w.threads := rfl
@[simp] theorem World.setThread_cores (w : World) (t : Nat) (x : Thread) : (w.setThread t x).cores = w.cores := rfl
@[simp] theorem World.setThread_dies (w : World) (t : Nat) (x : Thread) : (w.setThread t x).dies = w.dies := rfl
@[simp] theorem World.setThread_pbr (w : World) (t : Nat) (x : Thread) : (w.setThread t x).pbr = w.pbr := rfl
@[simp] theorem World.setThread_queues (w : World) (t : Nat) (x : Thread) : (w.setThread t x).queues = w.queues := rfl
@[simp] theorem World.setThread_units (w : World) (t : Nat) (x : Thread) : (w.setThread t x).units = w.units := rfl
@[simp] theorem World.setThread_chains (w : World) (t : Nat) (x : Thread) : (w.setThread t x).chains = w.chains := rfl
@[simp] theorem World.setThread_tasks (w : World) (t : Nat) (x : Thread) : (w.setThread t x).tasks = w.tasks := rfl
@[simp] theorem World.setThread_nodes (w : World) (t : Nat) (x : Thread) : (w.setThread t x).nodes = w.nodes := rfl
@[simp] theorem World.setThread_moduleNode (w : World) (t : Nat) (x : Thread) : (w.setThread t x).moduleNode = w.moduleNode := rfl
@[simp] theorem World.setThread_ranges (w : World) (t : Nat) (x : Thread) : (w.setThread t x).ranges = w.ranges := rfl
@[simp] theorem World.setThread_elems (w : World) (t : Nat) (x : Thread) : (w.setThread t x).elems = w.elems := rfl
@[simp] theorem World.setThread_regions (w : World) (t : Nat) (x : Thread) : (w.setThread t x).regions = w.regions := rfl
@[simp] theorem World.setThread_streams (w : World) (t : Nat) (x : Thread) : (w.setThread t x).streams = w.streams := rfl
@[simp] theorem World.setThread_matrices (w : World) (t : Nat) (x : Thread) : (w.setThread t x).matrices = w.matrices := rfl
@[simp] theorem World.setThread_sluices (w : World) (t : Nat) (x : Thread) : (w.setThread t x).sluices = w.sluices := rfl
@[simp] theorem World.setThread_tiles (w : World) (t : Nat) (x : Thread) : (w.setThread t x).tiles = w.tiles := rfl
@[simp] theorem World.setThread_channels (w : World) (t : Nat) (x : Thread) : (w.setThread t x).channels = w.channels := rfl
@[simp] theorem World.setThread_slotsOp (w : World) (t : Nat) (x : Thread) : (w.setThread t x).slotsOp = w.slotsOp := rfl
@[simp] theorem World.setThread_cmdSeq (w : World) (t : Nat) (x : Thread) : (w.setThread t x).cmdSeq = w.cmdSeq := rfl
@[simp] theorem World.setThread_sectors (w : World) (t : Nat) (x : Thread) : (w.setThread t x).sectors = w.sectors := rfl
@[simp] theorem World.setThread_sessions (w : World) (t : Nat) (x : Thread) : (w.setThread t x).sessions = w.sessions := rfl
@[simp] theorem World.setThread_engines (w : World) (t : Nat) (x : Thread) : (w.setThread t x).engines = w.engines := rfl
@[simp] theorem World.setThread_scq (w : World) (t : Nat) (x : Thread) : (w.setThread t x).scq = w.scq := rfl
@[simp] theorem World.setThread_sides (w : World) (t : Nat) (x : Thread) : (w.setThread t x).sides = w.sides := rfl
@[simp] theorem World.setThread_periods (w : World) (t : Nat) (x : Thread) : (w.setThread t x).periods = w.periods := rfl
@[simp] theorem World.setThread_msix (w : World) (t : Nat) (x : Thread) : (w.setThread t x).msix = w.msix := rfl
@[simp] theorem World.setThread_owed (w : World) (t : Nat) (x : Thread) : (w.setThread t x).owed = w.owed := rfl
@[simp] theorem World.setThread_jibor (w : World) (t : Nat) (x : Thread) : (w.setThread t x).jibor = w.jibor := rfl
@[simp] theorem World.setThread_dead (w : World) (t : Nat) (x : Thread) : (w.setThread t x).dead = w.dead := rfl
@[simp] theorem World.setThread_thread_same (w : World) (t : Nat) (x : Thread) : (w.setThread t x).thread t = x := tabGet_tabSet_same ..
theorem World.setThread_thread_other (w : World) {t l : Nat} (h : l ≠ t) (x : Thread) : (w.setThread t x).thread l = w.thread l := tabGet_tabSet_other _ _ h _
@[simp] theorem World.setThread_get_elem (w : World) (t l : Nat) (x : Thread) : (w.setThread t x).elem l = w.elem l := rfl
@[simp] theorem World.setThread_get_region (w : World) (t l : Nat) (x : Thread) : (w.setThread t x).region l = w.region l := rfl
@[simp] theorem World.setThread_get_stream (w : World) (t l : Nat) (x : Thread) : (w.setThread t x).stream l = w.stream l := rfl
@[simp] theorem World.setThread_get_core (w : World) (t l : Nat) (x : Thread) : (w.setThread t x).core l = w.core l := rfl
@[simp] theorem World.setThread_get_die (w : World) (t l : Nat) (x : Thread) : (w.setThread t x).die l = w.die l := rfl
@[simp] theorem World.setThread_get_queue (w : World) (t l : Nat) (x : Thread) : (w.setThread t x).queue l = w.queue l := rfl
@[simp] theorem World.setThread_get_sluice (w : World) (t l : Nat) (x : Thread) : (w.setThread t x).sluice l = w.sluice l := rfl
@[simp] theorem World.setThread_get_slotOp (w : World) (t l : Nat) (x : Thread) : (w.setThread t x).slotOp l = w.slotOp l := rfl
@[simp] theorem World.setThread_get_matrix (w : World) (t l : Nat) (x : Thread) : (w.setThread t x).matrix l = w.matrix l := rfl
@[simp] theorem World.setThread_get_tile (w : World) (t l : Nat) (x : Thread) : (w.setThread t x).tile l = w.tile l := rfl
@[simp] theorem World.setThread_get_channel (w : World) (t l : Nat) (x : Thread) : (w.setThread t x).channel l = w.channel l := rfl
@[simp] theorem World.setThread_get_chain (w : World) (t l : Nat) (x : Thread) : (w.setThread t x).chain l = w.chain l := rfl
@[simp] theorem World.setThread_get_unit (w : World) (t l : Nat) (x : Thread) : (w.setThread t x).unit l = w.unit l := rfl
@[simp] theorem World.setThread_get_node (w : World) (t l : Nat) (x : Thread) : (w.setThread t x).node l = w.node l := rfl
@[simp] theorem World.setThread_get_range (w : World) (t l : Nat) (x : Thread) : (w.setThread t x).range l = w.range l := rfl

/-! ### World.setElem -/

@[simp] theorem World.setElem_mem (w : World) (e : Nat) (x : Elem) : (w.setElem e x).mem = w.mem := rfl
@[simp] theorem World.setElem_poison (w : World) (e : Nat) (x : Elem) : (w.setElem e x).poison = w.poison := rfl
@[simp] theorem World.setElem_badMeta (w : World) (e : Nat) (x : Elem) : (w.setElem e x).badMeta = w.badMeta := rfl
@[simp] theorem World.setElem_cycle (w : World) (e : Nat) (x : Elem) : (w.setElem e x).cycle = w.cycle := rfl
@[simp] theorem World.setElem_fresh (w : World) (e : Nat) (x : Elem) : (w.setElem e x).fresh = w.fresh := rfl
@[simp] theorem World.setElem_cache (w : World) (e : Nat) (x : Elem) : (w.setElem e x).cache = w.cache := rfl
@[simp] theorem World.setElem_threads (w : World) (e : Nat) (x : Elem) : (w.setElem e x).threads = w.threads := rfl
@[simp] theorem World.setElem_cores (w : World) (e : Nat) (x : Elem) : (w.setElem e x).cores = w.cores := rfl
@[simp] theorem World.setElem_dies (w : World) (e : Nat) (x : Elem) : (w.setElem e x).dies = w.dies := rfl
@[simp] theorem World.setElem_pbr (w : World) (e : Nat) (x : Elem) : (w.setElem e x).pbr = w.pbr := rfl
@[simp] theorem World.setElem_queues (w : World) (e : Nat) (x : Elem) : (w.setElem e x).queues = w.queues := rfl
@[simp] theorem World.setElem_units (w : World) (e : Nat) (x : Elem) : (w.setElem e x).units = w.units := rfl
@[simp] theorem World.setElem_chains (w : World) (e : Nat) (x : Elem) : (w.setElem e x).chains = w.chains := rfl
@[simp] theorem World.setElem_tasks (w : World) (e : Nat) (x : Elem) : (w.setElem e x).tasks = w.tasks := rfl
@[simp] theorem World.setElem_nodes (w : World) (e : Nat) (x : Elem) : (w.setElem e x).nodes = w.nodes := rfl
@[simp] theorem World.setElem_moduleNode (w : World) (e : Nat) (x : Elem) : (w.setElem e x).moduleNode = w.moduleNode := rfl
@[simp] theorem World.setElem_ranges (w : World) (e : Nat) (x : Elem) : (w.setElem e x).ranges = w.ranges := rfl
@[simp] theorem World.setElem_elems (w : World) (e : Nat) (x : Elem) : (w.setElem e x).elems = tabSet e x w.elems := rfl
@[simp] theorem World.setElem_regions (w : World) (e : Nat) (x : Elem) : (w.setElem e x).regions = w.regions := rfl
@[simp] theorem World.setElem_streams (w : World) (e : Nat) (x : Elem) : (w.setElem e x).streams = w.streams := rfl
@[simp] theorem World.setElem_matrices (w : World) (e : Nat) (x : Elem) : (w.setElem e x).matrices = w.matrices := rfl
@[simp] theorem World.setElem_sluices (w : World) (e : Nat) (x : Elem) : (w.setElem e x).sluices = w.sluices := rfl
@[simp] theorem World.setElem_tiles (w : World) (e : Nat) (x : Elem) : (w.setElem e x).tiles = w.tiles := rfl
@[simp] theorem World.setElem_channels (w : World) (e : Nat) (x : Elem) : (w.setElem e x).channels = w.channels := rfl
@[simp] theorem World.setElem_slotsOp (w : World) (e : Nat) (x : Elem) : (w.setElem e x).slotsOp = w.slotsOp := rfl
@[simp] theorem World.setElem_cmdSeq (w : World) (e : Nat) (x : Elem) : (w.setElem e x).cmdSeq = w.cmdSeq := rfl
@[simp] theorem World.setElem_sectors (w : World) (e : Nat) (x : Elem) : (w.setElem e x).sectors = w.sectors := rfl
@[simp] theorem World.setElem_sessions (w : World) (e : Nat) (x : Elem) : (w.setElem e x).sessions = w.sessions := rfl
@[simp] theorem World.setElem_engines (w : World) (e : Nat) (x : Elem) : (w.setElem e x).engines = w.engines := rfl
@[simp] theorem World.setElem_scq (w : World) (e : Nat) (x : Elem) : (w.setElem e x).scq = w.scq := rfl
@[simp] theorem World.setElem_sides (w : World) (e : Nat) (x : Elem) : (w.setElem e x).sides = w.sides := rfl
@[simp] theorem World.setElem_periods (w : World) (e : Nat) (x : Elem) : (w.setElem e x).periods = w.periods := rfl
@[simp] theorem World.setElem_msix (w : World) (e : Nat) (x : Elem) : (w.setElem e x).msix = w.msix := rfl
@[simp] theorem World.setElem_owed (w : World) (e : Nat) (x : Elem) : (w.setElem e x).owed = w.owed := rfl
@[simp] theorem World.setElem_jibor (w : World) (e : Nat) (x : Elem) : (w.setElem e x).jibor = w.jibor := rfl
@[simp] theorem World.setElem_dead (w : World) (e : Nat) (x : Elem) : (w.setElem e x).dead = w.dead := rfl
@[simp] theorem World.setElem_get_thread (w : World) (e l : Nat) (x : Elem) : (w.setElem e x).thread l = w.thread l := rfl
@[simp] theorem World.setElem_elem_same (w : World) (e : Nat) (x : Elem) : (w.setElem e x).elem e = x := tabGet_tabSet_same ..
theorem World.setElem_elem_other (w : World) {e l : Nat} (h : l ≠ e) (x : Elem) : (w.setElem e x).elem l = w.elem l := tabGet_tabSet_other _ _ h _
@[simp] theorem World.setElem_get_region (w : World) (e l : Nat) (x : Elem) : (w.setElem e x).region l = w.region l := rfl
@[simp] theorem World.setElem_get_stream (w : World) (e l : Nat) (x : Elem) : (w.setElem e x).stream l = w.stream l := rfl
@[simp] theorem World.setElem_get_core (w : World) (e l : Nat) (x : Elem) : (w.setElem e x).core l = w.core l := rfl
@[simp] theorem World.setElem_get_die (w : World) (e l : Nat) (x : Elem) : (w.setElem e x).die l = w.die l := rfl
@[simp] theorem World.setElem_get_queue (w : World) (e l : Nat) (x : Elem) : (w.setElem e x).queue l = w.queue l := rfl
@[simp] theorem World.setElem_get_sluice (w : World) (e l : Nat) (x : Elem) : (w.setElem e x).sluice l = w.sluice l := rfl
@[simp] theorem World.setElem_get_slotOp (w : World) (e l : Nat) (x : Elem) : (w.setElem e x).slotOp l = w.slotOp l := rfl
@[simp] theorem World.setElem_get_matrix (w : World) (e l : Nat) (x : Elem) : (w.setElem e x).matrix l = w.matrix l := rfl
@[simp] theorem World.setElem_get_tile (w : World) (e l : Nat) (x : Elem) : (w.setElem e x).tile l = w.tile l := rfl
@[simp] theorem World.setElem_get_channel (w : World) (e l : Nat) (x : Elem) : (w.setElem e x).channel l = w.channel l := rfl
@[simp] theorem World.setElem_get_chain (w : World) (e l : Nat) (x : Elem) : (w.setElem e x).chain l = w.chain l := rfl
@[simp] theorem World.setElem_get_unit (w : World) (e l : Nat) (x : Elem) : (w.setElem e x).unit l = w.unit l := rfl
@[simp] theorem World.setElem_get_node (w : World) (e l : Nat) (x : Elem) : (w.setElem e x).node l = w.node l := rfl
@[simp] theorem World.setElem_get_range (w : World) (e l : Nat) (x : Elem) : (w.setElem e x).range l = w.range l := rfl

/-! ### World.setRegion -/

@[simp] theorem World.setRegion_mem (w : World) (r : Nat) (x : Region) : (w.setRegion r x).mem = w.mem := rfl
@[simp] theorem World.setRegion_poison (w : World) (r : Nat) (x : Region) : (w.setRegion r x).poison = w.poison := rfl
@[simp] theorem World.setRegion_badMeta (w : World) (r : Nat) (x : Region) : (w.setRegion r x).badMeta = w.badMeta := rfl
@[simp] theorem World.setRegion_cycle (w : World) (r : Nat) (x : Region) : (w.setRegion r x).cycle = w.cycle := rfl
@[simp] theorem World.setRegion_fresh (w : World) (r : Nat) (x : Region) : (w.setRegion r x).fresh = w.fresh := rfl
@[simp] theorem World.setRegion_cache (w : World) (r : Nat) (x : Region) : (w.setRegion r x).cache = w.cache := rfl
@[simp] theorem World.setRegion_threads (w : World) (r : Nat) (x : Region) : (w.setRegion r x).threads = w.threads := rfl
@[simp] theorem World.setRegion_cores (w : World) (r : Nat) (x : Region) : (w.setRegion r x).cores = w.cores := rfl
@[simp] theorem World.setRegion_dies (w : World) (r : Nat) (x : Region) : (w.setRegion r x).dies = w.dies := rfl
@[simp] theorem World.setRegion_pbr (w : World) (r : Nat) (x : Region) : (w.setRegion r x).pbr = w.pbr := rfl
@[simp] theorem World.setRegion_queues (w : World) (r : Nat) (x : Region) : (w.setRegion r x).queues = w.queues := rfl
@[simp] theorem World.setRegion_units (w : World) (r : Nat) (x : Region) : (w.setRegion r x).units = w.units := rfl
@[simp] theorem World.setRegion_chains (w : World) (r : Nat) (x : Region) : (w.setRegion r x).chains = w.chains := rfl
@[simp] theorem World.setRegion_tasks (w : World) (r : Nat) (x : Region) : (w.setRegion r x).tasks = w.tasks := rfl
@[simp] theorem World.setRegion_nodes (w : World) (r : Nat) (x : Region) : (w.setRegion r x).nodes = w.nodes := rfl
@[simp] theorem World.setRegion_moduleNode (w : World) (r : Nat) (x : Region) : (w.setRegion r x).moduleNode = w.moduleNode := rfl
@[simp] theorem World.setRegion_ranges (w : World) (r : Nat) (x : Region) : (w.setRegion r x).ranges = w.ranges := rfl
@[simp] theorem World.setRegion_elems (w : World) (r : Nat) (x : Region) : (w.setRegion r x).elems = w.elems := rfl
@[simp] theorem World.setRegion_regions (w : World) (r : Nat) (x : Region) : (w.setRegion r x).regions = tabSet r x w.regions := rfl
@[simp] theorem World.setRegion_streams (w : World) (r : Nat) (x : Region) : (w.setRegion r x).streams = w.streams := rfl
@[simp] theorem World.setRegion_matrices (w : World) (r : Nat) (x : Region) : (w.setRegion r x).matrices = w.matrices := rfl
@[simp] theorem World.setRegion_sluices (w : World) (r : Nat) (x : Region) : (w.setRegion r x).sluices = w.sluices := rfl
@[simp] theorem World.setRegion_tiles (w : World) (r : Nat) (x : Region) : (w.setRegion r x).tiles = w.tiles := rfl
@[simp] theorem World.setRegion_channels (w : World) (r : Nat) (x : Region) : (w.setRegion r x).channels = w.channels := rfl
@[simp] theorem World.setRegion_slotsOp (w : World) (r : Nat) (x : Region) : (w.setRegion r x).slotsOp = w.slotsOp := rfl
@[simp] theorem World.setRegion_cmdSeq (w : World) (r : Nat) (x : Region) : (w.setRegion r x).cmdSeq = w.cmdSeq := rfl
@[simp] theorem World.setRegion_sectors (w : World) (r : Nat) (x : Region) : (w.setRegion r x).sectors = w.sectors := rfl
@[simp] theorem World.setRegion_sessions (w : World) (r : Nat) (x : Region) : (w.setRegion r x).sessions = w.sessions := rfl
@[simp] theorem World.setRegion_engines (w : World) (r : Nat) (x : Region) : (w.setRegion r x).engines = w.engines := rfl
@[simp] theorem World.setRegion_scq (w : World) (r : Nat) (x : Region) : (w.setRegion r x).scq = w.scq := rfl
@[simp] theorem World.setRegion_sides (w : World) (r : Nat) (x : Region) : (w.setRegion r x).sides = w.sides := rfl
@[simp] theorem World.setRegion_periods (w : World) (r : Nat) (x : Region) : (w.setRegion r x).periods = w.periods := rfl
@[simp] theorem World.setRegion_msix (w : World) (r : Nat) (x : Region) : (w.setRegion r x).msix = w.msix := rfl
@[simp] theorem World.setRegion_owed (w : World) (r : Nat) (x : Region) : (w.setRegion r x).owed = w.owed := rfl
@[simp] theorem World.setRegion_jibor (w : World) (r : Nat) (x : Region) : (w.setRegion r x).jibor = w.jibor := rfl
@[simp] theorem World.setRegion_dead (w : World) (r : Nat) (x : Region) : (w.setRegion r x).dead = w.dead := rfl
@[simp] theorem World.setRegion_get_thread (w : World) (r l : Nat) (x : Region) : (w.setRegion r x).thread l = w.thread l := rfl
@[simp] theorem World.setRegion_get_elem (w : World) (r l : Nat) (x : Region) : (w.setRegion r x).elem l = w.elem l := rfl
@[simp] theorem World.setRegion_region_same (w : World) (r : Nat) (x : Region) : (w.setRegion r x).region r = x := tabGet_tabSet_same ..
theorem World.setRegion_region_other (w : World) {r l : Nat} (h : l ≠ r) (x : Region) : (w.setRegion r x).region l = w.region l := tabGet_tabSet_other _ _ h _
@[simp] theorem World.setRegion_get_stream (w : World) (r l : Nat) (x : Region) : (w.setRegion r x).stream l = w.stream l := rfl
@[simp] theorem World.setRegion_get_core (w : World) (r l : Nat) (x : Region) : (w.setRegion r x).core l = w.core l := rfl
@[simp] theorem World.setRegion_get_die (w : World) (r l : Nat) (x : Region) : (w.setRegion r x).die l = w.die l := rfl
@[simp] theorem World.setRegion_get_queue (w : World) (r l : Nat) (x : Region) : (w.setRegion r x).queue l = w.queue l := rfl
@[simp] theorem World.setRegion_get_sluice (w : World) (r l : Nat) (x : Region) : (w.setRegion r x).sluice l = w.sluice l := rfl
@[simp] theorem World.setRegion_get_slotOp (w : World) (r l : Nat) (x : Region) : (w.setRegion r x).slotOp l = w.slotOp l := rfl
@[simp] theorem World.setRegion_get_matrix (w : World) (r l : Nat) (x : Region) : (w.setRegion r x).matrix l = w.matrix l := rfl
@[simp] theorem World.setRegion_get_tile (w : World) (r l : Nat) (x : Region) : (w.setRegion r x).tile l = w.tile l := rfl
@[simp] theorem World.setRegion_get_channel (w : World) (r l : Nat) (x : Region) : (w.setRegion r x).channel l = w.channel l := rfl
@[simp] theorem World.setRegion_get_chain (w : World) (r l : Nat) (x : Region) : (w.setRegion r x).chain l = w.chain l := rfl
@[simp] theorem World.setRegion_get_unit (w : World) (r l : Nat) (x : Region) : (w.setRegion r x).unit l = w.unit l := rfl
@[simp] theorem World.setRegion_get_node (w : World) (r l : Nat) (x : Region) : (w.setRegion r x).node l = w.node l := rfl
@[simp] theorem World.setRegion_get_range (w : World) (r l : Nat) (x : Region) : (w.setRegion r x).range l = w.range l := rfl

/-! ### World.setStream -/

@[simp] theorem World.setStream_mem (w : World) (k : Nat) (x : Stream) : (w.setStream k x).mem = w.mem := rfl
@[simp] theorem World.setStream_poison (w : World) (k : Nat) (x : Stream) : (w.setStream k x).poison = w.poison := rfl
@[simp] theorem World.setStream_badMeta (w : World) (k : Nat) (x : Stream) : (w.setStream k x).badMeta = w.badMeta := rfl
@[simp] theorem World.setStream_cycle (w : World) (k : Nat) (x : Stream) : (w.setStream k x).cycle = w.cycle := rfl
@[simp] theorem World.setStream_fresh (w : World) (k : Nat) (x : Stream) : (w.setStream k x).fresh = w.fresh := rfl
@[simp] theorem World.setStream_cache (w : World) (k : Nat) (x : Stream) : (w.setStream k x).cache = w.cache := rfl
@[simp] theorem World.setStream_threads (w : World) (k : Nat) (x : Stream) : (w.setStream k x).threads = w.threads := rfl
@[simp] theorem World.setStream_cores (w : World) (k : Nat) (x : Stream) : (w.setStream k x).cores = w.cores := rfl
@[simp] theorem World.setStream_dies (w : World) (k : Nat) (x : Stream) : (w.setStream k x).dies = w.dies := rfl
@[simp] theorem World.setStream_pbr (w : World) (k : Nat) (x : Stream) : (w.setStream k x).pbr = w.pbr := rfl
@[simp] theorem World.setStream_queues (w : World) (k : Nat) (x : Stream) : (w.setStream k x).queues = w.queues := rfl
@[simp] theorem World.setStream_units (w : World) (k : Nat) (x : Stream) : (w.setStream k x).units = w.units := rfl
@[simp] theorem World.setStream_chains (w : World) (k : Nat) (x : Stream) : (w.setStream k x).chains = w.chains := rfl
@[simp] theorem World.setStream_tasks (w : World) (k : Nat) (x : Stream) : (w.setStream k x).tasks = w.tasks := rfl
@[simp] theorem World.setStream_nodes (w : World) (k : Nat) (x : Stream) : (w.setStream k x).nodes = w.nodes := rfl
@[simp] theorem World.setStream_moduleNode (w : World) (k : Nat) (x : Stream) : (w.setStream k x).moduleNode = w.moduleNode := rfl
@[simp] theorem World.setStream_ranges (w : World) (k : Nat) (x : Stream) : (w.setStream k x).ranges = w.ranges := rfl
@[simp] theorem World.setStream_elems (w : World) (k : Nat) (x : Stream) : (w.setStream k x).elems = w.elems := rfl
@[simp] theorem World.setStream_regions (w : World) (k : Nat) (x : Stream) : (w.setStream k x).regions = w.regions := rfl
@[simp] theorem World.setStream_streams (w : World) (k : Nat) (x : Stream) : (w.setStream k x).streams = tabSet k x w.streams := rfl
@[simp] theorem World.setStream_matrices (w : World) (k : Nat) (x : Stream) : (w.setStream k x).matrices = w.matrices := rfl
@[simp] theorem World.setStream_sluices (w : World) (k : Nat) (x : Stream) : (w.setStream k x).sluices = w.sluices := rfl
@[simp] theorem World.setStream_tiles (w : World) (k : Nat) (x : Stream) : (w.setStream k x).tiles = w.tiles := rfl
@[simp] theorem World.setStream_channels (w : World) (k : Nat) (x : Stream) : (w.setStream k x).channels = w.channels := rfl
@[simp] theorem World.setStream_slotsOp (w : World) (k : Nat) (x : Stream) : (w.setStream k x).slotsOp = w.slotsOp := rfl
@[simp] theorem World.setStream_cmdSeq (w : World) (k : Nat) (x : Stream) : (w.setStream k x).cmdSeq = w.cmdSeq := rfl
@[simp] theorem World.setStream_sectors (w : World) (k : Nat) (x : Stream) : (w.setStream k x).sectors = w.sectors := rfl
@[simp] theorem World.setStream_sessions (w : World) (k : Nat) (x : Stream) : (w.setStream k x).sessions = w.sessions := rfl
@[simp] theorem World.setStream_engines (w : World) (k : Nat) (x : Stream) : (w.setStream k x).engines = w.engines := rfl
@[simp] theorem World.setStream_scq (w : World) (k : Nat) (x : Stream) : (w.setStream k x).scq = w.scq := rfl
@[simp] theorem World.setStream_sides (w : World) (k : Nat) (x : Stream) : (w.setStream k x).sides = w.sides := rfl
@[simp] theorem World.setStream_periods (w : World) (k : Nat) (x : Stream) : (w.setStream k x).periods = w.periods := rfl
@[simp] theorem World.setStream_msix (w : World) (k : Nat) (x : Stream) : (w.setStream k x).msix = w.msix := rfl
@[simp] theorem World.setStream_owed (w : World) (k : Nat) (x : Stream) : (w.setStream k x).owed = w.owed := rfl
@[simp] theorem World.setStream_jibor (w : World) (k : Nat) (x : Stream) : (w.setStream k x).jibor = w.jibor := rfl
@[simp] theorem World.setStream_dead (w : World) (k : Nat) (x : Stream) : (w.setStream k x).dead = w.dead := rfl
@[simp] theorem World.setStream_get_thread (w : World) (k l : Nat) (x : Stream) : (w.setStream k x).thread l = w.thread l := rfl
@[simp] theorem World.setStream_get_elem (w : World) (k l : Nat) (x : Stream) : (w.setStream k x).elem l = w.elem l := rfl
@[simp] theorem World.setStream_get_region (w : World) (k l : Nat) (x : Stream) : (w.setStream k x).region l = w.region l := rfl
@[simp] theorem World.setStream_stream_same (w : World) (k : Nat) (x : Stream) : (w.setStream k x).stream k = x := tabGet_tabSet_same ..
theorem World.setStream_stream_other (w : World) {k l : Nat} (h : l ≠ k) (x : Stream) : (w.setStream k x).stream l = w.stream l := tabGet_tabSet_other _ _ h _
@[simp] theorem World.setStream_get_core (w : World) (k l : Nat) (x : Stream) : (w.setStream k x).core l = w.core l := rfl
@[simp] theorem World.setStream_get_die (w : World) (k l : Nat) (x : Stream) : (w.setStream k x).die l = w.die l := rfl
@[simp] theorem World.setStream_get_queue (w : World) (k l : Nat) (x : Stream) : (w.setStream k x).queue l = w.queue l := rfl
@[simp] theorem World.setStream_get_sluice (w : World) (k l : Nat) (x : Stream) : (w.setStream k x).sluice l = w.sluice l := rfl
@[simp] theorem World.setStream_get_slotOp (w : World) (k l : Nat) (x : Stream) : (w.setStream k x).slotOp l = w.slotOp l := rfl
@[simp] theorem World.setStream_get_matrix (w : World) (k l : Nat) (x : Stream) : (w.setStream k x).matrix l = w.matrix l := rfl
@[simp] theorem World.setStream_get_tile (w : World) (k l : Nat) (x : Stream) : (w.setStream k x).tile l = w.tile l := rfl
@[simp] theorem World.setStream_get_channel (w : World) (k l : Nat) (x : Stream) : (w.setStream k x).channel l = w.channel l := rfl
@[simp] theorem World.setStream_get_chain (w : World) (k l : Nat) (x : Stream) : (w.setStream k x).chain l = w.chain l := rfl
@[simp] theorem World.setStream_get_unit (w : World) (k l : Nat) (x : Stream) : (w.setStream k x).unit l = w.unit l := rfl
@[simp] theorem World.setStream_get_node (w : World) (k l : Nat) (x : Stream) : (w.setStream k x).node l = w.node l := rfl
@[simp] theorem World.setStream_get_range (w : World) (k l : Nat) (x : Stream) : (w.setStream k x).range l = w.range l := rfl

/-! ### World.setCore -/

@[simp] theorem World.setCore_mem (w : World) (c : Nat) (x : Core) : (w.setCore c x).mem = w.mem := rfl
@[simp] theorem World.setCore_poison (w : World) (c : Nat) (x : Core) : (w.setCore c x).poison = w.poison := rfl
@[simp] theorem World.setCore_badMeta (w : World) (c : Nat) (x : Core) : (w.setCore c x).badMeta = w.badMeta := rfl
@[simp] theorem World.setCore_cycle (w : World) (c : Nat) (x : Core) : (w.setCore c x).cycle = w.cycle := rfl
@[simp] theorem World.setCore_fresh (w : World) (c : Nat) (x : Core) : (w.setCore c x).fresh = w.fresh := rfl
@[simp] theorem World.setCore_cache (w : World) (c : Nat) (x : Core) : (w.setCore c x).cache = w.cache := rfl
@[simp] theorem World.setCore_threads (w : World) (c : Nat) (x : Core) : (w.setCore c x).threads = w.threads := rfl
@[simp] theorem World.setCore_cores (w : World) (c : Nat) (x : Core) : (w.setCore c x).cores = tabSet c x w.cores := rfl
@[simp] theorem World.setCore_dies (w : World) (c : Nat) (x : Core) : (w.setCore c x).dies = w.dies := rfl
@[simp] theorem World.setCore_pbr (w : World) (c : Nat) (x : Core) : (w.setCore c x).pbr = w.pbr := rfl
@[simp] theorem World.setCore_queues (w : World) (c : Nat) (x : Core) : (w.setCore c x).queues = w.queues := rfl
@[simp] theorem World.setCore_units (w : World) (c : Nat) (x : Core) : (w.setCore c x).units = w.units := rfl
@[simp] theorem World.setCore_chains (w : World) (c : Nat) (x : Core) : (w.setCore c x).chains = w.chains := rfl
@[simp] theorem World.setCore_tasks (w : World) (c : Nat) (x : Core) : (w.setCore c x).tasks = w.tasks := rfl
@[simp] theorem World.setCore_nodes (w : World) (c : Nat) (x : Core) : (w.setCore c x).nodes = w.nodes := rfl
@[simp] theorem World.setCore_moduleNode (w : World) (c : Nat) (x : Core) : (w.setCore c x).moduleNode = w.moduleNode := rfl
@[simp] theorem World.setCore_ranges (w : World) (c : Nat) (x : Core) : (w.setCore c x).ranges = w.ranges := rfl
@[simp] theorem World.setCore_elems (w : World) (c : Nat) (x : Core) : (w.setCore c x).elems = w.elems := rfl
@[simp] theorem World.setCore_regions (w : World) (c : Nat) (x : Core) : (w.setCore c x).regions = w.regions := rfl
@[simp] theorem World.setCore_streams (w : World) (c : Nat) (x : Core) : (w.setCore c x).streams = w.streams := rfl
@[simp] theorem World.setCore_matrices (w : World) (c : Nat) (x : Core) : (w.setCore c x).matrices = w.matrices := rfl
@[simp] theorem World.setCore_sluices (w : World) (c : Nat) (x : Core) : (w.setCore c x).sluices = w.sluices := rfl
@[simp] theorem World.setCore_tiles (w : World) (c : Nat) (x : Core) : (w.setCore c x).tiles = w.tiles := rfl
@[simp] theorem World.setCore_channels (w : World) (c : Nat) (x : Core) : (w.setCore c x).channels = w.channels := rfl
@[simp] theorem World.setCore_slotsOp (w : World) (c : Nat) (x : Core) : (w.setCore c x).slotsOp = w.slotsOp := rfl
@[simp] theorem World.setCore_cmdSeq (w : World) (c : Nat) (x : Core) : (w.setCore c x).cmdSeq = w.cmdSeq := rfl
@[simp] theorem World.setCore_sectors (w : World) (c : Nat) (x : Core) : (w.setCore c x).sectors = w.sectors := rfl
@[simp] theorem World.setCore_sessions (w : World) (c : Nat) (x : Core) : (w.setCore c x).sessions = w.sessions := rfl
@[simp] theorem World.setCore_engines (w : World) (c : Nat) (x : Core) : (w.setCore c x).engines = w.engines := rfl
@[simp] theorem World.setCore_scq (w : World) (c : Nat) (x : Core) : (w.setCore c x).scq = w.scq := rfl
@[simp] theorem World.setCore_sides (w : World) (c : Nat) (x : Core) : (w.setCore c x).sides = w.sides := rfl
@[simp] theorem World.setCore_periods (w : World) (c : Nat) (x : Core) : (w.setCore c x).periods = w.periods := rfl
@[simp] theorem World.setCore_msix (w : World) (c : Nat) (x : Core) : (w.setCore c x).msix = w.msix := rfl
@[simp] theorem World.setCore_owed (w : World) (c : Nat) (x : Core) : (w.setCore c x).owed = w.owed := rfl
@[simp] theorem World.setCore_jibor (w : World) (c : Nat) (x : Core) : (w.setCore c x).jibor = w.jibor := rfl
@[simp] theorem World.setCore_dead (w : World) (c : Nat) (x : Core) : (w.setCore c x).dead = w.dead := rfl
@[simp] theorem World.setCore_get_thread (w : World) (c l : Nat) (x : Core) : (w.setCore c x).thread l = w.thread l := rfl
@[simp] theorem World.setCore_get_elem (w : World) (c l : Nat) (x : Core) : (w.setCore c x).elem l = w.elem l := rfl
@[simp] theorem World.setCore_get_region (w : World) (c l : Nat) (x : Core) : (w.setCore c x).region l = w.region l := rfl
@[simp] theorem World.setCore_get_stream (w : World) (c l : Nat) (x : Core) : (w.setCore c x).stream l = w.stream l := rfl
@[simp] theorem World.setCore_core_same (w : World) (c : Nat) (x : Core) : (w.setCore c x).core c = x := tabGet_tabSet_same ..
theorem World.setCore_core_other (w : World) {c l : Nat} (h : l ≠ c) (x : Core) : (w.setCore c x).core l = w.core l := tabGet_tabSet_other _ _ h _
@[simp] theorem World.setCore_get_die (w : World) (c l : Nat) (x : Core) : (w.setCore c x).die l = w.die l := rfl
@[simp] theorem World.setCore_get_queue (w : World) (c l : Nat) (x : Core) : (w.setCore c x).queue l = w.queue l := rfl
@[simp] theorem World.setCore_get_sluice (w : World) (c l : Nat) (x : Core) : (w.setCore c x).sluice l = w.sluice l := rfl
@[simp] theorem World.setCore_get_slotOp (w : World) (c l : Nat) (x : Core) : (w.setCore c x).slotOp l = w.slotOp l := rfl
@[simp] theorem World.setCore_get_matrix (w : World) (c l : Nat) (x : Core) : (w.setCore c x).matrix l = w.matrix l := rfl
@[simp] theorem World.setCore_get_tile (w : World) (c l : Nat) (x : Core) : (w.setCore c x).tile l = w.tile l := rfl
@[simp] theorem World.setCore_get_channel (w : World) (c l : Nat) (x : Core) : (w.setCore c x).channel l = w.channel l := rfl
@[simp] theorem World.setCore_get_chain (w : World) (c l : Nat) (x : Core) : (w.setCore c x).chain l = w.chain l := rfl
@[simp] theorem World.setCore_get_unit (w : World) (c l : Nat) (x : Core) : (w.setCore c x).unit l = w.unit l := rfl
@[simp] theorem World.setCore_get_node (w : World) (c l : Nat) (x : Core) : (w.setCore c x).node l = w.node l := rfl
@[simp] theorem World.setCore_get_range (w : World) (c l : Nat) (x : Core) : (w.setCore c x).range l = w.range l := rfl

/-! ### World.setDie -/

@[simp] theorem World.setDie_mem (w : World) (d : Nat) (x : Die) : (w.setDie d x).mem = w.mem := rfl
@[simp] theorem World.setDie_poison (w : World) (d : Nat) (x : Die) : (w.setDie d x).poison = w.poison := rfl
@[simp] theorem World.setDie_badMeta (w : World) (d : Nat) (x : Die) : (w.setDie d x).badMeta = w.badMeta := rfl
@[simp] theorem World.setDie_cycle (w : World) (d : Nat) (x : Die) : (w.setDie d x).cycle = w.cycle := rfl
@[simp] theorem World.setDie_fresh (w : World) (d : Nat) (x : Die) : (w.setDie d x).fresh = w.fresh := rfl
@[simp] theorem World.setDie_cache (w : World) (d : Nat) (x : Die) : (w.setDie d x).cache = w.cache := rfl
@[simp] theorem World.setDie_threads (w : World) (d : Nat) (x : Die) : (w.setDie d x).threads = w.threads := rfl
@[simp] theorem World.setDie_cores (w : World) (d : Nat) (x : Die) : (w.setDie d x).cores = w.cores := rfl
@[simp] theorem World.setDie_dies (w : World) (d : Nat) (x : Die) : (w.setDie d x).dies = tabSet d x w.dies := rfl
@[simp] theorem World.setDie_pbr (w : World) (d : Nat) (x : Die) : (w.setDie d x).pbr = w.pbr := rfl
@[simp] theorem World.setDie_queues (w : World) (d : Nat) (x : Die) : (w.setDie d x).queues = w.queues := rfl
@[simp] theorem World.setDie_units (w : World) (d : Nat) (x : Die) : (w.setDie d x).units = w.units := rfl
@[simp] theorem World.setDie_chains (w : World) (d : Nat) (x : Die) : (w.setDie d x).chains = w.chains := rfl
@[simp] theorem World.setDie_tasks (w : World) (d : Nat) (x : Die) : (w.setDie d x).tasks = w.tasks := rfl
@[simp] theorem World.setDie_nodes (w : World) (d : Nat) (x : Die) : (w.setDie d x).nodes = w.nodes := rfl
@[simp] theorem World.setDie_moduleNode (w : World) (d : Nat) (x : Die) : (w.setDie d x).moduleNode = w.moduleNode := rfl
@[simp] theorem World.setDie_ranges (w : World) (d : Nat) (x : Die) : (w.setDie d x).ranges = w.ranges := rfl
@[simp] theorem World.setDie_elems (w : World) (d : Nat) (x : Die) : (w.setDie d x).elems = w.elems := rfl
@[simp] theorem World.setDie_regions (w : World) (d : Nat) (x : Die) : (w.setDie d x).regions = w.regions := rfl
@[simp] theorem World.setDie_streams (w : World) (d : Nat) (x : Die) : (w.setDie d x).streams = w.streams := rfl
@[simp] theorem World.setDie_matrices (w : World) (d : Nat) (x : Die) : (w.setDie d x).matrices = w.matrices := rfl
@[simp] theorem World.setDie_sluices (w : World) (d : Nat) (x : Die) : (w.setDie d x).sluices = w.sluices := rfl
@[simp] theorem World.setDie_tiles (w : World) (d : Nat) (x : Die) : (w.setDie d x).tiles = w.tiles := rfl
@[simp] theorem World.setDie_channels (w : World) (d : Nat) (x : Die) : (w.setDie d x).channels = w.channels := rfl
@[simp] theorem World.setDie_slotsOp (w : World) (d : Nat) (x : Die) : (w.setDie d x).slotsOp = w.slotsOp := rfl
@[simp] theorem World.setDie_cmdSeq (w : World) (d : Nat) (x : Die) : (w.setDie d x).cmdSeq = w.cmdSeq := rfl
@[simp] theorem World.setDie_sectors (w : World) (d : Nat) (x : Die) : (w.setDie d x).sectors = w.sectors := rfl
@[simp] theorem World.setDie_sessions (w : World) (d : Nat) (x : Die) : (w.setDie d x).sessions = w.sessions := rfl
@[simp] theorem World.setDie_engines (w : World) (d : Nat) (x : Die) : (w.setDie d x).engines = w.engines := rfl
@[simp] theorem World.setDie_scq (w : World) (d : Nat) (x : Die) : (w.setDie d x).scq = w.scq := rfl
@[simp] theorem World.setDie_sides (w : World) (d : Nat) (x : Die) : (w.setDie d x).sides = w.sides := rfl
@[simp] theorem World.setDie_periods (w : World) (d : Nat) (x : Die) : (w.setDie d x).periods = w.periods := rfl
@[simp] theorem World.setDie_msix (w : World) (d : Nat) (x : Die) : (w.setDie d x).msix = w.msix := rfl
@[simp] theorem World.setDie_owed (w : World) (d : Nat) (x : Die) : (w.setDie d x).owed = w.owed := rfl
@[simp] theorem World.setDie_jibor (w : World) (d : Nat) (x : Die) : (w.setDie d x).jibor = w.jibor := rfl
@[simp] theorem World.setDie_dead (w : World) (d : Nat) (x : Die) : (w.setDie d x).dead = w.dead := rfl
@[simp] theorem World.setDie_get_thread (w : World) (d l : Nat) (x : Die) : (w.setDie d x).thread l = w.thread l := rfl
@[simp] theorem World.setDie_get_elem (w : World) (d l : Nat) (x : Die) : (w.setDie d x).elem l = w.elem l := rfl
@[simp] theorem World.setDie_get_region (w : World) (d l : Nat) (x : Die) : (w.setDie d x).region l = w.region l := rfl
@[simp] theorem World.setDie_get_stream (w : World) (d l : Nat) (x : Die) : (w.setDie d x).stream l = w.stream l := rfl
@[simp] theorem World.setDie_get_core (w : World) (d l : Nat) (x : Die) : (w.setDie d x).core l = w.core l := rfl
@[simp] theorem World.setDie_die_same (w : World) (d : Nat) (x : Die) : (w.setDie d x).die d = x := tabGet_tabSet_same ..
theorem World.setDie_die_other (w : World) {d l : Nat} (h : l ≠ d) (x : Die) : (w.setDie d x).die l = w.die l := tabGet_tabSet_other _ _ h _
@[simp] theorem World.setDie_get_queue (w : World) (d l : Nat) (x : Die) : (w.setDie d x).queue l = w.queue l := rfl
@[simp] theorem World.setDie_get_sluice (w : World) (d l : Nat) (x : Die) : (w.setDie d x).sluice l = w.sluice l := rfl
@[simp] theorem World.setDie_get_slotOp (w : World) (d l : Nat) (x : Die) : (w.setDie d x).slotOp l = w.slotOp l := rfl
@[simp] theorem World.setDie_get_matrix (w : World) (d l : Nat) (x : Die) : (w.setDie d x).matrix l = w.matrix l := rfl
@[simp] theorem World.setDie_get_tile (w : World) (d l : Nat) (x : Die) : (w.setDie d x).tile l = w.tile l := rfl
@[simp] theorem World.setDie_get_channel (w : World) (d l : Nat) (x : Die) : (w.setDie d x).channel l = w.channel l := rfl
@[simp] theorem World.setDie_get_chain (w : World) (d l : Nat) (x : Die) : (w.setDie d x).chain l = w.chain l := rfl
@[simp] theorem World.setDie_get_unit (w : World) (d l : Nat) (x : Die) : (w.setDie d x).unit l = w.unit l := rfl
@[simp] theorem World.setDie_get_node (w : World) (d l : Nat) (x : Die) : (w.setDie d x).node l = w.node l := rfl
@[simp] theorem World.setDie_get_range (w : World) (d l : Nat) (x : Die) : (w.setDie d x).range l = w.range l := rfl

/-! ### World.setQueue -/

@[simp] theorem World.setQueue_mem (w : World) (q : Nat) (x : Queue) : (w.setQueue q x).mem = w.mem := rfl
@[simp] theorem World.setQueue_poison (w : World) (q : Nat) (x : Queue) : (w.setQueue q x).poison = w.poison := rfl
@[simp] theorem World.setQueue_badMeta (w : World) (q : Nat) (x : Queue) : (w.setQueue q x).badMeta = w.badMeta := rfl
@[simp] theorem World.setQueue_cycle (w : World) (q : Nat) (x : Queue) : (w.setQueue q x).cycle = w.cycle := rfl
@[simp] theorem World.setQueue_fresh (w : World) (q : Nat) (x : Queue) : (w.setQueue q x).fresh = w.fresh := rfl
@[simp] theorem World.setQueue_cache (w : World) (q : Nat) (x : Queue) : (w.setQueue q x).cache = w.cache := rfl
@[simp] theorem World.setQueue_threads (w : World) (q : Nat) (x : Queue) : (w.setQueue q x).threads = w.threads := rfl
@[simp] theorem World.setQueue_cores (w : World) (q : Nat) (x : Queue) : (w.setQueue q x).cores = w.cores := rfl
@[simp] theorem World.setQueue_dies (w : World) (q : Nat) (x : Queue) : (w.setQueue q x).dies = w.dies := rfl
@[simp] theorem World.setQueue_pbr (w : World) (q : Nat) (x : Queue) : (w.setQueue q x).pbr = w.pbr := rfl
@[simp] theorem World.setQueue_queues (w : World) (q : Nat) (x : Queue) : (w.setQueue q x).queues = tabSet q x w.queues := rfl
@[simp] theorem World.setQueue_units (w : World) (q : Nat) (x : Queue) : (w.setQueue q x).units = w.units := rfl
@[simp] theorem World.setQueue_chains (w : World) (q : Nat) (x : Queue) : (w.setQueue q x).chains = w.chains := rfl
@[simp] theorem World.setQueue_tasks (w : World) (q : Nat) (x : Queue) : (w.setQueue q x).tasks = w.tasks := rfl
@[simp] theorem World.setQueue_nodes (w : World) (q : Nat) (x : Queue) : (w.setQueue q x).nodes = w.nodes := rfl
@[simp] theorem World.setQueue_moduleNode (w : World) (q : Nat) (x : Queue) : (w.setQueue q x).moduleNode = w.moduleNode := rfl
@[simp] theorem World.setQueue_ranges (w : World) (q : Nat) (x : Queue) : (w.setQueue q x).ranges = w.ranges := rfl
@[simp] theorem World.setQueue_elems (w : World) (q : Nat) (x : Queue) : (w.setQueue q x).elems = w.elems := rfl
@[simp] theorem World.setQueue_regions (w : World) (q : Nat) (x : Queue) : (w.setQueue q x).regions = w.regions := rfl
@[simp] theorem World.setQueue_streams (w : World) (q : Nat) (x : Queue) : (w.setQueue q x).streams = w.streams := rfl
@[simp] theorem World.setQueue_matrices (w : World) (q : Nat) (x : Queue) : (w.setQueue q x).matrices = w.matrices := rfl
@[simp] theorem World.setQueue_sluices (w : World) (q : Nat) (x : Queue) : (w.setQueue q x).sluices = w.sluices := rfl
@[simp] theorem World.setQueue_tiles (w : World) (q : Nat) (x : Queue) : (w.setQueue q x).tiles = w.tiles := rfl
@[simp] theorem World.setQueue_channels (w : World) (q : Nat) (x : Queue) : (w.setQueue q x).channels = w.channels := rfl
@[simp] theorem World.setQueue_slotsOp (w : World) (q : Nat) (x : Queue) : (w.setQueue q x).slotsOp = w.slotsOp := rfl
@[simp] theorem World.setQueue_cmdSeq (w : World) (q : Nat) (x : Queue) : (w.setQueue q x).cmdSeq = w.cmdSeq := rfl
@[simp] theorem World.setQueue_sectors (w : World) (q : Nat) (x : Queue) : (w.setQueue q x).sectors = w.sectors := rfl
@[simp] theorem World.setQueue_sessions (w : World) (q : Nat) (x : Queue) : (w.setQueue q x).sessions = w.sessions := rfl
@[simp] theorem World.setQueue_engines (w : World) (q : Nat) (x : Queue) : (w.setQueue q x).engines = w.engines := rfl
@[simp] theorem World.setQueue_scq (w : World) (q : Nat) (x : Queue) : (w.setQueue q x).scq = w.scq := rfl
@[simp] theorem World.setQueue_sides (w : World) (q : Nat) (x : Queue) : (w.setQueue q x).sides = w.sides := rfl
@[simp] theorem World.setQueue_periods (w : World) (q : Nat) (x : Queue) : (w.setQueue q x).periods = w.periods := rfl
@[simp] theorem World.setQueue_msix (w : World) (q : Nat) (x : Queue) : (w.setQueue q x).msix = w.msix := rfl
@[simp] theorem World.setQueue_owed (w : World) (q : Nat) (x : Queue) : (w.setQueue q x).owed = w.owed := rfl
@[simp] theorem World.setQueue_jibor (w : World) (q : Nat) (x : Queue) : (w.setQueue q x).jibor = w.jibor := rfl
@[simp] theorem World.setQueue_dead (w : World) (q : Nat) (x : Queue) : (w.setQueue q x).dead = w.dead := rfl
@[simp] theorem World.setQueue_get_thread (w : World) (q l : Nat) (x : Queue) : (w.setQueue q x).thread l = w.thread l := rfl
@[simp] theorem World.setQueue_get_elem (w : World) (q l : Nat) (x : Queue) : (w.setQueue q x).elem l = w.elem l := rfl
@[simp] theorem World.setQueue_get_region (w : World) (q l : Nat) (x : Queue) : (w.setQueue q x).region l = w.region l := rfl
@[simp] theorem World.setQueue_get_stream (w : World) (q l : Nat) (x : Queue) : (w.setQueue q x).stream l = w.stream l := rfl
@[simp] theorem World.setQueue_get_core (w : World) (q l : Nat) (x : Queue) : (w.setQueue q x).core l = w.core l := rfl
@[simp] theorem World.setQueue_get_die (w : World) (q l : Nat) (x : Queue) : (w.setQueue q x).die l = w.die l := rfl
@[simp] theorem World.setQueue_queue_same (w : World) (q : Nat) (x : Queue) : (w.setQueue q x).queue q = x := tabGet_tabSet_same ..
theorem World.setQueue_queue_other (w : World) {q l : Nat} (h : l ≠ q) (x : Queue) : (w.setQueue q x).queue l = w.queue l := tabGet_tabSet_other _ _ h _
@[simp] theorem World.setQueue_get_sluice (w : World) (q l : Nat) (x : Queue) : (w.setQueue q x).sluice l = w.sluice l := rfl
@[simp] theorem World.setQueue_get_slotOp (w : World) (q l : Nat) (x : Queue) : (w.setQueue q x).slotOp l = w.slotOp l := rfl
@[simp] theorem World.setQueue_get_matrix (w : World) (q l : Nat) (x : Queue) : (w.setQueue q x).matrix l = w.matrix l := rfl
@[simp] theorem World.setQueue_get_tile (w : World) (q l : Nat) (x : Queue) : (w.setQueue q x).tile l = w.tile l := rfl
@[simp] theorem World.setQueue_get_channel (w : World) (q l : Nat) (x : Queue) : (w.setQueue q x).channel l = w.channel l := rfl
@[simp] theorem World.setQueue_get_chain (w : World) (q l : Nat) (x : Queue) : (w.setQueue q x).chain l = w.chain l := rfl
@[simp] theorem World.setQueue_get_unit (w : World) (q l : Nat) (x : Queue) : (w.setQueue q x).unit l = w.unit l := rfl
@[simp] theorem World.setQueue_get_node (w : World) (q l : Nat) (x : Queue) : (w.setQueue q x).node l = w.node l := rfl
@[simp] theorem World.setQueue_get_range (w : World) (q l : Nat) (x : Queue) : (w.setQueue q x).range l = w.range l := rfl

/-! ### World.setSluice -/

@[simp] theorem World.setSluice_mem (w : World) (c : Nat) (x : Sluice) : (w.setSluice c x).mem = w.mem := rfl
@[simp] theorem World.setSluice_poison (w : World) (c : Nat) (x : Sluice) : (w.setSluice c x).poison = w.poison := rfl
@[simp] theorem World.setSluice_badMeta (w : World) (c : Nat) (x : Sluice) : (w.setSluice c x).badMeta = w.badMeta := rfl
@[simp] theorem World.setSluice_cycle (w : World) (c : Nat) (x : Sluice) : (w.setSluice c x).cycle = w.cycle := rfl
@[simp] theorem World.setSluice_fresh (w : World) (c : Nat) (x : Sluice) : (w.setSluice c x).fresh = w.fresh := rfl
@[simp] theorem World.setSluice_cache (w : World) (c : Nat) (x : Sluice) : (w.setSluice c x).cache = w.cache := rfl
@[simp] theorem World.setSluice_threads (w : World) (c : Nat) (x : Sluice) : (w.setSluice c x).threads = w.threads := rfl
@[simp] theorem World.setSluice_cores (w : World) (c : Nat) (x : Sluice) : (w.setSluice c x).cores = w.cores := rfl
@[simp] theorem World.setSluice_dies (w : World) (c : Nat) (x : Sluice) : (w.setSluice c x).dies = w.dies := rfl
@[simp] theorem World.setSluice_pbr (w : World) (c : Nat) (x : Sluice) : (w.setSluice c x).pbr = w.pbr := rfl
@[simp] theorem World.setSluice_queues (w : World) (c : Nat) (x : Sluice) : (w.setSluice c x).queues = w.queues := rfl
@[simp] theorem World.setSluice_units (w : World) (c : Nat) (x : Sluice) : (w.setSluice c x).units = w.units := rfl
@[simp] theorem World.setSluice_chains (w : World) (c : Nat) (x : Sluice) : (w.setSluice c x).chains = w.chains := rfl
@[simp] theorem World.setSluice_tasks (w : World) (c : Nat) (x : Sluice) : (w.setSluice c x).tasks = w.tasks := rfl
@[simp] theorem World.setSluice_nodes (w : World) (c : Nat) (x : Sluice) : (w.setSluice c x).nodes = w.nodes := rfl
@[simp] theorem World.setSluice_moduleNode (w : World) (c : Nat) (x : Sluice) : (w.setSluice c x).moduleNode = w.moduleNode := rfl
@[simp] theorem World.setSluice_ranges (w : World) (c : Nat) (x : Sluice) : (w.setSluice c x).ranges = w.ranges := rfl
@[simp] theorem World.setSluice_elems (w : World) (c : Nat) (x : Sluice) : (w.setSluice c x).elems = w.elems := rfl
@[simp] theorem World.setSluice_regions (w : World) (c : Nat) (x : Sluice) : (w.setSluice c x).regions = w.regions := rfl
@[simp] theorem World.setSluice_streams (w : World) (c : Nat) (x : Sluice) : (w.setSluice c x).streams = w.streams := rfl
@[simp] theorem World.setSluice_matrices (w : World) (c : Nat) (x : Sluice) : (w.setSluice c x).matrices = w.matrices := rfl
@[simp] theorem World.setSluice_sluices (w : World) (c : Nat) (x : Sluice) : (w.setSluice c x).sluices = tabSet c x w.sluices := rfl
@[simp] theorem World.setSluice_tiles (w : World) (c : Nat) (x : Sluice) : (w.setSluice c x).tiles = w.tiles := rfl
@[simp] theorem World.setSluice_channels (w : World) (c : Nat) (x : Sluice) : (w.setSluice c x).channels = w.channels := rfl
@[simp] theorem World.setSluice_slotsOp (w : World) (c : Nat) (x : Sluice) : (w.setSluice c x).slotsOp = w.slotsOp := rfl
@[simp] theorem World.setSluice_cmdSeq (w : World) (c : Nat) (x : Sluice) : (w.setSluice c x).cmdSeq = w.cmdSeq := rfl
@[simp] theorem World.setSluice_sectors (w : World) (c : Nat) (x : Sluice) : (w.setSluice c x).sectors = w.sectors := rfl
@[simp] theorem World.setSluice_sessions (w : World) (c : Nat) (x : Sluice) : (w.setSluice c x).sessions = w.sessions := rfl
@[simp] theorem World.setSluice_engines (w : World) (c : Nat) (x : Sluice) : (w.setSluice c x).engines = w.engines := rfl
@[simp] theorem World.setSluice_scq (w : World) (c : Nat) (x : Sluice) : (w.setSluice c x).scq = w.scq := rfl
@[simp] theorem World.setSluice_sides (w : World) (c : Nat) (x : Sluice) : (w.setSluice c x).sides = w.sides := rfl
@[simp] theorem World.setSluice_periods (w : World) (c : Nat) (x : Sluice) : (w.setSluice c x).periods = w.periods := rfl
@[simp] theorem World.setSluice_msix (w : World) (c : Nat) (x : Sluice) : (w.setSluice c x).msix = w.msix := rfl
@[simp] theorem World.setSluice_owed (w : World) (c : Nat) (x : Sluice) : (w.setSluice c x).owed = w.owed := rfl
@[simp] theorem World.setSluice_jibor (w : World) (c : Nat) (x : Sluice) : (w.setSluice c x).jibor = w.jibor := rfl
@[simp] theorem World.setSluice_dead (w : World) (c : Nat) (x : Sluice) : (w.setSluice c x).dead = w.dead := rfl
@[simp] theorem World.setSluice_get_thread (w : World) (c l : Nat) (x : Sluice) : (w.setSluice c x).thread l = w.thread l := rfl
@[simp] theorem World.setSluice_get_elem (w : World) (c l : Nat) (x : Sluice) : (w.setSluice c x).elem l = w.elem l := rfl
@[simp] theorem World.setSluice_get_region (w : World) (c l : Nat) (x : Sluice) : (w.setSluice c x).region l = w.region l := rfl
@[simp] theorem World.setSluice_get_stream (w : World) (c l : Nat) (x : Sluice) : (w.setSluice c x).stream l = w.stream l := rfl
@[simp] theorem World.setSluice_get_core (w : World) (c l : Nat) (x : Sluice) : (w.setSluice c x).core l = w.core l := rfl
@[simp] theorem World.setSluice_get_die (w : World) (c l : Nat) (x : Sluice) : (w.setSluice c x).die l = w.die l := rfl
@[simp] theorem World.setSluice_get_queue (w : World) (c l : Nat) (x : Sluice) : (w.setSluice c x).queue l = w.queue l := rfl
@[simp] theorem World.setSluice_sluice_same (w : World) (c : Nat) (x : Sluice) : (w.setSluice c x).sluice c = x := tabGet_tabSet_same ..
theorem World.setSluice_sluice_other (w : World) {c l : Nat} (h : l ≠ c) (x : Sluice) : (w.setSluice c x).sluice l = w.sluice l := tabGet_tabSet_other _ _ h _
@[simp] theorem World.setSluice_get_slotOp (w : World) (c l : Nat) (x : Sluice) : (w.setSluice c x).slotOp l = w.slotOp l := rfl
@[simp] theorem World.setSluice_get_matrix (w : World) (c l : Nat) (x : Sluice) : (w.setSluice c x).matrix l = w.matrix l := rfl
@[simp] theorem World.setSluice_get_tile (w : World) (c l : Nat) (x : Sluice) : (w.setSluice c x).tile l = w.tile l := rfl
@[simp] theorem World.setSluice_get_channel (w : World) (c l : Nat) (x : Sluice) : (w.setSluice c x).channel l = w.channel l := rfl
@[simp] theorem World.setSluice_get_chain (w : World) (c l : Nat) (x : Sluice) : (w.setSluice c x).chain l = w.chain l := rfl
@[simp] theorem World.setSluice_get_unit (w : World) (c l : Nat) (x : Sluice) : (w.setSluice c x).unit l = w.unit l := rfl
@[simp] theorem World.setSluice_get_node (w : World) (c l : Nat) (x : Sluice) : (w.setSluice c x).node l = w.node l := rfl
@[simp] theorem World.setSluice_get_range (w : World) (c l : Nat) (x : Sluice) : (w.setSluice c x).range l = w.range l := rfl

/-! ### World.setSession -/

@[simp] theorem World.setSession_mem (w : World) (n : Nat) (x : Session) : (w.setSession n x).mem = w.mem := rfl
@[simp] theorem World.setSession_poison (w : World) (n : Nat) (x : Session) : (w.setSession n x).poison = w.poison := rfl
@[simp] theorem World.setSession_badMeta (w : World) (n : Nat) (x : Session) : (w.setSession n x).badMeta = w.badMeta := rfl
@[simp] theorem World.setSession_cycle (w : World) (n : Nat) (x : Session) : (w.setSession n x).cycle = w.cycle := rfl
@[simp] theorem World.setSession_fresh (w : World) (n : Nat) (x : Session) : (w.setSession n x).fresh = w.fresh := rfl
@[simp] theorem World.setSession_cache (w : World) (n : Nat) (x : Session) : (w.setSession n x).cache = w.cache := rfl
@[simp] theorem World.setSession_threads (w : World) (n : Nat) (x : Session) : (w.setSession n x).threads = w.threads := rfl
@[simp] theorem World.setSession_cores (w : World) (n : Nat) (x : Session) : (w.setSession n x).cores = w.cores := rfl
@[simp] theorem World.setSession_dies (w : World) (n : Nat) (x : Session) : (w.setSession n x).dies = w.dies := rfl
@[simp] theorem World.setSession_pbr (w : World) (n : Nat) (x : Session) : (w.setSession n x).pbr = w.pbr := rfl
@[simp] theorem World.setSession_queues (w : World) (n : Nat) (x : Session) : (w.setSession n x).queues = w.queues := rfl
@[simp] theorem World.setSession_units (w : World) (n : Nat) (x : Session) : (w.setSession n x).units = w.units := rfl
@[simp] theorem World.setSession_chains (w : World) (n : Nat) (x : Session) : (w.setSession n x).chains = w.chains := rfl
@[simp] theorem World.setSession_tasks (w : World) (n : Nat) (x : Session) : (w.setSession n x).tasks = w.tasks := rfl
@[simp] theorem World.setSession_nodes (w : World) (n : Nat) (x : Session) : (w.setSession n x).nodes = w.nodes := rfl
@[simp] theorem World.setSession_moduleNode (w : World) (n : Nat) (x : Session) : (w.setSession n x).moduleNode = w.moduleNode := rfl
@[simp] theorem World.setSession_ranges (w : World) (n : Nat) (x : Session) : (w.setSession n x).ranges = w.ranges := rfl
@[simp] theorem World.setSession_elems (w : World) (n : Nat) (x : Session) : (w.setSession n x).elems = w.elems := rfl
@[simp] theorem World.setSession_regions (w : World) (n : Nat) (x : Session) : (w.setSession n x).regions = w.regions := rfl
@[simp] theorem World.setSession_streams (w : World) (n : Nat) (x : Session) : (w.setSession n x).streams = w.streams := rfl
@[simp] theorem World.setSession_matrices (w : World) (n : Nat) (x : Session) : (w.setSession n x).matrices = w.matrices := rfl
@[simp] theorem World.setSession_sluices (w : World) (n : Nat) (x : Session) : (w.setSession n x).sluices = w.sluices := rfl
@[simp] theorem World.setSession_tiles (w : World) (n : Nat) (x : Session) : (w.setSession n x).tiles = w.tiles := rfl
@[simp] theorem World.setSession_channels (w : World) (n : Nat) (x : Session) : (w.setSession n x).channels = w.channels := rfl
@[simp] theorem World.setSession_slotsOp (w : World) (n : Nat) (x : Session) : (w.setSession n x).slotsOp = w.slotsOp := rfl
@[simp] theorem World.setSession_cmdSeq (w : World) (n : Nat) (x : Session) : (w.setSession n x).cmdSeq = w.cmdSeq := rfl
@[simp] theorem World.setSession_sectors (w : World) (n : Nat) (x : Session) : (w.setSession n x).sectors = w.sectors := rfl
@[simp] theorem World.setSession_sessions (w : World) (n : Nat) (x : Session) : (w.setSession n x).sessions = tabSet n x w.sessions := rfl
@[simp] theorem World.setSession_engines (w : World) (n : Nat) (x : Session) : (w.setSession n x).engines = w.engines := rfl
@[simp] theorem World.setSession_scq (w : World) (n : Nat) (x : Session) : (w.setSession n x).scq = w.scq := rfl
@[simp] theorem World.setSession_sides (w : World) (n : Nat) (x : Session) : (w.setSession n x).sides = w.sides := rfl
@[simp] theorem World.setSession_periods (w : World) (n : Nat) (x : Session) : (w.setSession n x).periods = w.periods := rfl
@[simp] theorem World.setSession_msix (w : World) (n : Nat) (x : Session) : (w.setSession n x).msix = w.msix := rfl
@[simp] theorem World.setSession_owed (w : World) (n : Nat) (x : Session) : (w.setSession n x).owed = w.owed := rfl
@[simp] theorem World.setSession_jibor (w : World) (n : Nat) (x : Session) : (w.setSession n x).jibor = w.jibor := rfl
@[simp] theorem World.setSession_dead (w : World) (n : Nat) (x : Session) : (w.setSession n x).dead = w.dead := rfl
@[simp] theorem World.setSession_get_thread (w : World) (n l : Nat) (x : Session) : (w.setSession n x).thread l = w.thread l := rfl
@[simp] theorem World.setSession_get_elem (w : World) (n l : Nat) (x : Session) : (w.setSession n x).elem l = w.elem l := rfl
@[simp] theorem World.setSession_get_region (w : World) (n l : Nat) (x : Session) : (w.setSession n x).region l = w.region l := rfl
@[simp] theorem World.setSession_get_stream (w : World) (n l : Nat) (x : Session) : (w.setSession n x).stream l = w.stream l := rfl
@[simp] theorem World.setSession_get_core (w : World) (n l : Nat) (x : Session) : (w.setSession n x).core l = w.core l := rfl
@[simp] theorem World.setSession_get_die (w : World) (n l : Nat) (x : Session) : (w.setSession n x).die l = w.die l := rfl
@[simp] theorem World.setSession_get_queue (w : World) (n l : Nat) (x : Session) : (w.setSession n x).queue l = w.queue l := rfl
@[simp] theorem World.setSession_get_sluice (w : World) (n l : Nat) (x : Session) : (w.setSession n x).sluice l = w.sluice l := rfl
@[simp] theorem World.setSession_get_slotOp (w : World) (n l : Nat) (x : Session) : (w.setSession n x).slotOp l = w.slotOp l := rfl
@[simp] theorem World.setSession_get_matrix (w : World) (n l : Nat) (x : Session) : (w.setSession n x).matrix l = w.matrix l := rfl
@[simp] theorem World.setSession_get_tile (w : World) (n l : Nat) (x : Session) : (w.setSession n x).tile l = w.tile l := rfl
@[simp] theorem World.setSession_get_channel (w : World) (n l : Nat) (x : Session) : (w.setSession n x).channel l = w.channel l := rfl
@[simp] theorem World.setSession_get_chain (w : World) (n l : Nat) (x : Session) : (w.setSession n x).chain l = w.chain l := rfl
@[simp] theorem World.setSession_get_unit (w : World) (n l : Nat) (x : Session) : (w.setSession n x).unit l = w.unit l := rfl
@[simp] theorem World.setSession_get_node (w : World) (n l : Nat) (x : Session) : (w.setSession n x).node l = w.node l := rfl
@[simp] theorem World.setSession_get_range (w : World) (n l : Nat) (x : Session) : (w.setSession n x).range l = w.range l := rfl

/-! ### World.setSlotOp -/

@[simp] theorem World.setSlotOp_mem (w : World) (k : Nat) (x : Slot) : (w.setSlotOp k x).mem = w.mem := rfl
@[simp] theorem World.setSlotOp_poison (w : World) (k : Nat) (x : Slot) : (w.setSlotOp k x).poison = w.poison := rfl
@[simp] theorem World.setSlotOp_badMeta (w : World) (k : Nat) (x : Slot) : (w.setSlotOp k x).badMeta = w.badMeta := rfl
@[simp] theorem World.setSlotOp_cycle (w : World) (k : Nat) (x : Slot) : (w.setSlotOp k x).cycle = w.cycle := rfl
@[simp] theorem World.setSlotOp_fresh (w : World) (k : Nat) (x : Slot) : (w.setSlotOp k x).fresh = w.fresh := rfl
@[simp] theorem World.setSlotOp_cache (w : World) (k : Nat) (x : Slot) : (w.setSlotOp k x).cache = w.cache := rfl
@[simp] theorem World.setSlotOp_threads (w : World) (k : Nat) (x : Slot) : (w.setSlotOp k x).threads = w.threads := rfl
@[simp] theorem World.setSlotOp_cores (w : World) (k : Nat) (x : Slot) : (w.setSlotOp k x).cores = w.cores := rfl
@[simp] theorem World.setSlotOp_dies (w : World) (k : Nat) (x : Slot) : (w.setSlotOp k x).dies = w.dies := rfl
@[simp] theorem World.setSlotOp_pbr (w : World) (k : Nat) (x : Slot) : (w.setSlotOp k x).pbr = w.pbr := rfl
@[simp] theorem World.setSlotOp_queues (w : World) (k : Nat) (x : Slot) : (w.setSlotOp k x).queues = w.queues := rfl
@[simp] theorem World.setSlotOp_units (w : World) (k : Nat) (x : Slot) : (w.setSlotOp k x).units = w.units := rfl
@[simp] theorem World.setSlotOp_chains (w : World) (k : Nat) (x : Slot) : (w.setSlotOp k x).chains = w.chains := rfl
@[simp] theorem World.setSlotOp_tasks (w : World) (k : Nat) (x : Slot) : (w.setSlotOp k x).tasks = w.tasks := rfl
@[simp] theorem World.setSlotOp_nodes (w : World) (k : Nat) (x : Slot) : (w.setSlotOp k x).nodes = w.nodes := rfl
@[simp] theorem World.setSlotOp_moduleNode (w : World) (k : Nat) (x : Slot) : (w.setSlotOp k x).moduleNode = w.moduleNode := rfl
@[simp] theorem World.setSlotOp_ranges (w : World) (k : Nat) (x : Slot) : (w.setSlotOp k x).ranges = w.ranges := rfl
@[simp] theorem World.setSlotOp_elems (w : World) (k : Nat) (x : Slot) : (w.setSlotOp k x).elems = w.elems := rfl
@[simp] theorem World.setSlotOp_regions (w : World) (k : Nat) (x : Slot) : (w.setSlotOp k x).regions = w.regions := rfl
@[simp] theorem World.setSlotOp_streams (w : World) (k : Nat) (x : Slot) : (w.setSlotOp k x).streams = w.streams := rfl
@[simp] theorem World.setSlotOp_matrices (w : World) (k : Nat) (x : Slot) : (w.setSlotOp k x).matrices = w.matrices := rfl
@[simp] theorem World.setSlotOp_sluices (w : World) (k : Nat) (x : Slot) : (w.setSlotOp k x).sluices = w.sluices := rfl
@[simp] theorem World.setSlotOp_tiles (w : World) (k : Nat) (x : Slot) : (w.setSlotOp k x).tiles = w.tiles := rfl
@[simp] theorem World.setSlotOp_channels (w : World) (k : Nat) (x : Slot) : (w.setSlotOp k x).channels = w.channels := rfl
@[simp] theorem World.setSlotOp_slotsOp (w : World) (k : Nat) (x : Slot) : (w.setSlotOp k x).slotsOp = tabSet k x w.slotsOp := rfl
@[simp] theorem World.setSlotOp_cmdSeq (w : World) (k : Nat) (x : Slot) : (w.setSlotOp k x).cmdSeq = w.cmdSeq := rfl
@[simp] theorem World.setSlotOp_sectors (w : World) (k : Nat) (x : Slot) : (w.setSlotOp k x).sectors = w.sectors := rfl
@[simp] theorem World.setSlotOp_sessions (w : World) (k : Nat) (x : Slot) : (w.setSlotOp k x).sessions = w.sessions := rfl
@[simp] theorem World.setSlotOp_engines (w : World) (k : Nat) (x : Slot) : (w.setSlotOp k x).engines = w.engines := rfl
@[simp] theorem World.setSlotOp_scq (w : World) (k : Nat) (x : Slot) : (w.setSlotOp k x).scq = w.scq := rfl
@[simp] theorem World.setSlotOp_sides (w : World) (k : Nat) (x : Slot) : (w.setSlotOp k x).sides = w.sides := rfl
@[simp] theorem World.setSlotOp_periods (w : World) (k : Nat) (x : Slot) : (w.setSlotOp k x).periods = w.periods := rfl
@[simp] theorem World.setSlotOp_msix (w : World) (k : Nat) (x : Slot) : (w.setSlotOp k x).msix = w.msix := rfl
@[simp] theorem World.setSlotOp_owed (w : World) (k : Nat) (x : Slot) : (w.setSlotOp k x).owed = w.owed := rfl
@[simp] theorem World.setSlotOp_jibor (w : World) (k : Nat) (x : Slot) : (w.setSlotOp k x).jibor = w.jibor := rfl
@[simp] theorem World.setSlotOp_dead (w : World) (k : Nat) (x : Slot) : (w.setSlotOp k x).dead = w.dead := rfl
@[simp] theorem World.setSlotOp_get_thread (w : World) (k l : Nat) (x : Slot) : (w.setSlotOp k x).thread l = w.thread l := rfl
@[simp] theorem World.setSlotOp_get_elem (w : World) (k l : Nat) (x : Slot) : (w.setSlotOp k x).elem l = w.elem l := rfl
@[simp] theorem World.setSlotOp_get_region (w : World) (k l : Nat) (x : Slot) : (w.setSlotOp k x).region l = w.region l := rfl
@[simp] theorem World.setSlotOp_get_stream (w : World) (k l : Nat) (x : Slot) : (w.setSlotOp k x).stream l = w.stream l := rfl
@[simp] theorem World.setSlotOp_get_core (w : World) (k l : Nat) (x : Slot) : (w.setSlotOp k x).core l = w.core l := rfl
@[simp] theorem World.setSlotOp_get_die (w : World) (k l : Nat) (x : Slot) : (w.setSlotOp k x).die l = w.die l := rfl
@[simp] theorem World.setSlotOp_get_queue (w : World) (k l : Nat) (x : Slot) : (w.setSlotOp k x).queue l = w.queue l := rfl
@[simp] theorem World.setSlotOp_get_sluice (w : World) (k l : Nat) (x : Slot) : (w.setSlotOp k x).sluice l = w.sluice l := rfl
@[simp] theorem World.setSlotOp_slotOp_same (w : World) (k : Nat) (x : Slot) : (w.setSlotOp k x).slotOp k = x := tabGet_tabSet_same ..
theorem World.setSlotOp_slotOp_other (w : World) {k l : Nat} (h : l ≠ k) (x : Slot) : (w.setSlotOp k x).slotOp l = w.slotOp l := tabGet_tabSet_other _ _ h _
@[simp] theorem World.setSlotOp_get_matrix (w : World) (k l : Nat) (x : Slot) : (w.setSlotOp k x).matrix l = w.matrix l := rfl
@[simp] theorem World.setSlotOp_get_tile (w : World) (k l : Nat) (x : Slot) : (w.setSlotOp k x).tile l = w.tile l := rfl
@[simp] theorem World.setSlotOp_get_channel (w : World) (k l : Nat) (x : Slot) : (w.setSlotOp k x).channel l = w.channel l := rfl
@[simp] theorem World.setSlotOp_get_chain (w : World) (k l : Nat) (x : Slot) : (w.setSlotOp k x).chain l = w.chain l := rfl
@[simp] theorem World.setSlotOp_get_unit (w : World) (k l : Nat) (x : Slot) : (w.setSlotOp k x).unit l = w.unit l := rfl
@[simp] theorem World.setSlotOp_get_node (w : World) (k l : Nat) (x : Slot) : (w.setSlotOp k x).node l = w.node l := rfl
@[simp] theorem World.setSlotOp_get_range (w : World) (k l : Nat) (x : Slot) : (w.setSlotOp k x).range l = w.range l := rfl

/-! ### World.setMatrix -/

@[simp] theorem World.setMatrix_mem (w : World) (c : Nat) (x : Matrix) : (w.setMatrix c x).mem = w.mem := rfl
@[simp] theorem World.setMatrix_poison (w : World) (c : Nat) (x : Matrix) : (w.setMatrix c x).poison = w.poison := rfl
@[simp] theorem World.setMatrix_badMeta (w : World) (c : Nat) (x : Matrix) : (w.setMatrix c x).badMeta = w.badMeta := rfl
@[simp] theorem World.setMatrix_cycle (w : World) (c : Nat) (x : Matrix) : (w.setMatrix c x).cycle = w.cycle := rfl
@[simp] theorem World.setMatrix_fresh (w : World) (c : Nat) (x : Matrix) : (w.setMatrix c x).fresh = w.fresh := rfl
@[simp] theorem World.setMatrix_cache (w : World) (c : Nat) (x : Matrix) : (w.setMatrix c x).cache = w.cache := rfl
@[simp] theorem World.setMatrix_threads (w : World) (c : Nat) (x : Matrix) : (w.setMatrix c x).threads = w.threads := rfl
@[simp] theorem World.setMatrix_cores (w : World) (c : Nat) (x : Matrix) : (w.setMatrix c x).cores = w.cores := rfl
@[simp] theorem World.setMatrix_dies (w : World) (c : Nat) (x : Matrix) : (w.setMatrix c x).dies = w.dies := rfl
@[simp] theorem World.setMatrix_pbr (w : World) (c : Nat) (x : Matrix) : (w.setMatrix c x).pbr = w.pbr := rfl
@[simp] theorem World.setMatrix_queues (w : World) (c : Nat) (x : Matrix) : (w.setMatrix c x).queues = w.queues := rfl
@[simp] theorem World.setMatrix_units (w : World) (c : Nat) (x : Matrix) : (w.setMatrix c x).units = w.units := rfl
@[simp] theorem World.setMatrix_chains (w : World) (c : Nat) (x : Matrix) : (w.setMatrix c x).chains = w.chains := rfl
@[simp] theorem World.setMatrix_tasks (w : World) (c : Nat) (x : Matrix) : (w.setMatrix c x).tasks = w.tasks := rfl
@[simp] theorem World.setMatrix_nodes (w : World) (c : Nat) (x : Matrix) : (w.setMatrix c x).nodes = w.nodes := rfl
@[simp] theorem World.setMatrix_moduleNode (w : World) (c : Nat) (x : Matrix) : (w.setMatrix c x).moduleNode = w.moduleNode := rfl
@[simp] theorem World.setMatrix_ranges (w : World) (c : Nat) (x : Matrix) : (w.setMatrix c x).ranges = w.ranges := rfl
@[simp] theorem World.setMatrix_elems (w : World) (c : Nat) (x : Matrix) : (w.setMatrix c x).elems = w.elems := rfl
@[simp] theorem World.setMatrix_regions (w : World) (c : Nat) (x : Matrix) : (w.setMatrix c x).regions = w.regions := rfl
@[simp] theorem World.setMatrix_streams (w : World) (c : Nat) (x : Matrix) : (w.setMatrix c x).streams = w.streams := rfl
@[simp] theorem World.setMatrix_matrices (w : World) (c : Nat) (x : Matrix) : (w.setMatrix c x).matrices = tabSet c x w.matrices := rfl
@[simp] theorem World.setMatrix_sluices (w : World) (c : Nat) (x : Matrix) : (w.setMatrix c x).sluices = w.sluices := rfl
@[simp] theorem World.setMatrix_tiles (w : World) (c : Nat) (x : Matrix) : (w.setMatrix c x).tiles = w.tiles := rfl
@[simp] theorem World.setMatrix_channels (w : World) (c : Nat) (x : Matrix) : (w.setMatrix c x).channels = w.channels := rfl
@[simp] theorem World.setMatrix_slotsOp (w : World) (c : Nat) (x : Matrix) : (w.setMatrix c x).slotsOp = w.slotsOp := rfl
@[simp] theorem World.setMatrix_cmdSeq (w : World) (c : Nat) (x : Matrix) : (w.setMatrix c x).cmdSeq = w.cmdSeq := rfl
@[simp] theorem World.setMatrix_sectors (w : World) (c : Nat) (x : Matrix) : (w.setMatrix c x).sectors = w.sectors := rfl
@[simp] theorem World.setMatrix_sessions (w : World) (c : Nat) (x : Matrix) : (w.setMatrix c x).sessions = w.sessions := rfl
@[simp] theorem World.setMatrix_engines (w : World) (c : Nat) (x : Matrix) : (w.setMatrix c x).engines = w.engines := rfl
@[simp] theorem World.setMatrix_scq (w : World) (c : Nat) (x : Matrix) : (w.setMatrix c x).scq = w.scq := rfl
@[simp] theorem World.setMatrix_sides (w : World) (c : Nat) (x : Matrix) : (w.setMatrix c x).sides = w.sides := rfl
@[simp] theorem World.setMatrix_periods (w : World) (c : Nat) (x : Matrix) : (w.setMatrix c x).periods = w.periods := rfl
@[simp] theorem World.setMatrix_msix (w : World) (c : Nat) (x : Matrix) : (w.setMatrix c x).msix = w.msix := rfl
@[simp] theorem World.setMatrix_owed (w : World) (c : Nat) (x : Matrix) : (w.setMatrix c x).owed = w.owed := rfl
@[simp] theorem World.setMatrix_jibor (w : World) (c : Nat) (x : Matrix) : (w.setMatrix c x).jibor = w.jibor := rfl
@[simp] theorem World.setMatrix_dead (w : World) (c : Nat) (x : Matrix) : (w.setMatrix c x).dead = w.dead := rfl
@[simp] theorem World.setMatrix_get_thread (w : World) (c l : Nat) (x : Matrix) : (w.setMatrix c x).thread l = w.thread l := rfl
@[simp] theorem World.setMatrix_get_elem (w : World) (c l : Nat) (x : Matrix) : (w.setMatrix c x).elem l = w.elem l := rfl
@[simp] theorem World.setMatrix_get_region (w : World) (c l : Nat) (x : Matrix) : (w.setMatrix c x).region l = w.region l := rfl
@[simp] theorem World.setMatrix_get_stream (w : World) (c l : Nat) (x : Matrix) : (w.setMatrix c x).stream l = w.stream l := rfl
@[simp] theorem World.setMatrix_get_core (w : World) (c l : Nat) (x : Matrix) : (w.setMatrix c x).core l = w.core l := rfl
@[simp] theorem World.setMatrix_get_die (w : World) (c l : Nat) (x : Matrix) : (w.setMatrix c x).die l = w.die l := rfl
@[simp] theorem World.setMatrix_get_queue (w : World) (c l : Nat) (x : Matrix) : (w.setMatrix c x).queue l = w.queue l := rfl
@[simp] theorem World.setMatrix_get_sluice (w : World) (c l : Nat) (x : Matrix) : (w.setMatrix c x).sluice l = w.sluice l := rfl
@[simp] theorem World.setMatrix_get_slotOp (w : World) (c l : Nat) (x : Matrix) : (w.setMatrix c x).slotOp l = w.slotOp l := rfl
@[simp] theorem World.setMatrix_matrix_same (w : World) (c : Nat) (x : Matrix) : (w.setMatrix c x).matrix c = x := tabGet_tabSet_same ..
theorem World.setMatrix_matrix_other (w : World) {c l : Nat} (h : l ≠ c) (x : Matrix) : (w.setMatrix c x).matrix l = w.matrix l := tabGet_tabSet_other _ _ h _
@[simp] theorem World.setMatrix_get_tile (w : World) (c l : Nat) (x : Matrix) : (w.setMatrix c x).tile l = w.tile l := rfl
@[simp] theorem World.setMatrix_get_channel (w : World) (c l : Nat) (x : Matrix) : (w.setMatrix c x).channel l = w.channel l := rfl
@[simp] theorem World.setMatrix_get_chain (w : World) (c l : Nat) (x : Matrix) : (w.setMatrix c x).chain l = w.chain l := rfl
@[simp] theorem World.setMatrix_get_unit (w : World) (c l : Nat) (x : Matrix) : (w.setMatrix c x).unit l = w.unit l := rfl
@[simp] theorem World.setMatrix_get_node (w : World) (c l : Nat) (x : Matrix) : (w.setMatrix c x).node l = w.node l := rfl
@[simp] theorem World.setMatrix_get_range (w : World) (c l : Nat) (x : Matrix) : (w.setMatrix c x).range l = w.range l := rfl

/-! ### World.setTile -/

@[simp] theorem World.setTile_mem (w : World) (k : Nat) (x : Tile) : (w.setTile k x).mem = w.mem := rfl
@[simp] theorem World.setTile_poison (w : World) (k : Nat) (x : Tile) : (w.setTile k x).poison = w.poison := rfl
@[simp] theorem World.setTile_badMeta (w : World) (k : Nat) (x : Tile) : (w.setTile k x).badMeta = w.badMeta := rfl
@[simp] theorem World.setTile_cycle (w : World) (k : Nat) (x : Tile) : (w.setTile k x).cycle = w.cycle := rfl
@[simp] theorem World.setTile_fresh (w : World) (k : Nat) (x : Tile) : (w.setTile k x).fresh = w.fresh := rfl
@[simp] theorem World.setTile_cache (w : World) (k : Nat) (x : Tile) : (w.setTile k x).cache = w.cache := rfl
@[simp] theorem World.setTile_threads (w : World) (k : Nat) (x : Tile) : (w.setTile k x).threads = w.threads := rfl
@[simp] theorem World.setTile_cores (w : World) (k : Nat) (x : Tile) : (w.setTile k x).cores = w.cores := rfl
@[simp] theorem World.setTile_dies (w : World) (k : Nat) (x : Tile) : (w.setTile k x).dies = w.dies := rfl
@[simp] theorem World.setTile_pbr (w : World) (k : Nat) (x : Tile) : (w.setTile k x).pbr = w.pbr := rfl
@[simp] theorem World.setTile_queues (w : World) (k : Nat) (x : Tile) : (w.setTile k x).queues = w.queues := rfl
@[simp] theorem World.setTile_units (w : World) (k : Nat) (x : Tile) : (w.setTile k x).units = w.units := rfl
@[simp] theorem World.setTile_chains (w : World) (k : Nat) (x : Tile) : (w.setTile k x).chains = w.chains := rfl
@[simp] theorem World.setTile_tasks (w : World) (k : Nat) (x : Tile) : (w.setTile k x).tasks = w.tasks := rfl
@[simp] theorem World.setTile_nodes (w : World) (k : Nat) (x : Tile) : (w.setTile k x).nodes = w.nodes := rfl
@[simp] theorem World.setTile_moduleNode (w : World) (k : Nat) (x : Tile) : (w.setTile k x).moduleNode = w.moduleNode := rfl
@[simp] theorem World.setTile_ranges (w : World) (k : Nat) (x : Tile) : (w.setTile k x).ranges = w.ranges := rfl
@[simp] theorem World.setTile_elems (w : World) (k : Nat) (x : Tile) : (w.setTile k x).elems = w.elems := rfl
@[simp] theorem World.setTile_regions (w : World) (k : Nat) (x : Tile) : (w.setTile k x).regions = w.regions := rfl
@[simp] theorem World.setTile_streams (w : World) (k : Nat) (x : Tile) : (w.setTile k x).streams = w.streams := rfl
@[simp] theorem World.setTile_matrices (w : World) (k : Nat) (x : Tile) : (w.setTile k x).matrices = w.matrices := rfl
@[simp] theorem World.setTile_sluices (w : World) (k : Nat) (x : Tile) : (w.setTile k x).sluices = w.sluices := rfl
@[simp] theorem World.setTile_tiles (w : World) (k : Nat) (x : Tile) : (w.setTile k x).tiles = tabSet k x w.tiles := rfl
@[simp] theorem World.setTile_channels (w : World) (k : Nat) (x : Tile) : (w.setTile k x).channels = w.channels := rfl
@[simp] theorem World.setTile_slotsOp (w : World) (k : Nat) (x : Tile) : (w.setTile k x).slotsOp = w.slotsOp := rfl
@[simp] theorem World.setTile_cmdSeq (w : World) (k : Nat) (x : Tile) : (w.setTile k x).cmdSeq = w.cmdSeq := rfl
@[simp] theorem World.setTile_sectors (w : World) (k : Nat) (x : Tile) : (w.setTile k x).sectors = w.sectors := rfl
@[simp] theorem World.setTile_sessions (w : World) (k : Nat) (x : Tile) : (w.setTile k x).sessions = w.sessions := rfl
@[simp] theorem World.setTile_engines (w : World) (k : Nat) (x : Tile) : (w.setTile k x).engines = w.engines := rfl
@[simp] theorem World.setTile_scq (w : World) (k : Nat) (x : Tile) : (w.setTile k x).scq = w.scq := rfl
@[simp] theorem World.setTile_sides (w : World) (k : Nat) (x : Tile) : (w.setTile k x).sides = w.sides := rfl
@[simp] theorem World.setTile_periods (w : World) (k : Nat) (x : Tile) : (w.setTile k x).periods = w.periods := rfl
@[simp] theorem World.setTile_msix (w : World) (k : Nat) (x : Tile) : (w.setTile k x).msix = w.msix := rfl
@[simp] theorem World.setTile_owed (w : World) (k : Nat) (x : Tile) : (w.setTile k x).owed = w.owed := rfl
@[simp] theorem World.setTile_jibor (w : World) (k : Nat) (x : Tile) : (w.setTile k x).jibor = w.jibor := rfl
@[simp] theorem World.setTile_dead (w : World) (k : Nat) (x : Tile) : (w.setTile k x).dead = w.dead := rfl
@[simp] theorem World.setTile_get_thread (w : World) (k l : Nat) (x : Tile) : (w.setTile k x).thread l = w.thread l := rfl
@[simp] theorem World.setTile_get_elem (w : World) (k l : Nat) (x : Tile) : (w.setTile k x).elem l = w.elem l := rfl
@[simp] theorem World.setTile_get_region (w : World) (k l : Nat) (x : Tile) : (w.setTile k x).region l = w.region l := rfl
@[simp] theorem World.setTile_get_stream (w : World) (k l : Nat) (x : Tile) : (w.setTile k x).stream l = w.stream l := rfl
@[simp] theorem World.setTile_get_core (w : World) (k l : Nat) (x : Tile) : (w.setTile k x).core l = w.core l := rfl
@[simp] theorem World.setTile_get_die (w : World) (k l : Nat) (x : Tile) : (w.setTile k x).die l = w.die l := rfl
@[simp] theorem World.setTile_get_queue (w : World) (k l : Nat) (x : Tile) : (w.setTile k x).queue l = w.queue l := rfl
@[simp] theorem World.setTile_get_sluice (w : World) (k l : Nat) (x : Tile) : (w.setTile k x).sluice l = w.sluice l := rfl
@[simp] theorem World.setTile_get_slotOp (w : World) (k l : Nat) (x : Tile) : (w.setTile k x).slotOp l = w.slotOp l := rfl
@[simp] theorem World.setTile_get_matrix (w : World) (k l : Nat) (x : Tile) : (w.setTile k x).matrix l = w.matrix l := rfl
@[simp] theorem World.setTile_tile_same (w : World) (k : Nat) (x : Tile) : (w.setTile k x).tile k = x := tabGet_tabSet_same ..
theorem World.setTile_tile_other (w : World) {k l : Nat} (h : l ≠ k) (x : Tile) : (w.setTile k x).tile l = w.tile l := tabGet_tabSet_other _ _ h _
@[simp] theorem World.setTile_get_channel (w : World) (k l : Nat) (x : Tile) : (w.setTile k x).channel l = w.channel l := rfl
@[simp] theorem World.setTile_get_chain (w : World) (k l : Nat) (x : Tile) : (w.setTile k x).chain l = w.chain l := rfl
@[simp] theorem World.setTile_get_unit (w : World) (k l : Nat) (x : Tile) : (w.setTile k x).unit l = w.unit l := rfl
@[simp] theorem World.setTile_get_node (w : World) (k l : Nat) (x : Tile) : (w.setTile k x).node l = w.node l := rfl
@[simp] theorem World.setTile_get_range (w : World) (k l : Nat) (x : Tile) : (w.setTile k x).range l = w.range l := rfl

/-! ### World.setChannel -/

@[simp] theorem World.setChannel_mem (w : World) (k : Nat) (x : Channel) : (w.setChannel k x).mem = w.mem := rfl
@[simp] theorem World.setChannel_poison (w : World) (k : Nat) (x : Channel) : (w.setChannel k x).poison = w.poison := rfl
@[simp] theorem World.setChannel_badMeta (w : World) (k : Nat) (x : Channel) : (w.setChannel k x).badMeta = w.badMeta := rfl
@[simp] theorem World.setChannel_cycle (w : World) (k : Nat) (x : Channel) : (w.setChannel k x).cycle = w.cycle := rfl
@[simp] theorem World.setChannel_fresh (w : World) (k : Nat) (x : Channel) : (w.setChannel k x).fresh = w.fresh := rfl
@[simp] theorem World.setChannel_cache (w : World) (k : Nat) (x : Channel) : (w.setChannel k x).cache = w.cache := rfl
@[simp] theorem World.setChannel_threads (w : World) (k : Nat) (x : Channel) : (w.setChannel k x).threads = w.threads := rfl
@[simp] theorem World.setChannel_cores (w : World) (k : Nat) (x : Channel) : (w.setChannel k x).cores = w.cores := rfl
@[simp] theorem World.setChannel_dies (w : World) (k : Nat) (x : Channel) : (w.setChannel k x).dies = w.dies := rfl
@[simp] theorem World.setChannel_pbr (w : World) (k : Nat) (x : Channel) : (w.setChannel k x).pbr = w.pbr := rfl
@[simp] theorem World.setChannel_queues (w : World) (k : Nat) (x : Channel) : (w.setChannel k x).queues = w.queues := rfl
@[simp] theorem World.setChannel_units (w : World) (k : Nat) (x : Channel) : (w.setChannel k x).units = w.units := rfl
@[simp] theorem World.setChannel_chains (w : World) (k : Nat) (x : Channel) : (w.setChannel k x).chains = w.chains := rfl
@[simp] theorem World.setChannel_tasks (w : World) (k : Nat) (x : Channel) : (w.setChannel k x).tasks = w.tasks := rfl
@[simp] theorem World.setChannel_nodes (w : World) (k : Nat) (x : Channel) : (w.setChannel k x).nodes = w.nodes := rfl
@[simp] theorem World.setChannel_moduleNode (w : World) (k : Nat) (x : Channel) : (w.setChannel k x).moduleNode = w.moduleNode := rfl
@[simp] theorem World.setChannel_ranges (w : World) (k : Nat) (x : Channel) : (w.setChannel k x).ranges = w.ranges := rfl
@[simp] theorem World.setChannel_elems (w : World) (k : Nat) (x : Channel) : (w.setChannel k x).elems = w.elems := rfl
@[simp] theorem World.setChannel_regions (w : World) (k : Nat) (x : Channel) : (w.setChannel k x).regions = w.regions := rfl
@[simp] theorem World.setChannel_streams (w : World) (k : Nat) (x : Channel) : (w.setChannel k x).streams = w.streams := rfl
@[simp] theorem World.setChannel_matrices (w : World) (k : Nat) (x : Channel) : (w.setChannel k x).matrices = w.matrices := rfl
@[simp] theorem World.setChannel_sluices (w : World) (k : Nat) (x : Channel) : (w.setChannel k x).sluices = w.sluices := rfl
@[simp] theorem World.setChannel_tiles (w : World) (k : Nat) (x : Channel) : (w.setChannel k x).tiles = w.tiles := rfl
@[simp] theorem World.setChannel_channels (w : World) (k : Nat) (x : Channel) : (w.setChannel k x).channels = tabSet k x w.channels := rfl
@[simp] theorem World.setChannel_slotsOp (w : World) (k : Nat) (x : Channel) : (w.setChannel k x).slotsOp = w.slotsOp := rfl
@[simp] theorem World.setChannel_cmdSeq (w : World) (k : Nat) (x : Channel) : (w.setChannel k x).cmdSeq = w.cmdSeq := rfl
@[simp] theorem World.setChannel_sectors (w : World) (k : Nat) (x : Channel) : (w.setChannel k x).sectors = w.sectors := rfl
@[simp] theorem World.setChannel_sessions (w : World) (k : Nat) (x : Channel) : (w.setChannel k x).sessions = w.sessions := rfl
@[simp] theorem World.setChannel_engines (w : World) (k : Nat) (x : Channel) : (w.setChannel k x).engines = w.engines := rfl
@[simp] theorem World.setChannel_scq (w : World) (k : Nat) (x : Channel) : (w.setChannel k x).scq = w.scq := rfl
@[simp] theorem World.setChannel_sides (w : World) (k : Nat) (x : Channel) : (w.setChannel k x).sides = w.sides := rfl
@[simp] theorem World.setChannel_periods (w : World) (k : Nat) (x : Channel) : (w.setChannel k x).periods = w.periods := rfl
@[simp] theorem World.setChannel_msix (w : World) (k : Nat) (x : Channel) : (w.setChannel k x).msix = w.msix := rfl
@[simp] theorem World.setChannel_owed (w : World) (k : Nat) (x : Channel) : (w.setChannel k x).owed = w.owed := rfl
@[simp] theorem World.setChannel_jibor (w : World) (k : Nat) (x : Channel) : (w.setChannel k x).jibor = w.jibor := rfl
@[simp] theorem World.setChannel_dead (w : World) (k : Nat) (x : Channel) : (w.setChannel k x).dead = w.dead := rfl
@[simp] theorem World.setChannel_get_thread (w : World) (k l : Nat) (x : Channel) : (w.setChannel k x).thread l = w.thread l := rfl
@[simp] theorem World.setChannel_get_elem (w : World) (k l : Nat) (x : Channel) : (w.setChannel k x).elem l = w.elem l := rfl
@[simp] theorem World.setChannel_get_region (w : World) (k l : Nat) (x : Channel) : (w.setChannel k x).region l = w.region l := rfl
@[simp] theorem World.setChannel_get_stream (w : World) (k l : Nat) (x : Channel) : (w.setChannel k x).stream l = w.stream l := rfl
@[simp] theorem World.setChannel_get_core (w : World) (k l : Nat) (x : Channel) : (w.setChannel k x).core l = w.core l := rfl
@[simp] theorem World.setChannel_get_die (w : World) (k l : Nat) (x : Channel) : (w.setChannel k x).die l = w.die l := rfl
@[simp] theorem World.setChannel_get_queue (w : World) (k l : Nat) (x : Channel) : (w.setChannel k x).queue l = w.queue l := rfl
@[simp] theorem World.setChannel_get_sluice (w : World) (k l : Nat) (x : Channel) : (w.setChannel k x).sluice l = w.sluice l := rfl
@[simp] theorem World.setChannel_get_slotOp (w : World) (k l : Nat) (x : Channel) : (w.setChannel k x).slotOp l = w.slotOp l := rfl
@[simp] theorem World.setChannel_get_matrix (w : World) (k l : Nat) (x : Channel) : (w.setChannel k x).matrix l = w.matrix l := rfl
@[simp] theorem World.setChannel_get_tile (w : World) (k l : Nat) (x : Channel) : (w.setChannel k x).tile l = w.tile l := rfl
@[simp] theorem World.setChannel_channel_same (w : World) (k : Nat) (x : Channel) : (w.setChannel k x).channel k = x := tabGet_tabSet_same ..
theorem World.setChannel_channel_other (w : World) {k l : Nat} (h : l ≠ k) (x : Channel) : (w.setChannel k x).channel l = w.channel l := tabGet_tabSet_other _ _ h _
@[simp] theorem World.setChannel_get_chain (w : World) (k l : Nat) (x : Channel) : (w.setChannel k x).chain l = w.chain l := rfl
@[simp] theorem World.setChannel_get_unit (w : World) (k l : Nat) (x : Channel) : (w.setChannel k x).unit l = w.unit l := rfl
@[simp] theorem World.setChannel_get_node (w : World) (k l : Nat) (x : Channel) : (w.setChannel k x).node l = w.node l := rfl
@[simp] theorem World.setChannel_get_range (w : World) (k l : Nat) (x : Channel) : (w.setChannel k x).range l = w.range l := rfl

/-! ### World.setChain -/

@[simp] theorem World.setChain_mem (w : World) (k : Nat) (x : Chain) : (w.setChain k x).mem = w.mem := rfl
@[simp] theorem World.setChain_poison (w : World) (k : Nat) (x : Chain) : (w.setChain k x).poison = w.poison := rfl
@[simp] theorem World.setChain_badMeta (w : World) (k : Nat) (x : Chain) : (w.setChain k x).badMeta = w.badMeta := rfl
@[simp] theorem World.setChain_cycle (w : World) (k : Nat) (x : Chain) : (w.setChain k x).cycle = w.cycle := rfl
@[simp] theorem World.setChain_fresh (w : World) (k : Nat) (x : Chain) : (w.setChain k x).fresh = w.fresh := rfl
@[simp] theorem World.setChain_cache (w : World) (k : Nat) (x : Chain) : (w.setChain k x).cache = w.cache := rfl
@[simp] theorem World.setChain_threads (w : World) (k : Nat) (x : Chain) : (w.setChain k x).threads = w.threads := rfl
@[simp] theorem World.setChain_cores (w : World) (k : Nat) (x : Chain) : (w.setChain k x).cores = w.cores := rfl
@[simp] theorem World.setChain_dies (w : World) (k : Nat) (x : Chain) : (w.setChain k x).dies = w.dies := rfl
@[simp] theorem World.setChain_pbr (w : World) (k : Nat) (x : Chain) : (w.setChain k x).pbr = w.pbr := rfl
@[simp] theorem World.setChain_queues (w : World) (k : Nat) (x : Chain) : (w.setChain k x).queues = w.queues := rfl
@[simp] theorem World.setChain_units (w : World) (k : Nat) (x : Chain) : (w.setChain k x).units = w.units := rfl
@[simp] theorem World.setChain_chains (w : World) (k : Nat) (x : Chain) : (w.setChain k x).chains = tabSet k x w.chains := rfl
@[simp] theorem World.setChain_tasks (w : World) (k : Nat) (x : Chain) : (w.setChain k x).tasks = w.tasks := rfl
@[simp] theorem World.setChain_nodes (w : World) (k : Nat) (x : Chain) : (w.setChain k x).nodes = w.nodes := rfl
@[simp] theorem World.setChain_moduleNode (w : World) (k : Nat) (x : Chain) : (w.setChain k x).moduleNode = w.moduleNode := rfl
@[simp] theorem World.setChain_ranges (w : World) (k : Nat) (x : Chain) : (w.setChain k x).ranges = w.ranges := rfl
@[simp] theorem World.setChain_elems (w : World) (k : Nat) (x : Chain) : (w.setChain k x).elems = w.elems := rfl
@[simp] theorem World.setChain_regions (w : World) (k : Nat) (x : Chain) : (w.setChain k x).regions = w.regions := rfl
@[simp] theorem World.setChain_streams (w : World) (k : Nat) (x : Chain) : (w.setChain k x).streams = w.streams := rfl
@[simp] theorem World.setChain_matrices (w : World) (k : Nat) (x : Chain) : (w.setChain k x).matrices = w.matrices := rfl
@[simp] theorem World.setChain_sluices (w : World) (k : Nat) (x : Chain) : (w.setChain k x).sluices = w.sluices := rfl
@[simp] theorem World.setChain_tiles (w : World) (k : Nat) (x : Chain) : (w.setChain k x).tiles = w.tiles := rfl
@[simp] theorem World.setChain_channels (w : World) (k : Nat) (x : Chain) : (w.setChain k x).channels = w.channels := rfl
@[simp] theorem World.setChain_slotsOp (w : World) (k : Nat) (x : Chain) : (w.setChain k x).slotsOp = w.slotsOp := rfl
@[simp] theorem World.setChain_cmdSeq (w : World) (k : Nat) (x : Chain) : (w.setChain k x).cmdSeq = w.cmdSeq := rfl
@[simp] theorem World.setChain_sectors (w : World) (k : Nat) (x : Chain) : (w.setChain k x).sectors = w.sectors := rfl
@[simp] theorem World.setChain_sessions (w : World) (k : Nat) (x : Chain) : (w.setChain k x).sessions = w.sessions := rfl
@[simp] theorem World.setChain_engines (w : World) (k : Nat) (x : Chain) : (w.setChain k x).engines = w.engines := rfl
@[simp] theorem World.setChain_scq (w : World) (k : Nat) (x : Chain) : (w.setChain k x).scq = w.scq := rfl
@[simp] theorem World.setChain_sides (w : World) (k : Nat) (x : Chain) : (w.setChain k x).sides = w.sides := rfl
@[simp] theorem World.setChain_periods (w : World) (k : Nat) (x : Chain) : (w.setChain k x).periods = w.periods := rfl
@[simp] theorem World.setChain_msix (w : World) (k : Nat) (x : Chain) : (w.setChain k x).msix = w.msix := rfl
@[simp] theorem World.setChain_owed (w : World) (k : Nat) (x : Chain) : (w.setChain k x).owed = w.owed := rfl
@[simp] theorem World.setChain_jibor (w : World) (k : Nat) (x : Chain) : (w.setChain k x).jibor = w.jibor := rfl
@[simp] theorem World.setChain_dead (w : World) (k : Nat) (x : Chain) : (w.setChain k x).dead = w.dead := rfl
@[simp] theorem World.setChain_get_thread (w : World) (k l : Nat) (x : Chain) : (w.setChain k x).thread l = w.thread l := rfl
@[simp] theorem World.setChain_get_elem (w : World) (k l : Nat) (x : Chain) : (w.setChain k x).elem l = w.elem l := rfl
@[simp] theorem World.setChain_get_region (w : World) (k l : Nat) (x : Chain) : (w.setChain k x).region l = w.region l := rfl
@[simp] theorem World.setChain_get_stream (w : World) (k l : Nat) (x : Chain) : (w.setChain k x).stream l = w.stream l := rfl
@[simp] theorem World.setChain_get_core (w : World) (k l : Nat) (x : Chain) : (w.setChain k x).core l = w.core l := rfl
@[simp] theorem World.setChain_get_die (w : World) (k l : Nat) (x : Chain) : (w.setChain k x).die l = w.die l := rfl
@[simp] theorem World.setChain_get_queue (w : World) (k l : Nat) (x : Chain) : (w.setChain k x).queue l = w.queue l := rfl
@[simp] theorem World.setChain_get_sluice (w : World) (k l : Nat) (x : Chain) : (w.setChain k x).sluice l = w.sluice l := rfl
@[simp] theorem World.setChain_get_slotOp (w : World) (k l : Nat) (x : Chain) : (w.setChain k x).slotOp l = w.slotOp l := rfl
@[simp] theorem World.setChain_get_matrix (w : World) (k l : Nat) (x : Chain) : (w.setChain k x).matrix l = w.matrix l := rfl
@[simp] theorem World.setChain_get_tile (w : World) (k l : Nat) (x : Chain) : (w.setChain k x).tile l = w.tile l := rfl
@[simp] theorem World.setChain_get_channel (w : World) (k l : Nat) (x : Chain) : (w.setChain k x).channel l = w.channel l := rfl
@[simp] theorem World.setChain_chain_same (w : World) (k : Nat) (x : Chain) : (w.setChain k x).chain k = x := tabGet_tabSet_same ..
theorem World.setChain_chain_other (w : World) {k l : Nat} (h : l ≠ k) (x : Chain) : (w.setChain k x).chain l = w.chain l := tabGet_tabSet_other _ _ h _
@[simp] theorem World.setChain_get_unit (w : World) (k l : Nat) (x : Chain) : (w.setChain k x).unit l = w.unit l := rfl
@[simp] theorem World.setChain_get_node (w : World) (k l : Nat) (x : Chain) : (w.setChain k x).node l = w.node l := rfl
@[simp] theorem World.setChain_get_range (w : World) (k l : Nat) (x : Chain) : (w.setChain k x).range l = w.range l := rfl

/-! ### World.setUnit -/

@[simp] theorem World.setUnit_mem (w : World) (u : Nat) (x : List ChainEntry) : (w.setUnit u x).mem = w.mem := rfl
@[simp] theorem World.setUnit_poison (w : World) (u : Nat) (x : List ChainEntry) : (w.setUnit u x).poison = w.poison := rfl
@[simp] theorem World.setUnit_badMeta (w : World) (u : Nat) (x : List ChainEntry) : (w.setUnit u x).badMeta = w.badMeta := rfl
@[simp] theorem World.setUnit_cycle (w : World) (u : Nat) (x : List ChainEntry) : (w.setUnit u x).cycle = w.cycle := rfl
@[simp] theorem World.setUnit_fresh (w : World) (u : Nat) (x : List ChainEntry) : (w.setUnit u x).fresh = w.fresh := rfl
@[simp] theorem World.setUnit_cache (w : World) (u : Nat) (x : List ChainEntry) : (w.setUnit u x).cache = w.cache := rfl
@[simp] theorem World.setUnit_threads (w : World) (u : Nat) (x : List ChainEntry) : (w.setUnit u x).threads = w.threads := rfl
@[simp] theorem World.setUnit_cores (w : World) (u : Nat) (x : List ChainEntry) : (w.setUnit u x).cores = w.cores := rfl
@[simp] theorem World.setUnit_dies (w : World) (u : Nat) (x : List ChainEntry) : (w.setUnit u x).dies = w.dies := rfl
@[simp] theorem World.setUnit_pbr (w : World) (u : Nat) (x : List ChainEntry) : (w.setUnit u x).pbr = w.pbr := rfl
@[simp] theorem World.setUnit_queues (w : World) (u : Nat) (x : List ChainEntry) : (w.setUnit u x).queues = w.queues := rfl
@[simp] theorem World.setUnit_units (w : World) (u : Nat) (x : List ChainEntry) : (w.setUnit u x).units = tabSet u x w.units := rfl
@[simp] theorem World.setUnit_chains (w : World) (u : Nat) (x : List ChainEntry) : (w.setUnit u x).chains = w.chains := rfl
@[simp] theorem World.setUnit_tasks (w : World) (u : Nat) (x : List ChainEntry) : (w.setUnit u x).tasks = w.tasks := rfl
@[simp] theorem World.setUnit_nodes (w : World) (u : Nat) (x : List ChainEntry) : (w.setUnit u x).nodes = w.nodes := rfl
@[simp] theorem World.setUnit_moduleNode (w : World) (u : Nat) (x : List ChainEntry) : (w.setUnit u x).moduleNode = w.moduleNode := rfl
@[simp] theorem World.setUnit_ranges (w : World) (u : Nat) (x : List ChainEntry) : (w.setUnit u x).ranges = w.ranges := rfl
@[simp] theorem World.setUnit_elems (w : World) (u : Nat) (x : List ChainEntry) : (w.setUnit u x).elems = w.elems := rfl
@[simp] theorem World.setUnit_regions (w : World) (u : Nat) (x : List ChainEntry) : (w.setUnit u x).regions = w.regions := rfl
@[simp] theorem World.setUnit_streams (w : World) (u : Nat) (x : List ChainEntry) : (w.setUnit u x).streams = w.streams := rfl
@[simp] theorem World.setUnit_matrices (w : World) (u : Nat) (x : List ChainEntry) : (w.setUnit u x).matrices = w.matrices := rfl
@[simp] theorem World.setUnit_sluices (w : World) (u : Nat) (x : List ChainEntry) : (w.setUnit u x).sluices = w.sluices := rfl
@[simp] theorem World.setUnit_tiles (w : World) (u : Nat) (x : List ChainEntry) : (w.setUnit u x).tiles = w.tiles := rfl
@[simp] theorem World.setUnit_channels (w : World) (u : Nat) (x : List ChainEntry) : (w.setUnit u x).channels = w.channels := rfl
@[simp] theorem World.setUnit_slotsOp (w : World) (u : Nat) (x : List ChainEntry) : (w.setUnit u x).slotsOp = w.slotsOp := rfl
@[simp] theorem World.setUnit_cmdSeq (w : World) (u : Nat) (x : List ChainEntry) : (w.setUnit u x).cmdSeq = w.cmdSeq := rfl
@[simp] theorem World.setUnit_sectors (w : World) (u : Nat) (x : List ChainEntry) : (w.setUnit u x).sectors = w.sectors := rfl
@[simp] theorem World.setUnit_sessions (w : World) (u : Nat) (x : List ChainEntry) : (w.setUnit u x).sessions = w.sessions := rfl
@[simp] theorem World.setUnit_engines (w : World) (u : Nat) (x : List ChainEntry) : (w.setUnit u x).engines = w.engines := rfl
@[simp] theorem World.setUnit_scq (w : World) (u : Nat) (x : List ChainEntry) : (w.setUnit u x).scq = w.scq := rfl
@[simp] theorem World.setUnit_sides (w : World) (u : Nat) (x : List ChainEntry) : (w.setUnit u x).sides = w.sides := rfl
@[simp] theorem World.setUnit_periods (w : World) (u : Nat) (x : List ChainEntry) : (w.setUnit u x).periods = w.periods := rfl
@[simp] theorem World.setUnit_msix (w : World) (u : Nat) (x : List ChainEntry) : (w.setUnit u x).msix = w.msix := rfl
@[simp] theorem World.setUnit_owed (w : World) (u : Nat) (x : List ChainEntry) : (w.setUnit u x).owed = w.owed := rfl
@[simp] theorem World.setUnit_jibor (w : World) (u : Nat) (x : List ChainEntry) : (w.setUnit u x).jibor = w.jibor := rfl
@[simp] theorem World.setUnit_dead (w : World) (u : Nat) (x : List ChainEntry) : (w.setUnit u x).dead = w.dead := rfl
@[simp] theorem World.setUnit_get_thread (w : World) (u l : Nat) (x : List ChainEntry) : (w.setUnit u x).thread l = w.thread l := rfl
@[simp] theorem World.setUnit_get_elem (w : World) (u l : Nat) (x : List ChainEntry) : (w.setUnit u x).elem l = w.elem l := rfl
@[simp] theorem World.setUnit_get_region (w : World) (u l : Nat) (x : List ChainEntry) : (w.setUnit u x).region l = w.region l := rfl
@[simp] theorem World.setUnit_get_stream (w : World) (u l : Nat) (x : List ChainEntry) : (w.setUnit u x).stream l = w.stream l := rfl
@[simp] theorem World.setUnit_get_core (w : World) (u l : Nat) (x : List ChainEntry) : (w.setUnit u x).core l = w.core l := rfl
@[simp] theorem World.setUnit_get_die (w : World) (u l : Nat) (x : List ChainEntry) : (w.setUnit u x).die l = w.die l := rfl
@[simp] theorem World.setUnit_get_queue (w : World) (u l : Nat) (x : List ChainEntry) : (w.setUnit u x).queue l = w.queue l := rfl
@[simp] theorem World.setUnit_get_sluice (w : World) (u l : Nat) (x : List ChainEntry) : (w.setUnit u x).sluice l = w.sluice l := rfl
@[simp] theorem World.setUnit_get_slotOp (w : World) (u l : Nat) (x : List ChainEntry) : (w.setUnit u x).slotOp l = w.slotOp l := rfl
@[simp] theorem World.setUnit_get_matrix (w : World) (u l : Nat) (x : List ChainEntry) : (w.setUnit u x).matrix l = w.matrix l := rfl
@[simp] theorem World.setUnit_get_tile (w : World) (u l : Nat) (x : List ChainEntry) : (w.setUnit u x).tile l = w.tile l := rfl
@[simp] theorem World.setUnit_get_channel (w : World) (u l : Nat) (x : List ChainEntry) : (w.setUnit u x).channel l = w.channel l := rfl
@[simp] theorem World.setUnit_get_chain (w : World) (u l : Nat) (x : List ChainEntry) : (w.setUnit u x).chain l = w.chain l := rfl
@[simp] theorem World.setUnit_unit_same (w : World) (u : Nat) (x : List ChainEntry) : (w.setUnit u x).unit u = x := tabGet_tabSet_same ..
theorem World.setUnit_unit_other (w : World) {u l : Nat} (h : l ≠ u) (x : List ChainEntry) : (w.setUnit u x).unit l = w.unit l := tabGet_tabSet_other _ _ h _
@[simp] theorem World.setUnit_get_node (w : World) (u l : Nat) (x : List ChainEntry) : (w.setUnit u x).node l = w.node l := rfl
@[simp] theorem World.setUnit_get_range (w : World) (u l : Nat) (x : List ChainEntry) : (w.setUnit u x).range l = w.range l := rfl

/-! ### World.setTask -/

@[simp] theorem World.setTask_mem (w : World) (k : Nat) (x : Task) : (w.setTask k x).mem = w.mem := rfl
@[simp] theorem World.setTask_poison (w : World) (k : Nat) (x : Task) : (w.setTask k x).poison = w.poison := rfl
@[simp] theorem World.setTask_badMeta (w : World) (k : Nat) (x : Task) : (w.setTask k x).badMeta = w.badMeta := rfl
@[simp] theorem World.setTask_cycle (w : World) (k : Nat) (x : Task) : (w.setTask k x).cycle = w.cycle := rfl
@[simp] theorem World.setTask_fresh (w : World) (k : Nat) (x : Task) : (w.setTask k x).fresh = w.fresh := rfl
@[simp] theorem World.setTask_cache (w : World) (k : Nat) (x : Task) : (w.setTask k x).cache = w.cache := rfl
@[simp] theorem World.setTask_threads (w : World) (k : Nat) (x : Task) : (w.setTask k x).threads = w.threads := rfl
@[simp] theorem World.setTask_cores (w : World) (k : Nat) (x : Task) : (w.setTask k x).cores = w.cores := rfl
@[simp] theorem World.setTask_dies (w : World) (k : Nat) (x : Task) : (w.setTask k x).dies = w.dies := rfl
@[simp] theorem World.setTask_pbr (w : World) (k : Nat) (x : Task) : (w.setTask k x).pbr = w.pbr := rfl
@[simp] theorem World.setTask_queues (w : World) (k : Nat) (x : Task) : (w.setTask k x).queues = w.queues := rfl
@[simp] theorem World.setTask_units (w : World) (k : Nat) (x : Task) : (w.setTask k x).units = w.units := rfl
@[simp] theorem World.setTask_chains (w : World) (k : Nat) (x : Task) : (w.setTask k x).chains = w.chains := rfl
@[simp] theorem World.setTask_tasks (w : World) (k : Nat) (x : Task) : (w.setTask k x).tasks = tabSet k x w.tasks := rfl
@[simp] theorem World.setTask_nodes (w : World) (k : Nat) (x : Task) : (w.setTask k x).nodes = w.nodes := rfl
@[simp] theorem World.setTask_moduleNode (w : World) (k : Nat) (x : Task) : (w.setTask k x).moduleNode = w.moduleNode := rfl
@[simp] theorem World.setTask_ranges (w : World) (k : Nat) (x : Task) : (w.setTask k x).ranges = w.ranges := rfl
@[simp] theorem World.setTask_elems (w : World) (k : Nat) (x : Task) : (w.setTask k x).elems = w.elems := rfl
@[simp] theorem World.setTask_regions (w : World) (k : Nat) (x : Task) : (w.setTask k x).regions = w.regions := rfl
@[simp] theorem World.setTask_streams (w : World) (k : Nat) (x : Task) : (w.setTask k x).streams = w.streams := rfl
@[simp] theorem World.setTask_matrices (w : World) (k : Nat) (x : Task) : (w.setTask k x).matrices = w.matrices := rfl
@[simp] theorem World.setTask_sluices (w : World) (k : Nat) (x : Task) : (w.setTask k x).sluices = w.sluices := rfl
@[simp] theorem World.setTask_tiles (w : World) (k : Nat) (x : Task) : (w.setTask k x).tiles = w.tiles := rfl
@[simp] theorem World.setTask_channels (w : World) (k : Nat) (x : Task) : (w.setTask k x).channels = w.channels := rfl
@[simp] theorem World.setTask_slotsOp (w : World) (k : Nat) (x : Task) : (w.setTask k x).slotsOp = w.slotsOp := rfl
@[simp] theorem World.setTask_cmdSeq (w : World) (k : Nat) (x : Task) : (w.setTask k x).cmdSeq = w.cmdSeq := rfl
@[simp] theorem World.setTask_sectors (w : World) (k : Nat) (x : Task) : (w.setTask k x).sectors = w.sectors := rfl
@[simp] theorem World.setTask_sessions (w : World) (k : Nat) (x : Task) : (w.setTask k x).sessions = w.sessions := rfl
@[simp] theorem World.setTask_engines (w : World) (k : Nat) (x : Task) : (w.setTask k x).engines = w.engines := rfl
@[simp] theorem World.setTask_scq (w : World) (k : Nat) (x : Task) : (w.setTask k x).scq = w.scq := rfl
@[simp] theorem World.setTask_sides (w : World) (k : Nat) (x : Task) : (w.setTask k x).sides = w.sides := rfl
@[simp] theorem World.setTask_periods (w : World) (k : Nat) (x : Task) : (w.setTask k x).periods = w.periods := rfl
@[simp] theorem World.setTask_msix (w : World) (k : Nat) (x : Task) : (w.setTask k x).msix = w.msix := rfl
@[simp] theorem World.setTask_owed (w : World) (k : Nat) (x : Task) : (w.setTask k x).owed = w.owed := rfl
@[simp] theorem World.setTask_jibor (w : World) (k : Nat) (x : Task) : (w.setTask k x).jibor = w.jibor := rfl
@[simp] theorem World.setTask_dead (w : World) (k : Nat) (x : Task) : (w.setTask k x).dead = w.dead := rfl
@[simp] theorem World.setTask_get_thread (w : World) (k l : Nat) (x : Task) : (w.setTask k x).thread l = w.thread l := rfl
@[simp] theorem World.setTask_get_elem (w : World) (k l : Nat) (x : Task) : (w.setTask k x).elem l = w.elem l := rfl
@[simp] theorem World.setTask_get_region (w : World) (k l : Nat) (x : Task) : (w.setTask k x).region l = w.region l := rfl
@[simp] theorem World.setTask_get_stream (w : World) (k l : Nat) (x : Task) : (w.setTask k x).stream l = w.stream l := rfl
@[simp] theorem World.setTask_get_core (w : World) (k l : Nat) (x : Task) : (w.setTask k x).core l = w.core l := rfl
@[simp] theorem World.setTask_get_die (w : World) (k l : Nat) (x : Task) : (w.setTask k x).die l = w.die l := rfl
@[simp] theorem World.setTask_get_queue (w : World) (k l : Nat) (x : Task) : (w.setTask k x).queue l = w.queue l := rfl
@[simp] theorem World.setTask_get_sluice (w : World) (k l : Nat) (x : Task) : (w.setTask k x).sluice l = w.sluice l := rfl
@[simp] theorem World.setTask_get_slotOp (w : World) (k l : Nat) (x : Task) : (w.setTask k x).slotOp l = w.slotOp l := rfl
@[simp] theorem World.setTask_get_matrix (w : World) (k l : Nat) (x : Task) : (w.setTask k x).matrix l = w.matrix l := rfl
@[simp] theorem World.setTask_get_tile (w : World) (k l : Nat) (x : Task) : (w.setTask k x).tile l = w.tile l := rfl
@[simp] theorem World.setTask_get_channel (w : World) (k l : Nat) (x : Task) : (w.setTask k x).channel l = w.channel l := rfl
@[simp] theorem World.setTask_get_chain (w : World) (k l : Nat) (x : Task) : (w.setTask k x).chain l = w.chain l := rfl
@[simp] theorem World.setTask_get_unit (w : World) (k l : Nat) (x : Task) : (w.setTask k x).unit l = w.unit l := rfl
@[simp] theorem World.setTask_get_node (w : World) (k l : Nat) (x : Task) : (w.setTask k x).node l = w.node l := rfl
@[simp] theorem World.setTask_get_range (w : World) (k l : Nat) (x : Task) : (w.setTask k x).range l = w.range l := rfl

/-! ### The state of a thread -/

@[simp] theorem State.setThr_txn (s : State) (th : Thread) : (s.setThr th).txn = s.txn := rfl
@[simp] theorem State.writeG_txn (s : State) (r : Reg) (v : Word) : (s.writeG r v).txn = s.txn := rfl
@[simp] theorem State.writeP_txn (s : State) (q : PReg) (b : Bool) : (s.writeP q b).txn = s.txn := rfl
@[simp] theorem State.setThr_turn (s : State) (th : Thread) : (s.setThr th).turn = s.turn := rfl
@[simp] theorem State.writeG_turn (s : State) (r : Reg) (v : Word) : (s.writeG r v).turn = s.turn := rfl
@[simp] theorem State.writeP_turn (s : State) (q : PReg) (b : Bool) : (s.writeP q b).turn = s.turn := rfl
@[simp] theorem State.setThr_agenda (s : State) (th : Thread) : (s.setThr th).agenda = s.agenda := rfl
@[simp] theorem State.writeG_agenda (s : State) (r : Reg) (v : Word) : (s.writeG r v).agenda = s.agenda := rfl
@[simp] theorem State.writeP_agenda (s : State) (q : PReg) (b : Bool) : (s.writeP q b).agenda = s.agenda := rfl
@[simp] theorem State.setThr_w (s : State) (th : Thread) : (s.setThr th).w = s.w.setThread s.turn th := rfl
@[simp] theorem State.setThr_thr (s : State) (th : Thread) : (s.setThr th).thr = th := tabGet_tabSet_same ..
@[simp] theorem State.writeG_thr (s : State) (r : Reg) (v : Word) : (s.writeG r v).thr = s.thr.writeG r v := tabGet_tabSet_same ..
@[simp] theorem State.writeP_thr (s : State) (q : PReg) (b : Bool) : (s.writeP q b).thr = s.thr.writeP q b := tabGet_tabSet_same ..
@[simp] theorem Thread.writeG_pc (th : Thread) (r : Reg) (v : Word) : (th.writeG r v).pc = th.pc := by unfold Thread.writeG; split <;> rfl
@[simp] theorem Thread.writeP_pc (th : Thread) (q : PReg) (b : Bool) : (th.writeP q b).pc = th.pc := by unfold Thread.writeP; split <;> rfl
@[simp] theorem Thread.writeP_g (th : Thread) (q : PReg) (b : Bool) : (th.writeP q b).g = th.g := by unfold Thread.writeP; split <;> rfl
@[simp] theorem Thread.writeG_p (th : Thread) (r : Reg) (v : Word) : (th.writeG r v).p = th.p := by unfold Thread.writeG; split <;> rfl
@[simp] theorem Thread.writeG_phase (th : Thread) (r : Reg) (v : Word) : (th.writeG r v).phase = th.phase := by unfold Thread.writeG; split <;> rfl
@[simp] theorem Thread.writeP_phase (th : Thread) (q : PReg) (b : Bool) : (th.writeP q b).phase = th.phase := by unfold Thread.writeP; split <;> rfl
@[simp] theorem Thread.writeG_wait (th : Thread) (r : Reg) (v : Word) : (th.writeG r v).wait = th.wait := by unfold Thread.writeG; split <;> rfl
@[simp] theorem Thread.writeP_wait (th : Thread) (q : PReg) (b : Bool) : (th.writeP q b).wait = th.wait := by unfold Thread.writeP; split <;> rfl
@[simp] theorem Thread.writeG_flag (th : Thread) (r : Reg) (v : Word) : (th.writeG r v).flag = th.flag := by unfold Thread.writeG; split <;> rfl
@[simp] theorem Thread.writeP_flag (th : Thread) (q : PReg) (b : Bool) : (th.writeP q b).flag = th.flag := by unfold Thread.writeP; split <;> rfl
@[simp] theorem Thread.writeG_yielded (th : Thread) (r : Reg) (v : Word) : (th.writeG r v).yielded = th.yielded := by unfold Thread.writeG; split <;> rfl
@[simp] theorem Thread.writeP_yielded (th : Thread) (q : PReg) (b : Bool) : (th.writeP q b).yielded = th.yielded := by unfold Thread.writeP; split <;> rfl
@[simp] theorem Thread.writeG_events (th : Thread) (r : Reg) (v : Word) : (th.writeG r v).events = th.events := by unfold Thread.writeG; split <;> rfl
@[simp] theorem Thread.writeP_events (th : Thread) (q : PReg) (b : Bool) : (th.writeP q b).events = th.events := by unfold Thread.writeP; split <;> rfl
@[simp] theorem Thread.writeG_tstat (th : Thread) (r : Reg) (v : Word) : (th.writeG r v).tstat = th.tstat := by unfold Thread.writeG; split <;> rfl
@[simp] theorem Thread.writeP_tstat (th : Thread) (q : PReg) (b : Bool) : (th.writeP q b).tstat = th.tstat := by unfold Thread.writeP; split <;> rfl
@[simp] theorem Thread.writeG_tcause (th : Thread) (r : Reg) (v : Word) : (th.writeG r v).tcause = th.tcause := by unfold Thread.writeG; split <;> rfl
@[simp] theorem Thread.writeP_tcause (th : Thread) (q : PReg) (b : Bool) : (th.writeP q b).tcause = th.tcause := by unfold Thread.writeP; split <;> rfl
@[simp] theorem Thread.writeG_tepc (th : Thread) (r : Reg) (v : Word) : (th.writeG r v).tepc = th.tepc := by unfold Thread.writeG; split <;> rfl
@[simp] theorem Thread.writeP_tepc (th : Thread) (q : PReg) (b : Bool) : (th.writeP q b).tepc = th.tepc := by unfold Thread.writeP; split <;> rfl
@[simp] theorem Thread.writeG_tidx (th : Thread) (r : Reg) (v : Word) : (th.writeG r v).tidx = th.tidx := by unfold Thread.writeG; split <;> rfl
@[simp] theorem Thread.writeP_tidx (th : Thread) (q : PReg) (b : Bool) : (th.writeP q b).tidx = th.tidx := by unfold Thread.writeP; split <;> rfl
@[simp] theorem Thread.writeG_tval (th : Thread) (r : Reg) (v : Word) : (th.writeG r v).tval = th.tval := by unfold Thread.writeG; split <;> rfl
@[simp] theorem Thread.writeP_tval (th : Thread) (q : PReg) (b : Bool) : (th.writeP q b).tval = th.tval := by unfold Thread.writeP; split <;> rfl
@[simp] theorem Thread.writeG_thand (th : Thread) (r : Reg) (v : Word) : (th.writeG r v).thand = th.thand := by unfold Thread.writeG; split <;> rfl
@[simp] theorem Thread.writeP_thand (th : Thread) (q : PReg) (b : Bool) : (th.writeP q b).thand = th.thand := by unfold Thread.writeP; split <;> rfl
@[simp] theorem Thread.writeG_tscratch (th : Thread) (r : Reg) (v : Word) : (th.writeG r v).tscratch = th.tscratch := by unfold Thread.writeG; split <;> rfl
@[simp] theorem Thread.writeP_tscratch (th : Thread) (q : PReg) (b : Bool) : (th.writeP q b).tscratch = th.tscratch := by unfold Thread.writeP; split <;> rfl
@[simp] theorem Thread.writeG_frm (th : Thread) (r : Reg) (v : Word) : (th.writeG r v).frm = th.frm := by unfold Thread.writeG; split <;> rfl
@[simp] theorem Thread.writeP_frm (th : Thread) (q : PReg) (b : Bool) : (th.writeP q b).frm = th.frm := by unfold Thread.writeP; split <;> rfl
@[simp] theorem Thread.writeG_fflags (th : Thread) (r : Reg) (v : Word) : (th.writeG r v).fflags = th.fflags := by unfold Thread.writeG; split <;> rfl
@[simp] theorem Thread.writeP_fflags (th : Thread) (q : PReg) (b : Bool) : (th.writeP q b).fflags = th.fflags := by unfold Thread.writeP; split <;> rfl
@[simp] theorem Thread.writeG_blkret (th : Thread) (r : Reg) (v : Word) : (th.writeG r v).blkret = th.blkret := by unfold Thread.writeG; split <;> rfl
@[simp] theorem Thread.writeP_blkret (th : Thread) (q : PReg) (b : Bool) : (th.writeP q b).blkret = th.blkret := by unfold Thread.writeP; split <;> rfl
@[simp] theorem Thread.writeG_mrdcfg (th : Thread) (r : Reg) (v : Word) : (th.writeG r v).mrdcfg = th.mrdcfg := by unfold Thread.writeG; split <;> rfl
@[simp] theorem Thread.writeP_mrdcfg (th : Thread) (q : PReg) (b : Bool) : (th.writeP q b).mrdcfg = th.mrdcfg := by unfold Thread.writeP; split <;> rfl
@[simp] theorem Thread.writeG_ctxid (th : Thread) (r : Reg) (v : Word) : (th.writeG r v).ctxid = th.ctxid := by unfold Thread.writeG; split <;> rfl
@[simp] theorem Thread.writeP_ctxid (th : Thread) (q : PReg) (b : Bool) : (th.writeP q b).ctxid = th.ctxid := by unfold Thread.writeP; split <;> rfl
@[simp] theorem Thread.writeG_asid (th : Thread) (r : Reg) (v : Word) : (th.writeG r v).asid = th.asid := by unfold Thread.writeG; split <;> rfl
@[simp] theorem Thread.writeP_asid (th : Thread) (q : PReg) (b : Bool) : (th.writeP q b).asid = th.asid := by unfold Thread.writeP; split <;> rfl
@[simp] theorem Thread.writeG_ptbase (th : Thread) (r : Reg) (v : Word) : (th.writeG r v).ptbase = th.ptbase := by unfold Thread.writeG; split <;> rfl
@[simp] theorem Thread.writeP_ptbase (th : Thread) (q : PReg) (b : Bool) : (th.writeP q b).ptbase = th.ptbase := by unfold Thread.writeP; split <;> rfl
@[simp] theorem Thread.writeG_fltrec (th : Thread) (r : Reg) (v : Word) : (th.writeG r v).fltrec = th.fltrec := by unfold Thread.writeG; split <;> rfl
@[simp] theorem Thread.writeP_fltrec (th : Thread) (q : PReg) (b : Bool) : (th.writeP q b).fltrec = th.fltrec := by unfold Thread.writeP; split <;> rfl
@[simp] theorem Thread.writeG_fltcnt (th : Thread) (r : Reg) (v : Word) : (th.writeG r v).fltcnt = th.fltcnt := by unfold Thread.writeG; split <;> rfl
@[simp] theorem Thread.writeP_fltcnt (th : Thread) (q : PReg) (b : Bool) : (th.writeP q b).fltcnt = th.fltcnt := by unfold Thread.writeP; split <;> rfl
@[simp] theorem Thread.writeG_bgtSel (th : Thread) (r : Reg) (v : Word) : (th.writeG r v).bgtSel = th.bgtSel := by unfold Thread.writeG; split <;> rfl
@[simp] theorem Thread.writeP_bgtSel (th : Thread) (q : PReg) (b : Bool) : (th.writeP q b).bgtSel = th.bgtSel := by unfold Thread.writeP; split <;> rfl
@[simp] theorem Thread.writeG_path (th : Thread) (r : Reg) (v : Word) : (th.writeG r v).path = th.path := by unfold Thread.writeG; split <;> rfl
@[simp] theorem Thread.writeP_path (th : Thread) (q : PReg) (b : Bool) : (th.writeP q b).path = th.path := by unfold Thread.writeP; split <;> rfl
@[simp] theorem Thread.writeG_task (th : Thread) (r : Reg) (v : Word) : (th.writeG r v).task = th.task := by unfold Thread.writeG; split <;> rfl
@[simp] theorem Thread.writeP_task (th : Thread) (q : PReg) (b : Bool) : (th.writeP q b).task = th.task := by unfold Thread.writeP; split <;> rfl
@[simp] theorem Thread.writeG_qfences (th : Thread) (r : Reg) (v : Word) : (th.writeG r v).qfences = th.qfences := by unfold Thread.writeG; split <;> rfl
@[simp] theorem Thread.writeP_qfences (th : Thread) (q : PReg) (b : Bool) : (th.writeP q b).qfences = th.qfences := by unfold Thread.writeP; split <;> rfl
@[simp] theorem Thread.writeG_dheld (th : Thread) (r : Reg) (v : Word) : (th.writeG r v).dheld = th.dheld := by unfold Thread.writeG; split <;> rfl
@[simp] theorem Thread.writeP_dheld (th : Thread) (q : PReg) (b : Bool) : (th.writeP q b).dheld = th.dheld := by unfold Thread.writeP; split <;> rfl
@[simp] theorem Thread.writeG_dstep (th : Thread) (r : Reg) (v : Word) : (th.writeG r v).dstep = th.dstep := by unfold Thread.writeG; split <;> rfl
@[simp] theorem Thread.writeP_dstep (th : Thread) (q : PReg) (b : Bool) : (th.writeP q b).dstep = th.dstep := by unfold Thread.writeP; split <;> rfl
@[simp] theorem Thread.writeG_drun (th : Thread) (r : Reg) (v : Word) : (th.writeG r v).drun = th.drun := by unfold Thread.writeG; split <;> rfl
@[simp] theorem Thread.writeP_drun (th : Thread) (q : PReg) (b : Bool) : (th.writeP q b).drun = th.drun := by unfold Thread.writeP; split <;> rfl
@[simp] theorem Thread.writeG_since (th : Thread) (r : Reg) (v : Word) : (th.writeG r v).since = th.since := by unfold Thread.writeG; split <;> rfl
@[simp] theorem Thread.writeP_since (th : Thread) (q : PReg) (b : Bool) : (th.writeP q b).since = th.since := by unfold Thread.writeP; split <;> rfl
@[simp] theorem Thread.writeG_wakes (th : Thread) (r : Reg) (v : Word) : (th.writeG r v).wakes = th.wakes := by unfold Thread.writeG; split <;> rfl
@[simp] theorem Thread.writeP_wakes (th : Thread) (q : PReg) (b : Bool) : (th.writeP q b).wakes = th.wakes := by unfold Thread.writeP; split <;> rfl

/-- A register written is the register read, and g0 reads zero (R170). -/
theorem Thread.readG_writeG (th : Thread) (r d : Reg) (v : Word) :
    (th.writeG d v).readG r = if r = d ∧ d ≠ 0 then v else th.readG r := by
  unfold Thread.readG Thread.writeG
  by_cases hd : d = 0
  · simp [hd]
  · simp only [hd, if_false]
    by_cases hr : r = d
    · subst hr
      have hd' : ¬ r = 0#6 := hd
      simp [hd']
    · simp only [hr, false_and, if_false]
      by_cases h0 : r = 0
      · simp [h0]
      · simp only [h0, if_false]
        exact tabGet_tabSet_other _ _ (fun h => hr (BitVec.eq_of_toNat_eq h)) _

@[simp] theorem Thread.readG_zero (th : Thread) : th.readG 0 = 0 := rfl

theorem State.readG_writeG (s : State) (r d : Reg) (v : Word) :
    (s.writeG d v).readG r = if r = d ∧ d ≠ 0 then v else s.readG r := by
  simp only [State.readG, State.writeG_thr, Thread.readG_writeG]

/-- A predicate written is the predicate read, and p0 reads true (R170). -/
theorem Thread.readP_writeP (th : Thread) (q d : PReg) (b : Bool) :
    (th.writeP d b).readP q = if q = d ∧ d ≠ 0 then b else th.readP q := by
  unfold Thread.readP Thread.writeP
  by_cases hd : d = 0
  · simp [hd]
  · simp only [hd, if_false]
    by_cases hq : q = d
    · subst hq
      have h8 : q.toNat < 8 := q.isLt
      have hd' : ¬ q = 0#3 := hd
      cases b <;> simp [hd', h8]
    · simp only [hq, false_and, if_false]
      have hn : q.toNat ≠ d.toNat := fun h => hq (BitVec.eq_of_toNat_eq h)
      have h8 : q.toNat < 8 := q.isLt
      have hsub : ¬ (q.toNat < d.toNat) → q.toNat - d.toNat ≠ 0 := by omega
      congr 1
      cases b <;> simp [h8] <;> intro h <;> omega

@[simp] theorem Thread.readP_zero (th : Thread) : th.readP 0 = true := rfl

theorem State.readP_writeP (s : State) (q d : PReg) (b : Bool) :
    (s.writeP d b).readP q = if q = d ∧ d ≠ 0 then b else s.readP q := by
  simp only [State.readP, State.writeP_thr, Thread.readP_writeP]

@[simp] theorem State.readG_writeP (s : State) (r : Reg) (q : PReg) (b : Bool) : (s.writeP q b).readG r = s.readG r := by
  simp [State.readG, Thread.readG]

@[simp] theorem State.readP_writeG (s : State) (q : PReg) (r : Reg) (v : Word) : (s.writeG r v).readP q = s.readP q := by
  simp [State.readP, Thread.readP]

end Sys2Proof.Machine
end

