-- ==== Sys2Proof/Laws/Word.lean ====
section
/-! SUPPORT. What the frame of a word and the frame of a step of another agent can answer. -/

namespace Sys2Proof.Machine

open Sys2Proof.Safety

/-- A step of another agent acts between blocks. -/
theorem event_between (f : World → World) {s : State} (h : s.txn = none) : event f s = .next { s with w := f s.w } := by
  simp [event, h]

/-- While a block is open no other agent acts (R130). -/
theorem event_held (f : World → World) {s : State} {x : Txn} (h : s.txn = some x) : event f s = .next s := by
  simp [event, h]

theorem maskG_eq_false {m : BitVec 64} {rs : List Reg} : maskG m rs = false ↔ ∀ r ∈ rs, m.getLsbD r.toNat = false := by
  simp [maskG]

theorem maskP_eq_false {m : BitVec 8} {ps : List PReg} : maskP m ps = false ↔ ∀ q ∈ ps, m.getLsbD q.toNat = false := by
  simp [maskP]

/-- Everything the frame of a word can answer. -/
theorem word_cases (n : Nat) (p : Pr) (u : Use) (body : State → Res) (s : State) :
    (s.txn = none ∧ word n p u body s = .next s) ∨
    ∃ x, s.txn = some x ∧
      ((∃ code v, word n p u body s = .next (trapWord s code v)) ∨
       (s.thr.holds p = false ∧ ∃ dep, word n p u body s = .next (advance s n u dep false)) ∨
       (s.thr.holds p = true ∧ u.acc = true ∧ fenceHolds s.turn x = true ∧ word n p u body s = .next (holdBlock s .path)) ∨
       (s.thr.holds p = true ∧
         ((∃ t dep, body s = .ok t ∧ word n p u body s = .next (advance t n u dep true)) ∨
          (∃ t, body s = .left t ∧ word n p u body s = .next (leaveBlock s t)) ∨
          (∃ t, body s = .aside t ∧ word n p u body s = .next t) ∨
          (∃ c, body s = .wait c ∧ word n p u body s = .next (holdBlock s c)) ∨
          (∃ t c dep, body s = .hold t c ∧
            word n p u body s = .next (advance { t with txn := t.txn.map fun x => { x with held := x.held.or (some c) } } n u dep true))))) := by
  unfold word
  cases hx : s.txn with
  | none => exact .inl ⟨rfl, rfl⟩
  | some x =>
    refine .inr ⟨x, rfl, ?_⟩
    dsimp only
    split
    · exact .inl ⟨_, _, rfl⟩
    · split
      · exact .inl ⟨_, _, rfl⟩
      · split
        · next h => exact .inr (.inl ⟨by simpa using h, _, rfl⟩)
        · next h =>
          have hp : s.thr.holds p = true := by simpa using h
          split
          · next hf =>
            rw [Bool.and_eq_true] at hf
            exact .inr (.inr (.inl ⟨hp, hf.1, hf.2, rfl⟩))
          · cases hb : body s with
            | ok t => exact .inr (.inr (.inr ⟨hp, .inl ⟨t, _, rfl, rfl⟩⟩))
            | left t => exact .inr (.inr (.inr ⟨hp, .inr (.inl ⟨t, rfl, rfl⟩)⟩))
            | aside t => exact .inr (.inr (.inr ⟨hp, .inr (.inr (.inl ⟨t, rfl, rfl⟩))⟩))
            | trap code v => exact .inl ⟨code, v, rfl⟩
            | wait c => exact .inr (.inr (.inr ⟨hp, .inr (.inr (.inr (.inl ⟨c, rfl, rfl⟩)))⟩))
            | hold t c => exact .inr (.inr (.inr ⟨hp, .inr (.inr (.inr (.inr ⟨t, c, _, rfl, rfl⟩)))⟩))

/-- A word that is reached, and that no fence holds back, runs its body. -/
theorem word_runs {n : Nat} {p : Pr} {u : Use} {s : State} {x : Txn} (body : State → Res)
    (h : Reached s x p u.cls u.gs u.ps) (hf : u.acc = true → fenceHolds s.turn x = false) :
    ∃ dep, word n p u body s = match body s with
      | .ok t => .next (advance t n u dep true)
      | .left t => .next (leaveBlock s t)
      | .aside t => .next t
      | .trap code v => .next (trapWord s code v)
      | .wait c => .next (holdBlock s c)
      | .hold t c => .next (advance { t with txn := t.txn.map fun x => { x with held := x.held.or (some c) } } n u dep true) := by
  have h3 : maskG x.cres u.gs = false := maskG_eq_false.2 h.cres
  have h5 : (u.acc && fenceHolds s.turn x) = false := by
    cases ha : u.acc
    · rfl
    · simpa using hf ha
  refine ⟨maskP x.depP [p.pr] || maskG x.depG u.gs || maskP x.depP u.ps, ?_⟩
  unfold word
  by_cases hc : u.cls = .other
  · obtain ⟨h1, h2, h4⟩ := h.free hc
    have e1 : maskP x.depP [p.pr] = false := maskP_eq_false.2 (by simpa using h1)
    have e2 : maskG x.depG u.gs = false := maskG_eq_false.2 h2
    have e4 : maskP x.depP u.ps = false := maskP_eq_false.2 h4
    simp only [h.txn, h.holds, h3, h5, e1, e2, e4, Bool.or_false, Bool.and_false, Bool.not_true, Bool.false_eq_true, if_false]
    all_goals (cases body s <;> rfl)
  · simp only [h.txn, h.holds, h3, h5, hc, Bool.and_false, Bool.not_true, Bool.false_eq_true, if_false]
    all_goals (cases body s <;> rfl)

@[simp] theorem advance_w (s : State) (n : Nat) (u : Use) (dep ran : Bool) : (advance s n u dep ran).w = s.w := by
  unfold advance; cases s.txn <;> rfl
@[simp] theorem advance_turn (s : State) (n : Nat) (u : Use) (dep ran : Bool) : (advance s n u dep ran).turn = s.turn := by
  unfold advance; cases s.txn <;> rfl
@[simp] theorem advance_agenda (s : State) (n : Nat) (u : Use) (dep ran : Bool) : (advance s n u dep ran).agenda = s.agenda := by
  unfold advance; cases s.txn <;> rfl
@[simp] theorem advance_thr (s : State) (n : Nat) (u : Use) (dep ran : Bool) : (advance s n u dep ran).thr = s.thr := by
  simp [State.thr]
@[simp] theorem advance_readG (s : State) (n : Nat) (u : Use) (dep ran : Bool) (r : Reg) :
    (advance s n u dep ran).readG r = s.readG r := by simp [State.readG]
@[simp] theorem advance_readP (s : State) (n : Nat) (u : Use) (dep ran : Bool) (q : PReg) :
    (advance s n u dep ran).readP q = s.readP q := by simp [State.readP]

/-- Going on from a state in the same block stands `n` words further. -/
theorem advance_onward {s t : State} {x y : Txn} (n : Nat) (u : Use) (dep ran : Bool) (h1 : t.turn = s.turn)
    (h2 : t.agenda = s.agenda) (hy : t.txn = some y) (h : y = { x with plain := y.plain }) : Onward s (advance t n u dep ran) x n := by
  refine ⟨by simpa using h1, by simpa using h2, ?_⟩
  rw [h] at hy
  unfold advance
  rw [hy]
  exact ⟨_, rfl, rfl, rfl, rfl, rfl, rfl, rfl, rfl, rfl⟩

/-- A word that is reached, and whose body goes on with only the device changed, goes on to the next word. -/
theorem word_goes {n : Nat} {p : Pr} {u : Use} {s : State} {x : Txn} {body : State → Res} {w : World}
    (h : Reached s x p u.cls u.gs u.ps) (hf : u.acc = true → fenceHolds s.turn x = false) (hb : body s = .ok { s with w := w }) :
    ∃ t, word n p u body s = .next t ∧ t.w = w ∧ Onward s t x n := by
  obtain ⟨dep, he⟩ := word_runs (n := n) body h hf
  rw [hb] at he
  exact ⟨_, he, by simp, advance_onward n u dep true rfl rfl h.txn rfl⟩

/-- A word that is reached and writes a general register. -/
theorem word_writesG {n : Nat} {p : Pr} {u : Use} {s : State} {x : Txn} {body : State → Res} {d : Reg} {v : Word}
    (h : Reached s x p u.cls u.gs u.ps) (hf : u.acc = true → fenceHolds s.turn x = false) (hb : body s = .ok (s.writeG d v)) :
    ∃ t, word n p u body s = .next t ∧ WroteG s t x n d v := by
  obtain ⟨dep, he⟩ := word_runs (n := n) body h hf
  rw [hb] at he
  refine ⟨_, he, ⟨fun r => ?_, ?_⟩, advance_onward n u dep true rfl rfl h.txn rfl⟩
  · simp [State.readG_writeG, regs]
  · simp only [advance_w, advance_thr, State.writeG_thr]
    unfold State.writeG State.setThr Thread.writeG
    split <;> rfl

/-- A word that is reached and writes a predicate. -/
theorem word_writesP {n : Nat} {p : Pr} {u : Use} {s : State} {x : Txn} {body : State → Res} {d : PReg} {b : Bool}
    (h : Reached s x p u.cls u.gs u.ps) (hf : u.acc = true → fenceHolds s.turn x = false) (hb : body s = .ok (s.writeP d b)) :
    ∃ t, word n p u body s = .next t ∧ WroteP s t x n d b := by
  obtain ⟨dep, he⟩ := word_runs (n := n) body h hf
  rw [hb] at he
  refine ⟨_, he, fun q => ?_, ?_, advance_onward n u dep true rfl rfl h.txn rfl⟩
  · simp [State.readP_writeP]
  · simp only [advance_w, advance_thr, State.writeP_thr]
    unfold State.writeP State.setThr Thread.writeP
    split
    · rfl
    · rfl

end Sys2Proof.Machine
end

