-- ==== Sys2Proof/Laws/Access.lean ====
section
/-! SUPPORT. What a word's accesses leave alone: the checks fill TLBs only, a load touches caches and counts of traffic only, and a
store in memory without poison leaves exactly its bytes. -/

namespace Sys2Proof.Machine

/-- `w'` is `w` but for the caches and the dies. -/
def CacheOnly (w w' : World) : Prop := w' = { w with cache := w'.cache, dies := w'.dies }

/-- `w'` is `w` but for the caches, the counts of traffic and the dies. -/
def TrafficOnly (w w' : World) : Prop :=
  w' = { w with cache := w'.cache, nodes := w'.nodes, moduleNode := w'.moduleNode, dies := w'.dies }

theorem CacheOnly.refl (w : World) : CacheOnly w w := rfl
theorem TrafficOnly.refl (w : World) : TrafficOnly w w := rfl

theorem CacheOnly.trans {a b c : World} (h1 : CacheOnly a b) (h2 : CacheOnly b c) : CacheOnly a c := by
  unfold CacheOnly at *; rw [h2, h1]

theorem CacheOnly.traffic {a b : World} (h : CacheOnly a b) : TrafficOnly a b := by
  unfold CacheOnly at h; unfold TrafficOnly; rw [h]

theorem TrafficOnly.trans {a b c : World} (h1 : TrafficOnly a b) (h2 : TrafficOnly b c) : TrafficOnly a c := by
  unfold TrafficOnly at *; rw [h2, h1]

theorem TrafficOnly.mem {a b : World} (h : TrafficOnly a b) : b.mem = a.mem := by rw [h]
theorem TrafficOnly.threads {a b : World} (h : TrafficOnly a b) : b.threads = a.threads := by rw [h]
theorem TrafficOnly.poison {a b : World} (h : TrafficOnly a b) : b.poison = a.poison := by rw [h]
theorem TrafficOnly.badMeta {a b : World} (h : TrafficOnly a b) : b.badMeta = a.badMeta := by rw [h]
theorem TrafficOnly.pbr {a b : World} (h : TrafficOnly a b) : b.pbr = a.pbr := by rw [h]
theorem TrafficOnly.thread {a b : World} (h : TrafficOnly a b) (t : Nat) : b.thread t = a.thread t := by rw [h]; rfl

/-- What every step of a fold leaves alone, the fold leaves alone. -/
theorem foldl_only {α : Type} {P : World → World → Prop} (refl : ∀ w, P w w) (trans : ∀ {a b c}, P a b → P b c → P a c)
    (f : World → α → World) (h : ∀ w a, P w (f w a)) (l : List α) (w : World) : P w (l.foldl f w) := by
  induction l generalizing w with
  | nil => exact refl w
  | cons a l ih => exact trans (h w a) (ih _)

theorem walkReach_cache (w : World) (d : Nat) (sp : Space) (va : Nat) : CacheOnly w (walkReach w d sp va) :=
  foldl_only (P := CacheOnly) CacheOnly.refl CacheOnly.trans (fun w pa => (w.reach d (homeOf w pa) Touch.load).1) (fun _ _ => rfl) _ _

theorem translate_cache (w : World) (who : Reach) (sp : Space) (acc : Acc) (va : Nat) : CacheOnly w (translate w who sp acc va).1 := by
  have h := walkReach_cache w who.die sp va
  simp only [translate]
  repeat' split
  all_goals first | rfl | exact h | exact h.trans rfl

theorem locate_cache (w : World) (who : Reach) (sp : Space) (acc : Acc) (va : Nat) : CacheOnly w (locate w who sp acc va).1 := by
  unfold locate
  repeat' split
  all_goals first | rfl | exact translate_cache ..

theorem checkSegs_cache (w : World) (c : Nat) (sp : Space) (acc : Acc) (o : Order) (reg : Bool) (ps : List (Nat × Nat)) :
    CacheOnly w (checkSegs w c sp acc o reg ps).1 := by
  induction ps generalizing w with
  | nil => rfl
  | cons p ps ih =>
    obtain ⟨va, len⟩ := p
    have h := locate_cache w (.word c) sp acc va
    unfold checkSegs
    generalize locate w (.word c) sp acc va = l at h ⊢
    obtain ⟨w1, r⟩ := l
    cases r with
    | error f => exact h
    | ok r =>
      obtain ⟨pa, cmp⟩ := r
      dsimp only
      split
      · exact h
      · have h2 := ih w1
        generalize checkSegs w1 c sp acc o reg ps = l2 at h2 ⊢
        obtain ⟨w2, r2⟩ := l2
        cases r2 <;> exact h.trans h2

/-- The checks of a word's access fill TLBs and change nothing else. -/
theorem checkAccess_cache (w : World) (c : Nat) (sp : Space) (acc : Acc) (o : Order) (va n : Nat) :
    CacheOnly w (checkAccess w c sp acc o va n).1 := by
  unfold checkAccess
  split
  · rfl
  · exact checkSegs_cache ..

theorem charge_traffic (w : World) (task : Option Nat) (b n : Nat) : TrafficOnly w (w.charge task b n) := by
  unfold World.charge; split <;> rfl

theorem touchLine_traffic (w : World) (d : Nat) (task : Option Nat) (t : Touch) (pa n : Nat) : TrafficOnly w (w.touchLine d task t pa n) :=
  (TrafficOnly.trans (b := (w.reach d (homeOf w pa) t).1) rfl (charge_traffic ..)).trans (charge_traffic ..)

theorem touch_traffic (w : World) (d : Nat) (task : Option Nat) (pa n : Nat) (t : Touch) : TrafficOnly w (w.touch d task pa n t) :=
  foldl_only TrafficOnly.refl TrafficOnly.trans _ (fun _ _ => touchLine_traffic ..) _ _

/-- A load of a word touches caches and counts of traffic, and changes nothing else. -/
theorem touchSegs_traffic (w : World) (t : Nat) (k : Touch) (gs : List Seg) : TrafficOnly w (touchSegs w t k gs) := by
  induction gs generalizing w with
  | nil => rfl
  | cons g gs ih => exact (touch_traffic ..).trans (ih _)

theorem homeOf_pbr {w w' : World} (h : w'.pbr = w.pbr) (pa : Nat) : homeOf w' pa = homeOf w pa := by simp [homeOf, h]

/-- What a store of bytes at physical addresses leaves, where nothing is poisoned and every address is its own home. -/
theorem storePhys_bytes {w : World} (hp : Safety.Unpoisoned w) (pa : Nat) (bs : List Byte)
    (hh : ∀ i, i < bs.length → homeOf w (pa + i) = pa + i) :
    (storePhys w pa bs).2 = false ∧ (storePhys w pa bs).1 = { w with mem := (storePhys w pa bs).1.mem } ∧
      ∀ c, byteAt (storePhys w pa bs).1.mem c = if pa ≤ c ∧ c < pa + bs.length then bs.getD (c - pa) 0 else byteAt w.mem c := by
  induction bs generalizing pa with
  | nil => exact ⟨rfl, rfl, fun c => by simp [storePhys]⟩
  | cons b bs ih =>
    have hi := ih (pa + 1) (fun i hi => by
      have := hh (i + 1) (by simp; omega)
      rw [show pa + (i + 1) = pa + 1 + i by omega] at this; exact this)
    obtain ⟨h1, h2, h3⟩ := hi
    have h0 : homeOf w pa = pa := by simpa using hh 0 (by simp)
    have hn : poisoned w pa = false := by simp [poisoned, hp.1, hp.2, tabHas]
    simp only [storePhys]
    generalize storePhys w (pa + 1) bs = r at h1 h2 h3
    obtain ⟨w1, lost⟩ := r
    dsimp only at h1 h2 h3 ⊢
    rw [hn, h0]
    simp only [Bool.false_eq_true, if_false]
    refine ⟨h1, by rw [h2], fun c => ?_⟩
    rw [byteAt_setByte, h3]
    simp only [List.length_cons]
    by_cases hc : c = pa
    · subst hc; simp
    · rw [if_neg hc]
      by_cases h5 : pa + 1 ≤ c ∧ c < pa + 1 + bs.length
      · rw [if_pos h5, if_pos (by omega), show c - pa = (c - (pa + 1)) + 1 by omega, List.getD_cons_succ]
      · rw [if_neg h5, if_neg (by omega)]

/-- What performing one part of a thread's store leaves, in memory without poison. -/
theorem performSeg_memory {w : World} (hp : Safety.Unpoisoned w) (t : Nat) (sp : Space) (k : Touch) (n : Nat) (g : Seg)
    (bs : List Byte) (hm : isMmio w g.pa = false) (hh : ∀ i, i < bs.length → homeOf w (g.pa + i) = g.pa + i) :
    Safety.Unpoisoned (performSeg w t sp k n g bs) ∧ (performSeg w t sp k n g bs).pbr = w.pbr ∧
      (performSeg w t sp k n g bs).threads = w.threads ∧
      ∀ c, byteAt (performSeg w t sp k n g bs).mem c =
        if g.pa ≤ c ∧ c < g.pa + bs.length then bs.getD (c - g.pa) 0 else byteAt w.mem c := by
  obtain ⟨h1, h2, h3⟩ := storePhys_bytes hp g.pa bs hh
  have hc : cleanPoison w g.pa bs.length = w := by simp [cleanPoison, hp.1, hp.2]
  simp only [performSeg, hm, Bool.false_eq_true, if_false, storeMem, hc, h1]
  generalize (storePhys w g.pa bs).1 = w1 at h2 h3
  have ht := touch_traffic w1 (dieOf (coreOf t)) (w.thread t).task g.pa bs.length { k with cmp := g.cmp }
  simp only [Reach.die]
  generalize w1.touch (dieOf (coreOf t)) (w.thread t).task g.pa bs.length { k with cmp := g.cmp } = w2 at ht
  refine ⟨⟨?_, ?_⟩, by rw [ht.pbr, h2], by rw [ht.threads, h2], fun c => by rw [ht.mem]; exact h3 c⟩
  · rw [ht.poison, h2]; exact hp.1
  · rw [ht.badMeta, h2]; exact hp.2

/-- What one part of a thread's store leaves, in memory without poison, where no store at its store path holds it up and it needs no
answer of another agent. -/
theorem storeSeg_memory {w : World} (hp : Safety.Unpoisoned w) (t : Nat) (sp : Space) (k : Touch) (rel : Bool) (n o : Nat) (g : Seg) (bs : List Byte)
    (hs : segWaits w t sp k rel g bs = false) (hn : Safety.answers w g.pa = false) (hm : isMmio w g.pa = false)
    (hh : ∀ i, i < bs.length → homeOf w (g.pa + i) = g.pa + i) :
    Safety.Unpoisoned (storeSeg w t sp k rel n o g bs) ∧ (storeSeg w t sp k rel n o g bs).pbr = w.pbr ∧
      (storeSeg w t sp k rel n o g bs).threads = w.threads ∧
      ∀ c, byteAt (storeSeg w t sp k rel n o g bs).mem c =
        if g.pa ≤ c ∧ c < g.pa + bs.length then bs.getD (c - g.pa) 0 else byteAt w.mem c := by
  have h := performSeg_memory hp t sp k n g bs hm hh
  simp only [storeSeg, hs, Bool.false_eq_true, if_false]
  unfold Safety.answers at hn
  unfold dueSeg
  split
  · next hw => simp [hw] at hn
  · next hw => simp [hw] at hn
  · exact h

/-- What the parts of a thread's store that are left leave, in memory without poison, where no store at its store path holds it up: the stored bytes, and every other
byte and every thread as before. -/
theorem storeParted_memory {w : World} (hp : Safety.Unpoisoned w) (t : Nat) (sp : Space) (k : Touch) (rel : Bool) (n o : Nat)
    (gs : List Seg) (bs : List Byte) (hs : ∀ g ∈ gs, Safety.heldUp w t rel g = false) (hn : ∀ g ∈ gs, Safety.answers w g.pa = false)
    (hm : Safety.InMemory w gs) :
    Safety.Unpoisoned (storeParted w t sp k rel n o gs bs) ∧ (storeParted w t sp k rel n o gs bs).threads = w.threads ∧
      ∀ c, byteAt (storeParted w t sp k rel n o gs bs).mem c = (Safety.storedByte gs bs c).getD (byteAt w.mem c) := by
  induction gs generalizing w o bs with
  | nil => exact ⟨hp, rfl, fun _ => rfl⟩
  | cons g gs ih =>
    obtain ⟨hm1, hm2⟩ := hm g (List.mem_cons_self ..)
    have hlen : (bs.take g.len).length ≤ g.len := List.length_take_le ..
    obtain ⟨h1, h2, h3, h5⟩ :=
      storeSeg_memory hp t sp k rel n o g (bs.take g.len) (hs g (List.mem_cons_self ..)) (hn g (List.mem_cons_self ..)) hm1
        (fun i hi => hm2 i (by omega))
    rw [storeParted]
    generalize storeSeg w t sp k rel n o g (bs.take g.len) = w1 at h1 h2 h3 h5
    have hm' : Safety.InMemory w1 gs := fun g' hg => by
      have := hm g' (List.mem_cons_of_mem _ hg)
      simp only [isMmio, homeOf_pbr h2] at this ⊢
      exact this
    have hs' : ∀ g' ∈ gs, Safety.heldUp w1 t rel g' = false := fun g' hg => by
      have := hs g' (List.mem_cons_of_mem _ hg)
      simp only [Safety.heldUp, isMmio, homeOf_pbr h2, World.thread, h3] at this ⊢
      exact this
    have hn' : ∀ g' ∈ gs, Safety.answers w1 g'.pa = false := fun g' hg => by
      have := hn g' (List.mem_cons_of_mem _ hg)
      simp only [Safety.answers, homeOf_pbr h2] at this ⊢
      exact this
    obtain ⟨i1, i3, i4⟩ := ih h1 (o + g.len) (bs.drop g.len) hs' hn' hm'
    refine ⟨i1, i3.trans h3, fun c => ?_⟩
    rw [i4, h5, Safety.storedByte]
    cases Safety.storedByte gs (bs.drop g.len) c with
    | some b => rfl
    | none =>
      simp only [Option.none_or, Option.getD_none]
      by_cases hc : g.pa ≤ c ∧ c < g.pa + g.len
      · rw [if_pos hc]
        by_cases hl : c - g.pa < bs.length
        · rw [if_pos (by rw [List.length_take]; omega), List.getElem?_eq_getElem hl, List.getD_eq_getElem?_getD,
            List.getElem?_take_of_lt (by omega), List.getElem?_eq_getElem hl]; rfl
        · rw [if_neg (by rw [List.length_take]; omega), List.getElem?_eq_none (by omega)]; rfl
      · rw [if_neg hc, if_neg (by omega)]; rfl

/-- What a thread's store leaves, in memory without poison, where no store at its store path holds it up: the stored bytes, and every other
byte and every thread as before. -/
theorem storeSegs_memory {w : World} (hp : Safety.Unpoisoned w) (t : Nat) (sp : Space) (k : Touch) (rel : Bool)
    (gs : List Seg) (bs : List Byte) (hs : ∀ g ∈ gs, Safety.heldUp w t rel g = false) (hn : ∀ g ∈ gs, Safety.answers w g.pa = false)
    (hm : Safety.InMemory w gs) :
    Safety.Unpoisoned (storeSegs w t sp k rel gs bs) ∧ (storeSegs w t sp k rel gs bs).threads = w.threads ∧
      ∀ c, byteAt (storeSegs w t sp k rel gs bs).mem c = (Safety.storedByte gs bs c).getD (byteAt w.mem c) :=
  storeParted_memory hp t sp k rel bs.length 0 gs bs hs hn hm

/-- A part of a store that needs the answer of another agent leaves memory as it is: it stands at the store path (R196). -/
theorem storeSeg_sent (w : World) (t : Nat) (sp : Space) (k : Touch) (rel : Bool) (n o : Nat) (g : Seg) (bs : List Byte)
    (hn : Safety.answers w g.pa = true) : (storeSeg w t sp k rel n o g bs).mem = w.mem := by
  unfold Safety.answers at hn
  unfold storeSeg
  dsimp only
  split
  · rfl
  · unfold dueSeg
    split
    · rfl
    · rfl
    · next h1 h2 =>
      exfalso
      revert hn
      split <;> simp_all

end Sys2Proof.Machine
end

