-- ==== Sys2Proof/Laws/Node.lean ====
section
/-! SUPPORT. What an access of a memory node leaves alone: a load touches caches and counts of traffic only, and a store memory and
poison besides, or the registers of the aperture. -/

namespace Sys2Proof.Machine

/-- `w'` is `w` but for memory, poison and bad metadata, the caches, the counts of traffic, and what the registers of the aperture reach: the dies, the launch
queues and the events of threads. -/
def StoreOnly (w w' : World) : Prop :=
  w' = { w with mem := w'.mem, poison := w'.poison, badMeta := w'.badMeta, cache := w'.cache, nodes := w'.nodes, moduleNode := w'.moduleNode
                dies := w'.dies
                queues := w'.queues, msix := w'.msix, threads := w'.threads, owed := w'.owed }

theorem StoreOnly.refl (w : World) : StoreOnly w w := rfl

theorem StoreOnly.trans {a b c : World} (h1 : StoreOnly a b) (h2 : StoreOnly b c) : StoreOnly a c := by
  unfold StoreOnly at *; rw [h2, h1]

theorem TrafficOnly.store {a b : World} (h : TrafficOnly a b) : StoreOnly a b := by
  unfold TrafficOnly at h; unfold StoreOnly; rw [h]

theorem StoreOnly.elems {a b : World} (h : StoreOnly a b) : b.elems = a.elems := by rw [h]
theorem StoreOnly.regions {a b : World} (h : StoreOnly a b) : b.regions = a.regions := by rw [h]
theorem StoreOnly.tasks {a b : World} (h : StoreOnly a b) : b.tasks = a.tasks := by rw [h]

theorem nodeSegs_cache (w : World) (who : Reach) (sp : Space) (acc : Acc) (reg : Bool) (ps : List (Nat × Nat)) :
    CacheOnly w (nodeSegs w who sp acc reg ps).1 := by
  induction ps generalizing w with
  | nil => exact CacheOnly.refl w
  | cons q ps ih =>
    obtain ⟨va, len⟩ := q
    have h := locate_cache w who sp acc va
    unfold nodeSegs
    generalize locate w who sp acc va = r at h
    obtain ⟨w1, e⟩ := r
    cases e with
    | error f => exact h
    | ok x =>
      dsimp only
      split
      · exact h
      · have h2 := h.trans (ih w1)
        generalize nodeSegs w1 who sp acc reg ps = r2 at h2
        obtain ⟨w2, e2⟩ := r2
        cases e2 <;> exact h2

theorem nodeAccess_cache (w : World) (who : Reach) (sp : Space) (acc : Acc) (va n : Nat) :
    CacheOnly w (nodeAccess w who sp acc va n).1 := nodeSegs_cache ..

theorem touchParts_traffic (w : World) (who : Reach) (task : Option Nat) (k : Touch) (gs : List Seg) :
    TrafficOnly w (touchParts w who task k gs) := by
  unfold touchParts
  induction gs generalizing w with
  | nil => exact TrafficOnly.refl w
  | cons g gs ih => exact (touch_traffic ..).trans (ih _)

/-- A node's load leaves everything but caches and counts of traffic. -/
theorem nodeLoad_traffic (w : World) (who : Reach) (task : Option Nat) (sp : Space) (k : Touch) (va n : Nat) :
    TrafficOnly w (nodeLoad w who task sp k va n).1 := by
  have h := (nodeAccess_cache w who sp .load va n).traffic
  unfold nodeLoad
  generalize nodeAccess w who sp .load va n = r at h
  obtain ⟨w1, e⟩ := r
  cases e with
  | error f => exact h
  | ok gs => exact h.trans (touchParts_traffic ..)

theorem storePhys_store (w : World) (pa : Nat) (bs : List Byte) : StoreOnly w (storePhys w pa bs).1 := by
  induction bs generalizing pa with
  | nil => exact StoreOnly.refl w
  | cons b bs ih =>
    have h := ih (pa + 1)
    simp only [storePhys]
    generalize storePhys w (pa + 1) bs = r at h
    obtain ⟨w1, l⟩ := r
    dsimp only
    split
    · exact h
    · exact h.trans rfl

theorem cleanPoison_store (w : World) (pa n : Nat) : StoreOnly w (cleanPoison w pa n) := by
  have hr : ∀ (w : World) (line : Nat), StoreOnly w (renewMeta w line) := fun w line => by unfold renewMeta; split <;> rfl
  have h : StoreOnly w (if w.badMeta.isEmpty then w else (linesOf (homeOf w pa) n).foldl (fun w p => renewMeta w (p.1 / 128)) w) := by
    split
    · exact StoreOnly.refl w
    · exact foldl_only StoreOnly.refl StoreOnly.trans (fun w (p : Nat × Nat) => renewMeta w (p.1 / 128)) (fun _ _ => hr ..) _ _
  simp only [cleanPoison]
  generalize (if w.badMeta.isEmpty then w else (linesOf (homeOf w pa) n).foldl (fun w p => renewMeta w (p.1 / 128)) w) = v at h ⊢
  split
  · exact h
  · exact h.trans rfl

theorem storeMem_store (w : World) (who : Reach) (task : Option Nat) (pa : Nat) (t : Touch) (bs : List Byte) :
    StoreOnly w (storeMem w who task pa t bs).1 := by
  have h0 : StoreOnly w (cleanPoison w pa bs.length) := cleanPoison_store ..
  exact (h0.trans (storePhys_store ..)).trans (touch_traffic ..).store

theorem setThread_store (w : World) (t : Nat) (x : Thread) : StoreOnly w (w.setThread t x) := rfl

/-- An event that brings no record reaches its thread, or waits. -/
theorem raise_store (w : World) (t code : Nat) (v : Word) : StoreOnly w (raise w t code v) := by
  unfold raise send
  split <;> rfl

theorem writeRegister_store (w : World) (r : Register) (v : Nat) : StoreOnly w (writeRegister w r v) := by
  unfold writeRegister
  split
  all_goals first
    | rfl
    | (split <;> rfl)
    | exact setThread_store ..
    | skip
  · unfold writeQueueControl writeQen withdrawOffers
    dsimp only
    split <;> split <;> rfl
  · unfold writeIrq
    dsimp only
    split
    · rfl
    · exact raise_store ..

theorem mmioWrite_store (w : World) (pa n v : Nat) : StoreOnly w (mmioWrite w pa n v) := by
  unfold mmioWrite
  dsimp only
  split <;> exact writeRegister_store ..

theorem storePart_store (w : World) (who : Reach) (task : Option Nat) (k : Touch) (g : Seg) (bs : List Byte) :
    StoreOnly w (storePart w who task k g bs).1 := by
  unfold storePart
  split
  · exact mmioWrite_store ..
  · exact storeMem_store ..

theorem storeParts_store (w : World) (who : Reach) (task : Option Nat) (k : Touch) (gs : List Seg) (bs : List Byte) :
    StoreOnly w (storeParts w who task k gs bs).1 := by
  induction gs generalizing w bs with
  | nil => exact StoreOnly.refl w
  | cons g gs ih => exact (storePart_store ..).trans (ih ..)

/-- A node's store leaves everything but memory, poison, caches, counts of traffic, and what registers reach. -/
theorem nodeStore_store (w : World) (who : Reach) (task : Option Nat) (sp : Space) (k : Touch) (va : Nat) (bs : List Byte) :
    StoreOnly w (nodeStore w who task sp k va bs).1 := by
  have h := (nodeAccess_cache w who sp .store va bs.length).traffic
  unfold nodeStore
  generalize nodeAccess w who sp .store va bs.length = r at h
  obtain ⟨w1, e⟩ := r
  cases e with
  | error f => exact h.store
  | ok gs => exact h.store.trans (storeParts_store ..)

theorem mem_writeRegister (w : World) (r : Register) (v : Nat) : (writeRegister w r v).mem = w.mem := by
  have hr : ∀ (w : World) (t code : Nat) (v : Word), (raise w t code v).mem = w.mem := fun w t code v => by
    unfold raise send; split <;> rfl
  unfold writeRegister
  split
  all_goals first
    | rfl
    | (split <;> rfl)
    | skip
  · unfold writeQueueControl writeQen withdrawOffers
    dsimp only
    split <;> split <;> rfl
  · unfold writeIrq
    dsimp only
    split
    · rfl
    · exact hr ..

theorem mem_mmioWrite (w : World) (pa n v : Nat) : (mmioWrite w pa n v).mem = w.mem := by
  unfold mmioWrite
  dsimp only
  split <;> exact mem_writeRegister ..

/-- A node's store keeps the canonical form of memory. -/
theorem wf_storeParts {w : World} (h : Memory.wf w.mem = true) (who : Reach) (task : Option Nat) (k : Touch) (gs : List Seg) (bs : List Byte) :
    Memory.wf (storeParts w who task k gs bs).1.mem = true := by
  induction gs generalizing w bs with
  | nil => exact h
  | cons g gs ih =>
    refine ih ?_ _
    unfold storePart
    split
    · rw [mem_mmioWrite]; exact h
    · exact wf_storeMem h ..

theorem wf_nodeStore {w : World} (h : Memory.wf w.mem = true) (who : Reach) (task : Option Nat) (sp : Space) (k : Touch) (va : Nat) (bs : List Byte) :
    Memory.wf (nodeStore w who task sp k va bs).1.mem = true := by
  have h1 := (nodeAccess_cache w who sp .store va bs.length).traffic.mem
  unfold nodeStore
  generalize nodeAccess w who sp .store va bs.length = r at h1
  obtain ⟨w1, e⟩ := r
  rw [← h1] at h
  cases e with
  | error f => exact h
  | ok gs => exact wf_storeParts h ..

/-- Between two blocks an event that answers `event f` leaves the device as `f` makes it. -/
theorem happens_of {s : State} {i : Instr} {P : World → Prop} (f : World → World) (h : exec i s = event f s) (hp : s.txn = none → P (f s.w)) :
    s.txn = none → ∃ w, exec i s = .next { s with w := w } ∧ P w :=
  fun ht => ⟨f s.w, by rw [h, event_between f ht], hp ht⟩

end Sys2Proof.Machine
end

