-- ==== Sys2Proof/Laws/Region.lean ====
section
/-! SUPPORT. Which operations touch no more than the regions, the elements or the chains. -/

namespace Sys2Proof.Machine

/-- `w'` is `w` but for the regions. -/
def RegionOnly (w w' : World) : Prop := w' = { w with regions := w'.regions }

theorem RegionOnly.refl (w : World) : RegionOnly w w := rfl
theorem RegionOnly.trans {a b c : World} (h1 : RegionOnly a b) (h2 : RegionOnly b c) : RegionOnly a c := by
  unfold RegionOnly at *; rw [h2, h1]
theorem RegionOnly.mem {a b : World} (h : RegionOnly a b) : b.mem = a.mem := by rw [h]
theorem RegionOnly.threads {a b : World} (h : RegionOnly a b) : b.threads = a.threads := by rw [h]
theorem RegionOnly.elems {a b : World} (h : RegionOnly a b) : b.elems = a.elems := by rw [h]
theorem RegionOnly.elem {a b : World} (h : RegionOnly a b) (e : Nat) : b.elem e = a.elem e := by
  show tabGet _ _ b.elems = _; rw [h.elems]; rfl
theorem RegionOnly.cycle {a b : World} (h : RegionOnly a b) : b.cycle = a.cycle := by rw [h]

theorem setRegion_only (w : World) (r : Nat) (g : Region) : RegionOnly w (w.setRegion r g) := rfl

theorem elemFault_only (w : World) (e c : Nat) : RegionOnly w (elemFault w e c) := by
  unfold elemFault
  split
  · dsimp only; split <;> rfl
  · rfl

theorem moved_only (w : World) (e : Nat) : RegionOnly w (moved w e) := by
  unfold moved
  split
  · unfold headsChecked
    split
    · exact RegionOnly.trans (setRegion_only ..) (elemFault_only ..)
    · exact setRegion_only ..
  · rfl

theorem raiseNfl_only (w : World) (e : Nat) (f : Flags) : RegionOnly w (raiseNfl w e f) := by
  unfold raiseNfl
  split
  · split <;> rfl
  · rfl

theorem requestCut_only (w : World) (r : Nat) : RegionOnly w (requestCut w r) := by
  unfold requestCut; dsimp only; split <;> rfl

theorem logFull_only (w : World) (e : Nat) : RegionOnly w (logFull w e) := by
  unfold logFull
  split
  · split
    · exact requestCut_only ..
    · rfl
  · rfl

theorem elem_setElem (w : World) (e f : Nat) (x : Elem) : (w.setElem e x).elem f = if f = e then x else w.elem f := tabGet_tabSet ..

@[simp] theorem elem_setElem_same (w : World) (e : Nat) (x : Elem) : (w.setElem e x).elem e = x := tabGet_tabSet_same ..

theorem region_setRegion (w : World) (r q : Nat) (x : Region) : (w.setRegion r x).region q = if q = r then x else w.region q := tabGet_tabSet ..

@[simp] theorem region_setRegion_same (w : World) (r : Nat) (x : Region) : (w.setRegion r x).region r = x := tabGet_tabSet_same ..

/-- What the end of an access leaves: its element's entry, log and what may leave; streams and regions besides. -/
theorem finishAccess_spec (w : World) (e i v : Nat) (a : Access) (h : (w.elem e).acc[i]? = some a) :
    (finishAccess w e i v).mem = w.mem ∧ (finishAccess w e i v).threads = w.threads ∧
      (∀ f, f ≠ e → (finishAccess w e i v).elem f = w.elem f) ∧
      (finishAccess w e i v).elem e = Elem.deliver { w.elem e with
        acc := listSet (w.elem e).acc i (a.complete v).1, busyAt := w.cycle
        log := (w.elem e).logWith a v } := by
  unfold finishAccess countElem
  simp only [h]
  generalize hw1 : (if a.op = .none ∨ headerFmt ≤ a.fmt then w else w.setStream (streamKey w e a.h)
    { w.stream (streamKey w e a.h) with cnt := min ((w.stream (streamKey w e a.h)).cnt + 1) 0xFFFFFFFF }) = w1
  have h1 : w1 = { w with streams := w1.streams } := by
    rw [← hw1]; split <;> rfl
  have key : ∀ y : Elem, RegionOnly (w1.setElem e y) (logFull (raiseNfl (moved (w1.setElem e y) e) e (a.complete v).2) e) := fun y =>
    ((moved_only ..).trans (raiseNfl_only ..)).trans (logFull_only ..)
  have hk := key (Elem.deliver { w.elem e with
        acc := listSet (w.elem e).acc i (a.complete v).1
        log := (w.elem e).logWith a v
        busyAt := w1.cycle })
  have hc : w1.cycle = w.cycle := by rw [h1]
  rw [hc] at hk
  simp only [hc]
  refine ⟨?_, ?_, ?_, ?_⟩
  · rw [hk.mem]; show w1.mem = w.mem; rw [h1]
  · rw [hk.threads]; show w1.threads = w.threads; rw [h1]
  · intro f hf
    rw [hk.elem, elem_setElem, if_neg hf]
    show tabGet _ _ w1.elems = _; rw [h1]; rfl
  · rw [hk.elem, elem_setElem_same]

end Sys2Proof.Machine
end

