-- ==== Sys2Proof/Laws/Fabric.lean ====
section
/-! SUPPORT. Handing tokens, control bits, headers and markers on touches no more than the elements and the regions. -/

namespace Sys2Proof.Machine

/-- `w'` is `w` but for the elements and the regions. -/
def FabricOnly (w w' : World) : Prop := w' = { w with elems := w'.elems, regions := w'.regions }

theorem FabricOnly.refl (w : World) : FabricOnly w w := rfl
theorem FabricOnly.trans {a b c : World} (h1 : FabricOnly a b) (h2 : FabricOnly b c) : FabricOnly a c := by
  unfold FabricOnly at *; rw [h2, h1]
theorem FabricOnly.mem {a b : World} (h : FabricOnly a b) : b.mem = a.mem := by rw [h]
theorem FabricOnly.threads {a b : World} (h : FabricOnly a b) : b.threads = a.threads := by rw [h]
theorem FabricOnly.cycle {a b : World} (h : FabricOnly a b) : b.cycle = a.cycle := by rw [h]
theorem RegionOnly.fabric {a b : World} (h : RegionOnly a b) : FabricOnly a b := by
  unfold RegionOnly at h; unfold FabricOnly; rw [h]

theorem setElem_fabric (w : World) (e : Nat) (x : Elem) : FabricOnly w (w.setElem e x) := rfl

theorem elemFault_fabric (w : World) (e c : Nat) : FabricOnly w (elemFault w e c) := (elemFault_only w e c).fabric

/-- An element set, and a token of its region moved. -/
theorem moved_setElem_fabric (w : World) (e : Nat) (x : Elem) : FabricOnly w (moved (w.setElem e x) e) :=
  (setElem_fabric w e x).trans (moved_only ..).fabric

theorem enqueue_fabric (w : World) (e p h : Nat) (now : Bool) (t : Token) : FabricOnly w (enqueue w e p h now t) := by
  unfold enqueue headsChecked
  dsimp only
  split
  · split
    · exact (setElem_fabric ..).trans (elemFault_fabric ..)
    · exact setElem_fabric ..
  · exact setElem_fabric ..

/-- What handing a token on leaves where it is taken. -/
theorem toPort_fabric {w v : World} {e p : Nat} {now : Bool} {t : Token} (h : toPort w e p now t = .taken v) : FabricOnly w v := by
  unfold toPort at h
  dsimp only at h
  split at h
  · cases h
  · split at h
    · split at h
      · cases h
        exact foldl_only FabricOnly.refl FabricOnly.trans _ (fun w k => enqueue_fabric w e p k now t) _ _
      · cases h
    · split at h
      · cases h
      · split at h
        · cases h; exact enqueue_fabric ..
        · cases h

theorem toPorts_fabric {e : Nat} {t : Token} (ps : List Nat) : ∀ {w v : World}, toPorts w e t ps = .taken v → FabricOnly w v := by
  induction ps with
  | nil => intro w v h; cases h; rfl
  | cons p rest ih =>
    intro w v h
    unfold toPorts at h
    split at h
    · next u hu => exact (toPort_fabric hu).trans (ih h)
    · next hn => exact absurd h (by intro he; exact hn _ he)

theorem toLane_fabric {w v : World} {e dir lane : Nat} {t : Token} (h : toLane w e dir lane t = .taken v) : FabricOnly w v := by
  unfold toLane at h
  split at h
  · cases h
  · split at h
    · cases h
    · split at h
      · cases h
      · cases h
      · dsimp only at h
        split at h
        · cases h
        · split at h
          · split at h
            · split at h <;> cases h
            · exact toPorts_fabric _ h
          · split at h
            · split at h <;> cases h
            · split at h
              · cases h
              · cases h; exact setElem_fabric ..

theorem toLanes_fabric {e : Nat} {t : Token} (ls : List Nat) : ∀ {w v : World}, toLanes w e t ls = .taken v → FabricOnly w v := by
  induction ls with
  | nil => intro w v h; cases h; rfl
  | cons l rest ih =>
    intro w v h
    unfold toLanes at h
    split at h
    · next u hu => exact (toLane_fabric hu).trans (ih h)
    · next hn => exact absurd h (by intro he; exact hn _ he)

theorem toCtl_fabric {e : Nat} {b : CtlBit} (ds : List Nat) : ∀ {w v : World}, toCtl w e b ds = .taken v → FabricOnly w v := by
  induction ds with
  | nil => intro w v h; cases h; rfl
  | cons d rest ih =>
    intro w v h
    unfold toCtl at h
    split at h
    · cases h
    · extract_lets x src reads passes y z at h
      split at h
      · cases h
      · split at h
        · cases h
        · split at h
          · split at h <;> cases h
          · split at h <;> split at h
            · cases h
            · split at h
              · cases h
              · exact (setElem_fabric ..).trans (ih h)
            · cases h
            · split at h
              · cases h
              · exact (setElem_fabric ..).trans (ih h)

theorem latchHeader_fabric (w : World) (e q h : Nat) : FabricOnly w (latchHeader w e q h) := by
  cases hh : (w.elem e).head q h with
  | none => simp only [latchHeader, hh]; exact FabricOnly.refl _
  | some t =>
    simp only [latchHeader, hh]
    split
    · exact FabricOnly.refl _
    · split
      · exact elemFault_fabric ..
      · split
        · exact moved_setElem_fabric ..
        · split
          · exact moved_setElem_fabric ..
          · exact FabricOnly.refl _

theorem recordCut_fabric (w : World) (e : Nat) : FabricOnly w (recordCut w e) := by
  unfold recordCut
  split
  · rfl
  · dsimp only
    split
    · rfl
    · split
      · split
        · exact moved_setElem_fabric ..
        · rfl
      · split
        · split
          · exact moved_setElem_fabric ..
          · rfl
        · split
          · exact moved_setElem_fabric ..
          · split
            · exact moved_setElem_fabric ..
            · rfl

theorem sendControl_fabric (w : World) (e : Nat) : FabricOnly w (sendControl w e) := by
  unfold sendControl
  split
  · rfl
  · split
    · rfl
    · split
      · rfl
      · exact elemFault_fabric ..
      · next hv => exact (toCtl_fabric _ hv).trans (moved_setElem_fabric ..)

theorem xbSwitched_fabric (w : World) (e dir : Nat) : FabricOnly w (xbSwitched w e dir) := by
  unfold xbSwitched
  dsimp only
  split <;> exact setElem_fabric ..

theorem sendCrossbar_fabric (w : World) (e dir : Nat) : FabricOnly w (sendCrossbar w e dir) := by
  have fin (v : World) (x : Elem) (b : Bool) : FabricOnly v
      (if b then xbSwitched (moved (v.setElem e x) e) e dir else moved (v.setElem e x) e) := by
    split
    · exact (moved_setElem_fabric ..).trans (xbSwitched_fabric ..)
    · exact moved_setElem_fabric ..
  unfold sendCrossbar
  extract_lets x t f on pass drop fin' p dropTo passed
  split
  · exact FabricOnly.refl _
  · split
    · split
      · exact FabricOnly.refl _
      · exact elemFault_fabric ..
    · have h1 {v : World} (hv : passed = .taken v) : FabricOnly w v := by
        simp only [passed] at hv
        split at hv
        · cases hv; exact FabricOnly.refl _
        · exact toLane_fabric hv
      have h2 {v u : World} (hu : dropTo v = .taken u) : FabricOnly v u := by
        simp only [dropTo] at hu
        split at hu
        · exact toPort_fabric hu
        · split at hu <;> cases hu
      cases hp : passed with
      | held => exact FabricOnly.refl _
      | fault a c => exact elemFault_fabric ..
      | taken v =>
        dsimp only
        split
        · exact (h1 hp).trans (fin ..)
        · cases hd : dropTo v with
          | held => exact FabricOnly.refl _
          | fault a c => exact elemFault_fabric ..
          | taken u => exact ((h1 hp).trans (h2 hd)).trans (fin ..)

end Sys2Proof.Machine
end

