-- ==== Sys2Proof/Tests/Slice0.lean ====
section
/-! SUPPORT. Tests: expected values are written out from the spec's tables and examples; a witness shows a state that meets a
statement's hypotheses. -/

namespace Sys2Proof.Tests

open Sys2Proof.Machine Sys2Proof.Safety


set_option Elab.async false
/-- Words written from the opcode table's fixed bits and fields (R217, R181, R182). -/
theorem test_decode_nop_to_mulhn : ∀ q ∈ ([
    (0x00000000, 0x0, .nop ⟨0, false⟩),
    (0xB0000001, 0x0, .halt ⟨5, true⟩),
    (0x000002D2, 0x0, .trap ⟨0, false⟩ 45),
    (0xB0000003, 0x0, .eret ⟨5, true⟩),
    (0x000002D4, 0x0, .ecall ⟨0, false⟩ 45),
    (0xB00002D5, 0x0, .bkpt ⟨5, true⟩ 45),
    (0x00000006, 0x0, .yield ⟨0, false⟩),
    (0xB0000007, 0x0, .wfe ⟨5, true⟩),
    (0x00000008, 0x0, .sev ⟨0, false⟩),
    (0xB06A5730, 0x0, .add ⟨5, true⟩ 42 21 51),
    (0x006A5731, 0x0, .sub ⟨0, false⟩ 42 21 51),
    (0xB06A5732, 0x0, .and ⟨5, true⟩ 42 21 51),
    (0x006A5733, 0x0, .or ⟨0, false⟩ 42 21 51),
    (0xB06A5734, 0x0, .xor ⟨5, true⟩ 42 21 51),
    (0x006A5735, 0x0, .andn ⟨0, false⟩ 42 21 51),
    (0xB06A5736, 0x0, .orn ⟨5, true⟩ 42 21 51),
    (0x006A5737, 0x0, .shl ⟨0, false⟩ 42 21 51),
    (0xB06A5738, 0x0, .shr ⟨5, true⟩ 42 21 51),
    (0x006A5739, 0x0, .sra ⟨0, false⟩ 42 21 51),
    (0xB06A573A, 0x0, .rol ⟨5, true⟩ 42 21 51),
    (0x006A573B, 0x0, .ror ⟨0, false⟩ 42 21 51),
    (0xB06A573C, 0x0, .min ⟨5, true⟩ 42 21 51),
    (0x006A573D, 0x0, .max ⟨0, false⟩ 42 21 51),
    (0xB06A573E, 0x0, .minn ⟨5, true⟩ 42 21 51),
    (0x006A573F, 0x0, .maxn ⟨0, false⟩ 42 21 51),
    (0xB0AA5730, 0x0, .mul ⟨5, true⟩ 42 21 51),
    (0x00AA5731, 0x0, .mulh ⟨0, false⟩ 42 21 51),
    (0xB0AA5732, 0x0, .mulhn ⟨5, true⟩ 42 21 51)] :
    List (W32 × W32 × Instr)), (decode q.1 q.2.1).toOption = some q.2.2 := by decide +kernel

/-- Words written from the opcode table's fixed bits and fields (R182, R183, R185). -/
theorem test_decode_div_to_cbit : ∀ q ∈ ([
    (0x00AA5733, 0x0, .div ⟨0, false⟩ 42 21 51),
    (0xB0AA5734, 0x0, .divn ⟨5, true⟩ 42 21 51),
    (0x00AA5735, 0x0, .rem ⟨0, false⟩ 42 21 51),
    (0xB0AA5736, 0x0, .remn ⟨5, true⟩ 42 21 51),
    (0x00AA5407, 0x0, .clz ⟨0, false⟩ 42 21),
    (0xB0AA5408, 0x0, .ctz ⟨5, true⟩ 42 21),
    (0x00AA5409, 0x0, .popc ⟨0, false⟩ 42 21),
    (0xB0AA540A, 0x0, .brev ⟨5, true⟩ 42 21),
    (0x00AA540B, 0x0, .bswap ⟨0, false⟩ 42 21),
    (0xB0EA5730, 0x0, .addW ⟨5, true⟩ 42 21 51),
    (0x00EA5731, 0x0, .subW ⟨0, false⟩ 42 21 51),
    (0xB0EA5732, 0x0, .mulW ⟨5, true⟩ 42 21 51),
    (0x00EA5733, 0x0, .shlW ⟨0, false⟩ 42 21 51),
    (0xB0EA5734, 0x0, .shrW ⟨5, true⟩ 42 21 51),
    (0x00EA5735, 0x0, .sraW ⟨0, false⟩ 42 21 51),
    (0xB0EA5736, 0x0, .addsat ⟨5, true⟩ 42 21 51),
    (0x00EA5737, 0x0, .subsat ⟨0, false⟩ 42 21 51),
    (0xB0EA5408, 0x0, .sextb ⟨5, true⟩ 42 21),
    (0x00EA5409, 0x0, .sexth ⟨0, false⟩ 42 21),
    (0xB0EA540A, 0x0, .sextw ⟨5, true⟩ 42 21),
    (0x00EA540B, 0x0, .zextw ⟨0, false⟩ 42 21),
    (0xB1055730, 0x0, .ceq ⟨5, true⟩ 5 21 51),
    (0x01055731, 0x0, .cne ⟨0, false⟩ 5 21 51),
    (0xB1055732, 0x0, .clt ⟨5, true⟩ 5 21 51),
    (0x01055733, 0x0, .cle ⟨0, false⟩ 5 21 51),
    (0xB1055734, 0x0, .cltn ⟨5, true⟩ 5 21 51),
    (0x01055735, 0x0, .clen ⟨0, false⟩ 5 21 51),
    (0xB1055736, 0x0, .cbit ⟨5, true⟩ 5 21 51)] :
    List (W32 × W32 × Instr)), (decode q.1 q.2.1).toOption = some q.2.2 := by decide +kernel

/-- Words written from the opcode table's fixed bits and fields (R186, R187, R184, R185, R198). -/
theorem test_decode_pand_to_ldBn : ∀ q ∈ ([
    (0x01051837, 0x0, .pand ⟨0, false⟩ 5 6 3),
    (0xB1051838, 0x0, .por ⟨5, true⟩ 5 6 3),
    (0x01051839, 0x0, .pxor ⟨0, false⟩ 5 6 3),
    (0xB105183A, 0x0, .pandn ⟨5, true⟩ 5 6 3),
    (0x0105180B, 0x0, .pnot ⟨0, false⟩ 5 6),
    (0xB12A180C, 0x0, .p2g ⟨5, true⟩ 42 6),
    (0x0105540D, 0x0, .g2p ⟨0, false⟩ 5 21),
    (0xB16A5400, 0x0, .mov ⟨5, true⟩ 42 21),
    (0x016A5731, 0x0, .sel ⟨0, false⟩ 42 21 51),
    (0xB16A5732, 0x0, .lea1 ⟨5, true⟩ 42 21 51),
    (0x016A5733, 0x0, .lea2 ⟨0, false⟩ 42 21 51),
    (0xB16A5734, 0x0, .lea4 ⟨5, true⟩ 42 21 51),
    (0x016A5735, 0x0, .lea8 ⟨0, false⟩ 42 21 51),
    (0xB16A5736, 0x0, .lea16 ⟨5, true⟩ 42 21 51),
    (0x016A5737, 0x0, .alignd ⟨0, false⟩ 42 21 51),
    (0xB16A5738, 0x0, .alignn ⟨5, true⟩ 42 21 51),
    (0x01AA57FD, 0x0, .addi ⟨0, false⟩ 42 21 0x3fd),
    (0xB1EA57FD, 0x0, .andi ⟨5, true⟩ 42 21 0x3fd),
    (0x022A57FD, 0x0, .ori ⟨0, false⟩ 42 21 0x3fd),
    (0xB26A57FD, 0x0, .xori ⟨5, true⟩ 42 21 0x3fd),
    (0x02AA57FD, 0x0, .shli ⟨0, false⟩ 42 21 0x3fd),
    (0xB2EA57FD, 0x0, .shri ⟨5, true⟩ 42 21 0x3fd),
    (0x032A57FD, 0x0, .srai ⟨0, false⟩ 42 21 0x3fd),
    (0xB34557FD, 0x0, .ceqi ⟨5, true⟩ 5 21 0x3fd),
    (0x038557FD, 0x0, .clti ⟨0, false⟩ 5 21 0x3fd),
    (0xB3C557FD, 0x0, .cltni ⟨5, true⟩ 5 21 0x3fd),
    (0x042A57FD, 0x0, .ldB ⟨0, false⟩ 42 21 0x3fd),
    (0xB46A57FD, 0x0, .ldBn ⟨5, true⟩ 42 21 0x3fd)] :
    List (W32 × W32 × Instr)), (decode q.1 q.2.1).toOption = some q.2.2 := by decide +kernel

/-- Words written from the opcode table's fixed bits and fields (R198, R199, R202). -/
theorem test_decode_ldH_to_fenceDie : ∀ q ∈ ([
    (0x04AA57FD, 0x0, .ldH ⟨0, false⟩ 42 21 0x3fd),
    (0xB4EA57FD, 0x0, .ldHn ⟨5, true⟩ 42 21 0x3fd),
    (0x052A57FD, 0x0, .ldW ⟨0, false⟩ 42 21 0x3fd),
    (0xB56A57FD, 0x0, .ldWn ⟨5, true⟩ 42 21 0x3fd),
    (0x05AA57FD, 0x0, .ldD ⟨0, false⟩ 42 21 0x3fd),
    (0xB5EA57FD, 0x0, .stB ⟨5, true⟩ 42 21 0x3fd),
    (0x062A57FD, 0x0, .stH ⟨0, false⟩ 42 21 0x3fd),
    (0xB66A57FD, 0x0, .stW ⟨5, true⟩ 42 21 0x3fd),
    (0x06AA57FD, 0x0, .stD ⟨0, false⟩ 42 21 0x3fd),
    (0xB6EA5730, 0x0, .ldxD ⟨5, true⟩ 42 21 51),
    (0x06EA5731, 0x0, .stxD ⟨0, false⟩ 42 21 51),
    (0xB6EA5732, 0x0, .ldxW ⟨5, true⟩ 42 21 51),
    (0x06EA5733, 0x0, .stxW ⟨0, false⟩ 42 21 51),
    (0xB6EA5404, 0x0, .ldNa ⟨5, true⟩ 42 21),
    (0x06EA5405, 0x0, .stNa ⟨0, false⟩ 42 21),
    (0xB6C05406, 0x0, .pref ⟨5, true⟩ 21),
    (0x06C05407, 0x0, .clean ⟨0, false⟩ 21),
    (0xB6C05408, 0x0, .flush ⟨5, true⟩ 21),
    (0x072A5400, 0x0, .ldAcqCore ⟨0, false⟩ 42 21),
    (0xB72A5401, 0x0, .ldAcqDie ⟨5, true⟩ 42 21),
    (0x072A5402, 0x0, .ldAcqPkg ⟨0, false⟩ 42 21),
    (0xB72A5403, 0x0, .ldAcqSys ⟨5, true⟩ 42 21),
    (0x072A5404, 0x0, .stRelCore ⟨0, false⟩ 42 21),
    (0xB72A5405, 0x0, .stRelDie ⟨5, true⟩ 42 21),
    (0x072A5406, 0x0, .stRelPkg ⟨0, false⟩ 42 21),
    (0xB72A5407, 0x0, .stRelSys ⟨5, true⟩ 42 21),
    (0x07000008, 0x0, .fenceCore ⟨0, false⟩),
    (0xB7000009, 0x0, .fenceDie ⟨5, true⟩)] :
    List (W32 × W32 × Instr)), (decode q.1 q.2.1).toOption = some q.2.2 := by decide +kernel

/-- Words written from the opcode table's fixed bits and fields (R202, R204, R206, R207, R209, R210, R211, R212, R190). -/
theorem test_decode_fencePkg_to_fmax : ∀ q ∈ ([
    (0x0700000A, 0x0, .fencePkg ⟨0, false⟩),
    (0xB700000B, 0x0, .fenceSys ⟨5, true⟩),
    (0x076A5730, 0x0, .amoadd ⟨0, false⟩ 42 21 51),
    (0xB76A5731, 0x0, .amoand ⟨5, true⟩ 42 21 51),
    (0x076A5732, 0x0, .amoor ⟨0, false⟩ 42 21 51),
    (0xB76A5733, 0x0, .amoxor ⟨5, true⟩ 42 21 51),
    (0x076A5734, 0x0, .amomin ⟨0, false⟩ 42 21 51),
    (0xB76A5735, 0x0, .amomax ⟨5, true⟩ 42 21 51),
    (0x076A5736, 0x0, .amominn ⟨0, false⟩ 42 21 51),
    (0xB76A5737, 0x0, .amomaxn ⟨5, true⟩ 42 21 51),
    (0x076A5738, 0x0, .amoswap ⟨0, false⟩ 42 21 51),
    (0xB76A5739, 0x0, .amocas ⟨5, true⟩ 42 21 51),
    (0x076A573A, 0x0, .amoaddW ⟨0, false⟩ 42 21 51),
    (0xB76A573B, 0x0, .amoswapW ⟨5, true⟩ 42 21 51),
    (0x076A573C, 0x0, .amocasW ⟨0, false⟩ 42 21 51),
    (0xB7AA0000, 0x0, .sfence ⟨5, true⟩ 42),
    (0x07AA0001, 0x0, .qfence ⟨0, false⟩ 42),
    (0xB7AA5402, 0x0, .barrive ⟨5, true⟩ 42 21),
    (0x07AA5403, 0x0, .bwait ⟨0, false⟩ 42 21),
    (0xB7AA5404, 0x0, .wstamp ⟨5, true⟩ 42 21),
    (0x07AA5735, 0x0, .rinit ⟨0, false⟩ 42 21 51),
    (0xB7AA5736, 0x0, .rget ⟨5, true⟩ 42 21 51),
    (0x07C10864, 0x0, .waitc ⟨0, false⟩ 1 2 3 4),
    (0xB82A5730, 0x0, .fadd ⟨5, true⟩ 42 21 51),
    (0x082A5731, 0x0, .fsub ⟨0, false⟩ 42 21 51),
    (0xB82A5732, 0x0, .fmul ⟨5, true⟩ 42 21 51),
    (0x082A5733, 0x0, .fmin ⟨0, false⟩ 42 21 51),
    (0xB82A5734, 0x0, .fmax ⟨5, true⟩ 42 21 51)] :
    List (W32 × W32 × Instr)), (decode q.1 q.2.1).toOption = some q.2.2 := by decide +kernel

/-- Words written from the opcode table's fixed bits and fields (R190, R191, R192, R194, R214, R226, R225, R78, R81). -/
theorem test_decode_fabs_to_cfgsw : ∀ q ∈ ([
    (0x082A5405, 0x0, .fabs ⟨0, false⟩ 42 21),
    (0xB82A5406, 0x0, .fneg ⟨5, true⟩ 42 21),
    (0x08055737, 0x0, .fceq ⟨0, false⟩ 5 21 51),
    (0xB8055738, 0x0, .fclt ⟨5, true⟩ 5 21 51),
    (0x08055739, 0x0, .fcle ⟨0, false⟩ 5 21 51),
    (0xB82A540A, 0x0, .fcvti ⟨5, true⟩ 42 21),
    (0x082A540B, 0x0, .fcvtf ⟨0, false⟩ 42 21),
    (0xB82A540C, 0x0, .fxexp ⟨5, true⟩ 42 21),
    (0x082A573D, 0x0, .fscale ⟨0, false⟩ 42 21 51),
    (0xB82A573E, 0x0, .ffma ⟨5, true⟩ 42 21 51),
    (0x082A540F, 0x0, .fclass ⟨0, false⟩ 42 21),
    (0xB86A5400, 0x0, .fwbf ⟨5, true⟩ 42 21),
    (0x086A5401, 0x0, .bffw ⟨0, false⟩ 42 21),
    (0xB86A5402, 0x0, .fwh ⟨5, true⟩ 42 21),
    (0x086A5403, 0x0, .hfw ⟨0, false⟩ 42 21),
    (0xB86A5404, 0x0, .fws ⟨5, true⟩ 42 21),
    (0x086A5405, 0x0, .sfw ⟨0, false⟩ 42 21),
    (0xB86A5406, 0x0, .fwb8 ⟨5, true⟩ 42 21),
    (0x086A5407, 0x0, .b8fw ⟨0, false⟩ 42 21),
    (0xB8AA0004, 0x0, .csrr ⟨5, true⟩ 42 4),
    (0x08EA5404, 0x0, .csrw ⟨0, false⟩ 42 21 4),
    (0xB92A5404, 0x0, .csrs ⟨5, true⟩ 42 21 4),
    (0x096A5404, 0x0, .csrc ⟨0, false⟩ 42 21 4),
    (0xB9AA5400, 0x0, .rgalloc ⟨5, true⟩ 42 21),
    (0x09AA0001, 0x0, .rgfree ⟨0, false⟩ 42),
    (0xB9AA5402, 0x0, .cfgld ⟨5, true⟩ 42 21),
    (0x09AA5403, 0x0, .cfgwr ⟨0, false⟩ 42 21),
    (0xB9AA0004, 0x0, .cfgsw ⟨5, true⟩ 42)] :
    List (W32 × W32 × Instr)), (decode q.1 q.2.1).toOption = some q.2.2 := by decide +kernel

/-- Words written from the opcode table's fixed bits and fields (R85, R227, R228, R229, R225, R230, R231, R233, R232, R234, R235, R236, R237, R238, R239, R242, R243). -/
theorem test_decode_cfgdrop_to_cpym : ∀ q ∈ ([
    (0x09AA0005, 0x0, .cfgdrop ⟨0, false⟩ 42),
    (0xB9AA5406, 0x0, .cfgst ⟨5, true⟩ 42 21),
    (0x09AA5737, 0x0, .rgstart ⟨0, false⟩ 42 21 51),
    (0xB9AA0008, 0x0, .rgstop ⟨5, true⟩ 42),
    (0x09AA5409, 0x0, .rgsave ⟨0, false⟩ 42 21),
    (0xB9AA540A, 0x0, .rgload ⟨5, true⟩ 42 21),
    (0x09AA000B, 0x0, .marker ⟨0, false⟩ 42),
    (0xB9AA540C, 0x0, .tenq ⟨5, true⟩ 42 21),
    (0x0D6A0000, 0x8765ABCD, .cfgwrI ⟨0, false⟩ 42 0x8765ABCD),
    (0xB9EA5400, 0x0, .sbind ⟨5, true⟩ 42 21),
    (0x09EA0001, 0x0, .sunbind ⟨0, false⟩ 42),
    (0xB9EA5402, 0x0, .sstat ⟨5, true⟩ 42 21),
    (0x09EA5403, 0x0, .spush ⟨0, false⟩ 42 21),
    (0xB9EA5404, 0x0, .spop ⟨5, true⟩ 42 21),
    (0x09EA0005, 0x0, .seos ⟨0, false⟩ 42),
    (0xB9EA5406, 0x0, .sctl ⟨5, true⟩ 42 21),
    (0x09EA5407, 0x0, .chainset ⟨0, false⟩ 42 21),
    (0xB9EA5408, 0x0, .chainst ⟨5, true⟩ 42 21),
    (0x0A2A5400, 0x0, .oclaim ⟨0, false⟩ 42 21),
    (0xBA2A0001, 0x0, .orel ⟨5, true⟩ 42),
    (0x0A2A5402, 0x0, .odesc ⟨0, false⟩ 42 21),
    (0xBA2A5403, 0x0, .mzero ⟨5, true⟩ 42 21),
    (0x0A2A5734, 0x0, .mtile ⟨0, false⟩ 42 21 51),
    (0xBA2A5735, 0x0, .mtilet ⟨5, true⟩ 42 21 51),
    (0x0A2A5736, 0x0, .mrec ⟨0, false⟩ 42 21 51),
    (0xBA2A5737, 0x0, .mread ⟨5, true⟩ 42 21 51),
    (0x0A6A5400, 0x0, .cpy ⟨0, false⟩ 42 21),
    (0xBA6A5731, 0x0, .cpym ⟨5, true⟩ 42 21 51)] :
    List (W32 × W32 × Instr)), (decode q.1 q.2.1).toOption = some q.2.2 := by decide +kernel

/-- Words written from the opcode table's fixed bits and fields (R241, R244, R246, R245, R247, R248, R15, R18, R250, R249, R188, R198, R216). -/
theorem test_decode_cpwp_to_bdec : ∀ q ∈ ([
    (0x0A6A5402, 0x0, .cpwp ⟨0, false⟩ 42 21),
    (0xBA6A0003, 0x0, .cpcancel ⟨5, true⟩ 42),
    (0x0AAA0000, 0x0, .selcfg ⟨0, false⟩ 42),
    (0xBAAA5401, 0x0, .selput ⟨5, true⟩ 42 21),
    (0x0AAA0002, 0x0, .seldrain ⟨0, false⟩ 42),
    (0xBAAA5403, 0x0, .selhist ⟨5, true⟩ 42 21),
    (0x0AAA5404, 0x0, .selarm ⟨0, false⟩ 42 21),
    (0xBAAA5405, 0x0, .topk ⟨5, true⟩ 42 21),
    (0x0AEA5400, 0x0, .hwopen ⟨0, false⟩ 42 21),
    (0xBAEA5731, 0x0, .hwfeed ⟨5, true⟩ 42 21 51),
    (0x0AEA5732, 0x0, .hwpic ⟨0, false⟩ 42 21 51),
    (0xBAEA5403, 0x0, .hwclose ⟨5, true⟩ 42 21),
    (0x0AEA5404, 0x0, .hwstat ⟨0, false⟩ 42 21),
    (0xBC2A0000, 0x8765ABCD, .li ⟨5, true⟩ 42 0x8765ABCD),
    (0x0C6A0000, 0x8765ABCD, .lih ⟨0, false⟩ 42 0x8765ABCD),
    (0xBCAA5400, 0x8765ABCD, .addiL ⟨5, true⟩ 42 21 0x8765ABCD),
    (0x0CEA5400, 0x8765ABCD, .ldL ⟨0, false⟩ 42 21 0x8765ABCD),
    (0xBD2A5400, 0x8765ABCD, .stL ⟨5, true⟩ 42 21 0x8765ABCD),
    (0x0E3FFFFE, 0x0, .br ⟨0, false⟩ 0x3ffffe),
    (0xBE7FFFFE, 0x0, .call ⟨5, true⟩ 0x3ffffe),
    (0x0EAA0000, 0x0, .jmp ⟨0, false⟩ 42),
    (0xBEAA0001, 0x0, .callx ⟨5, true⟩ 42),
    (0x0E800002, 0x0, .ret ⟨0, false⟩),
    (0xBEAA5403, 0x0, .tbr ⟨5, true⟩ 42 21),
    (0x0EEAFFFE, 0x0, .bdec ⟨0, false⟩ 42 0xfffe)] :
    List (W32 × W32 × Instr)), (decode q.1 q.2.1).toOption = some q.2.2 := by decide +kernel

/-! ### Ill-formed steps -/

/-- Each check of well-formedness refuses a term: an unassigned CSR number (R176), or an agent the package does not have (R1). -/
theorem test_ill_formed_1 : ∀ i ∈ ([
    .csrr ⟨0, false⟩ 1 0x007, .csrw ⟨0, false⟩ 1 1 0x007, .csrs ⟨0, false⟩ 1 1 0x007, .csrc ⟨0, false⟩ 1 1 0x007, .eventEntry 1280,
    .waitSatisfied 1280, .iadd (320 * 3072) 0, .iadd 0 4, .isub (320 * 3072) 0, .isub 0 4, .imul (320 * 3072) 0, .imul 0 4, .imulh (320 * 3072) 0,
    .imulh 0 4, .iand (320 * 3072) 0, .iand 0 4, .ior (320 * 3072) 0, .ior 0 4, .ixor (320 * 3072) 0, .ixor 0 4, .ishl (320 * 3072) 0, .ishl 0 4,
    .ishr (320 * 3072) 0, .ishr 0 4, .isra (320 * 3072) 0, .isra 0 4, .imin (320 * 3072) 0, .imin 0 4, .imax (320 * 3072) 0, .imax 0 4,
    .iminn (320 * 3072) 0, .iminn 0 4, .imaxn (320 * 3072) 0, .imaxn 0 4, .iabs (320 * 3072) 0, .iabs 0 4, .iaddsat (320 * 3072) 0, .iaddsat 0 4,
    .iclamp (320 * 3072) 0, .iclamp 0 4, .iceq (320 * 3072) 0, .iceq 0 4, .iclt (320 * 3072) 0, .iclt 0 4, .icltn (320 * 3072) 0, .icltn 0 4,
    .fabricFadd (320 * 3072) 0, .fabricFadd 0 4, .fabricFsub (320 * 3072) 0, .fabricFsub 0 4, .fabricFmul (320 * 3072) 0, .fabricFmul 0 4,
    .fabricFfma (320 * 3072) 0, .fabricFfma 0 4, .fabricFmin (320 * 3072) 0, .fabricFmin 0 4, .fabricFmax (320 * 3072) 0, .fabricFmax 0 4,
    .fabricFabs (320 * 3072) 0, .fabricFabs 0 4, .fabricFneg (320 * 3072) 0, .fabricFneg 0 4, .fabricFceq (320 * 3072) 0, .fabricFceq 0 4,
    .fabricFclt (320 * 3072) 0, .fabricFclt 0 4, .frcp (320 * 3072) 0, .frcp 0 4, .frsq (320 * 3072) 0, .frsq 0 4, .fexp2 (320 * 3072) 0, .fexp2 0 4,
    .flog2 (320 * 3072) 0, .flog2 0 4, .fabricFscale (320 * 3072) 0, .fabricFscale 0 4, .fabricFxexp (320 * 3072) 0, .fabricFxexp 0 4,
    .fabricFcvti (320 * 3072) 0, .fabricFcvti 0 4] : List Instr), i.wf = false := by decide +kernel

/-- The same for the next steps. -/
theorem test_ill_formed_2 : ∀ i ∈ ([
    .fabricFcvtf (320 * 3072) 0, .fabricFcvtf 0 4, .fabricMov (320 * 3072) 0, .fabricMov 0 4, .fabricSel (320 * 3072) 0, .fabricSel 0 4,
    .steer (320 * 3072) 0, .steer 0 4, .merge (320 * 3072) 0, .merge 0 4, .carry (320 * 3072) 0, .carry 0 4, .inv (320 * 3072) 0, .inv 0 4,
    .gate (320 * 3072) 0, .gate 0 4, .filt (320 * 3072) 0, .filt 0 4, .dup (320 * 3072) 0, .dup 0 4, .drop (320 * 3072) 0, .drop 0 4,
    .cntr (320 * 3072) 0, .cntr 0 4, .sink (320 * 3072) 0, .sink 0 4, .accg (320 * 3072) 0, .accg 0 4, .maxg (320 * 3072) 0, .maxg 0 4,
    .argmx (320 * 3072) 0, .argmx 0 4, .cntg (320 * 3072) 0, .cntg 0 4, .hdrw (320 * 3072) 0, .hdrw 0 4, .scal (320 * 3072) 0, .scal 0 4,
    .grpc (320 * 3072) 0, .grpc 0 4, .ldst (320 * 3072) 0, .ldst 0 4, .stst (320 * 3072) 0, .stst 0 4, .ldg (320 * 3072) 0, .ldg 0 4,
    .stg (320 * 3072) 0, .stg 0 4, .amo (320 * 3072) 0, .amo 0 4, .chld (320 * 3072) 0, .chld 0 4, .chst (320 * 3072) 0, .chst 0 4,
    .chadd (320 * 3072) 0, .chadd 0 4, .btwalk (320 * 3072) 0, .btwalk 0 4, .cfrd (320 * 3072) 0, .cfrd 0 4, .selin (320 * 3072) 0, .selin 0 4,
    .warp (320 * 3072) 0, .warp 0 4, .drift (320 * 3072) 0, .drift 0 4, .mvcell (320 * 3072) 0, .mvcell 0 4, .rfq (320 * 3072) 0, .rfq 0 4,
    .edgeAccessComplete (320 * 3072) 0, .headerLatch (320 * 3072) 0 0, .headerLatch 0 4 0, .headerLatch 0 0 4, .tokenSend (320 * 3072) 0,
    .tokenSend 0 6, .rollback 1280, .watchdog 1280, .snapshotRecord (320 * 3072), .cutComplete 1280] : List Instr), i.wf = false := by decide +kernel

/-- The same for the next steps. -/
theorem test_ill_formed_3 : ∀ i ∈ ([
    .loadBegin 1280, .loadCommand 1280, .seal 1280, .flip (320 * 3072), .elementClockGate (320 * 3072), .elementWake (320 * 3072), .sectorWake 320 0,
    .sectorWake 0 12, .regionCompletion 1280, .taskInsertion 8, .dependencePoll 8, .taskBinding 8, .stopRequest 8 1, .stopRequest 0 0,
    .stopRequest 0 (2 ^ 32), .forcePoint 8 1, .forcePoint 0 0, .forcePoint 0 (2 ^ 32), .regionFreeze 1280, .contextSave 1280, .taskRestore 8 1,
    .taskRestore 0 0, .taskRestore 0 (2 ^ 32), .pictureComplete 1024, .abortClose 1024, .chunkConsumed 1024, .copyBegin 1280 0,
    .copyCompletionPoint 1280, .matrixCommandStart 320, .matrixCommandComplete 320, .slotRelease 5120, .slotCleared 5120, .sluiceAccept 320,
    .sluiceDrain 320, .chainAccept (320 * 3072) 0, .chainPerform 32768, .chainGap 32768, .chainOverflow 128, .memoryNodeFault 8 0,
    .storeErrorResponse 1280 0, .slotTableRound 8 0, .slotTableRound 0 64, .hostMemAccess true (384 * 2 ^ 30) 1 0, .hostMemAccess true 0 0 0,
    .hostMemAccess true 0 (8 + 1) 0, .hostSnoop 8 0, .tinvc 8 0, .invalidationComplete 8, .tail 4096 0, .qen 4096 true, .launchRecordOffer 4096,
    .interruptRegister 1280 0, .registerWrite 0 0 0, .registerWrite 0 (8 + 1) 0, .pbrIdAssign 4096 0 0 0, .pbrIdAssign 0 4096 0 0,
    .pbrIdAssign 0 0 4096 0, .pbrIdAssign 0 0 0 4096, .attest (List.replicate 4097 0), .dbgopen 1 1 (List.replicate 4097 0), .coreOff 320,
    .coreWake 320, .dieRetention 8, .dieWake 8, .debugWakeExpiry 320, .illegalBlock 1280, .illegalInstruction 1280, .drainTimeExpiry 8 1,
    .drainTimeExpiry 0 0, .drainTimeExpiry 0 (2 ^ 32), .sectorPowerOff 320 0, .sectorPowerOff 0 12] : List Instr), i.wf = false := by decide +kernel

/-! ### Small states -/

/-- A running thread in supervisor mode at the base of its core's local window, with general registers `g`; p1 is true. -/
def thr (g : Tab Word) : Thread :=
  { Thread.reset with pc := 0x01FFFFFFFFC00000, g := g, p := 2, phase := .running, tstat := 2, thand := 0x01FFFFFFFFC00080 }

/-- The device after reset with thread 0 running. -/
def world (g : Tab Word) : World := { State.reset.w with threads := [(0, thr g)] }

/-- A block of one line and three words, of which the first runs next. -/
def txn (w : World) : Txn :=
  { saved := w, base := 0x01FFFFFFFFC00000, lines := 1, nwrd := 3, words := [0, 0, 0], idx := 1, depG := 0, depP := 0, cres := 0
    plain := none, sev := false, fenced := false, held := none, wakes := 0 }

/-- A block of thread 0 is open. -/
def blockIn (w : World) : State := { State.reset with w := w, txn := some (txn w) }

/-- No block is open. -/
def between (w : World) : State := { State.reset with w := w }

/-- Word 1 of the open block is reached, whatever it reads. -/
theorem reached (w : World) (c : Cls) (gs : List Reg) (ps : List PReg) : Reached (blockIn w) (txn w) ⟨0, false⟩ c gs ps where
  txn := rfl
  holds := by simp [blockIn, Thread.holds, Thread.readP]
  cres := by simp [txn]
  free := by simp [txn]

/-- The same of a word that accesses memory or commands a unit: no fence stands before it. -/
theorem accesses (w : World) (gs : List Reg) (ps : List PReg) (h : fenceHolds 0 (txn w) = false) : Accesses (blockIn w) (txn w) ⟨0, false⟩ gs ps where
  toReached := reached w _ gs ps
  unfenced := h

/-- One step answers a next state of which `f` holds. -/
def gives (i : Instr) (s : State) (f : State → Bool) : Bool :=
  match exec i s with
  | .next t => f t
  | _ => false

/-- The words of one block, one after another. -/
def runWords : List Instr → State → Option State
  | [], s => some s
  | i :: is, s => match exec i s with
    | .next t => runWords is t
    | _ => none

/-- Register `r` after the words `is`. -/
def gAfter (is : List Instr) (g : Tab Word) (r : Reg) : Option Word := (runWords is (blockIn (world g))).map (·.readG r)

/-- Predicate `r` after the word `i`. -/
def pAfter (i : Instr) (g : Tab Word) (r : PReg) : Option Bool := (runWords [i] (blockIn (world g))).map (·.readP r)

/-! ### Scalar words -/

/-- Operands at the corners: 7, the least integer, -1, 65, 2^31, 0x1001, 12, 1, 2^31 - 1, 32, 31, 128, 0x18000, 63. -/
def file : Tab Word :=
  [(2, 7), (3, 0x8000000000000000), (4, 0xFFFFFFFFFFFFFFFF), (6, 65), (7, 0x80000000), (8, 0x1001), (9, 12), (10, 1), (11, 0x7FFFFFFF),
   (12, 32), (13, 31), (14, 0x80), (15, 0x18000), (16, 0x80001000), (17, 63)]

/-- R181, R182: the wrap at 2^64, shifts of the width and more, and the corners of multiplication and division. -/
theorem test_two_operand_words : ∀ q ∈ ([
    (.add ⟨0, false⟩ 1 4 2, 6), (.sub ⟨0, false⟩ 1 0 10, 0xFFFFFFFFFFFFFFFF), (.and ⟨0, false⟩ 1 4 8, 0x1001), (.or ⟨0, false⟩ 1 8 9, 0x100D),
    (.xor ⟨0, false⟩ 1 4 2, 0xFFFFFFFFFFFFFFF8), (.andn ⟨0, false⟩ 1 4 2, 0xFFFFFFFFFFFFFFF8), (.orn ⟨0, false⟩ 1 0 2, 0xFFFFFFFFFFFFFFF8),
    (.shl ⟨0, false⟩ 1 4 6, 0), (.shr ⟨0, false⟩ 1 4 6, 0), (.sra ⟨0, false⟩ 1 3 6, 0xFFFFFFFFFFFFFFFF), (.rol ⟨0, false⟩ 1 3 6, 1),
    (.ror ⟨0, false⟩ 1 10 6, 0x8000000000000000), (.min ⟨0, false⟩ 1 4 10, 0xFFFFFFFFFFFFFFFF), (.max ⟨0, false⟩ 1 4 10, 1),
    (.minn ⟨0, false⟩ 1 4 10, 1), (.maxn ⟨0, false⟩ 1 4 10, 0xFFFFFFFFFFFFFFFF), (.mul ⟨0, false⟩ 1 4 4, 1),
    (.mulh ⟨0, false⟩ 1 4 10, 0xFFFFFFFFFFFFFFFF), (.mulhn ⟨0, false⟩ 1 4 4, 0xFFFFFFFFFFFFFFFE), (.div ⟨0, false⟩ 1 3 4, 0x8000000000000000),
    (.div ⟨0, false⟩ 1 2 0, 0xFFFFFFFFFFFFFFFF), (.divn ⟨0, false⟩ 1 4 2, 0x2492492492492492), (.rem ⟨0, false⟩ 1 3 4, 0),
    (.rem ⟨0, false⟩ 1 2 0, 7), (.remn ⟨0, false⟩ 1 4 2, 1)] : List (Instr × Word)),
    gAfter [q.1] file 1 = some q.2 := by decide +kernel

/-- R182, R183, R187: words of one operand, the 32-bit words with their sign extension, and scaled addresses; `alignn` of 0x1001 by 12 is 0x2000. -/
theorem test_other_scalar_words : ∀ q ∈ ([
    (.clz ⟨0, false⟩ 1 2, 61), (.clz ⟨0, false⟩ 1 0, 64), (.ctz ⟨0, false⟩ 1 3, 63), (.popc ⟨0, false⟩ 1 2, 3),
    (.brev ⟨0, false⟩ 1 10, 0x8000000000000000), (.bswap ⟨0, false⟩ 1 8, 0x0110000000000000),
    (.addW ⟨0, false⟩ 1 11 10, 0xFFFFFFFF80000000), (.subW ⟨0, false⟩ 1 0 10, 0xFFFFFFFFFFFFFFFF), (.mulW ⟨0, false⟩ 1 7 2, 0xFFFFFFFF80000000),
    (.shlW ⟨0, false⟩ 1 10 13, 0xFFFFFFFF80000000), (.shlW ⟨0, false⟩ 1 10 12, 0), (.shrW ⟨0, false⟩ 1 7 0, 0xFFFFFFFF80000000),
    (.shrW ⟨0, false⟩ 1 7 10, 0x40000000), (.sraW ⟨0, false⟩ 1 7 12, 0xFFFFFFFFFFFFFFFF), (.addsat ⟨0, false⟩ 1 11 10, 0x7FFFFFFF),
    (.subsat ⟨0, false⟩ 1 7 10, 0xFFFFFFFF80000000), (.sextb ⟨0, false⟩ 1 14, 0xFFFFFFFFFFFFFF80), (.sexth ⟨0, false⟩ 1 15, 0xFFFFFFFFFFFF8000),
    (.sextw ⟨0, false⟩ 1 7, 0xFFFFFFFF80000000), (.zextw ⟨0, false⟩ 1 4, 0xFFFFFFFF), (.mov ⟨0, false⟩ 1 2, 7),
    (.lea1 ⟨0, false⟩ 1 10 2, 8), (.lea2 ⟨0, false⟩ 1 10 2, 15), (.lea4 ⟨0, false⟩ 1 10 2, 29), (.lea8 ⟨0, false⟩ 1 10 2, 57),
    (.lea16 ⟨0, false⟩ 1 10 2, 113), (.alignd ⟨0, false⟩ 1 8 9, 0x1000), (.alignn ⟨0, false⟩ 1 8 9, 0x2000), (.p2g ⟨0, false⟩ 1 1, 1),
    (.sel ⟨2, false⟩ 1 2 10, 1)] : List (Instr × Word)),
    gAfter [q.1] file 1 = some q.2 := by decide +kernel

/-- R184, R188: immediates are sign-extended; `lih` keeps the low half of gD, as in the example 0x0000_0030_8000_1000; g0 discards (R170). -/
theorem test_immediate_words :
    (∀ q ∈ ([(.addi ⟨0, false⟩ 1 0 (-1), 0xFFFFFFFFFFFFFFFF), (.andi ⟨0, false⟩ 1 4 (-2), 0xFFFFFFFFFFFFFFFE),
      (.ori ⟨0, false⟩ 1 0 (-512), 0xFFFFFFFFFFFFFE00), (.xori ⟨0, false⟩ 1 4 (-1), 0), (.shli ⟨0, false⟩ 1 10 63, 0x8000000000000000),
      (.shri ⟨0, false⟩ 1 3 63, 1), (.srai ⟨0, false⟩ 1 3 (-1), 0xFFFFFFFFFFFFFFFF), (.li ⟨0, false⟩ 1 0x80001000, 0xFFFFFFFF80001000),
      (.addiL ⟨0, false⟩ 1 10 0x7FFFFFFF, 0x80000000), (.addi ⟨0, false⟩ 0 0 5, 0), (.addi ⟨2, false⟩ 1 0 5, 0)] : List (Instr × Word)),
      gAfter [q.1] file (if q.1 = .addi ⟨0, false⟩ 0 0 5 then 0 else 1) = some q.2) ∧
    gAfter [.li ⟨0, false⟩ 1 0x80001000, .lih ⟨0, false⟩ 1 0x30] file 1 = some 0x0000003080001000 := by decide +kernel

/-- R185, R186: signed and unsigned order differ at -1; a bit number of 64 or more reads 0; p0 stays true. -/
theorem test_predicate_words : ∀ q ∈ ([
    (.ceq ⟨0, false⟩ 3 2 2, true), (.cne ⟨0, false⟩ 3 2 2, false), (.clt ⟨0, false⟩ 3 4 10, true), (.cltn ⟨0, false⟩ 3 4 10, false),
    (.cle ⟨0, false⟩ 3 3 4, true), (.clen ⟨0, false⟩ 3 4 4, true), (.cbit ⟨0, false⟩ 3 3 17, true), (.cbit ⟨0, false⟩ 3 4 6, false),
    (.ceqi ⟨0, false⟩ 3 4 (-1), true), (.clti ⟨0, false⟩ 3 3 0, true), (.cltni ⟨0, false⟩ 3 10 (-1), true), (.g2p ⟨0, false⟩ 3 2, true),
    (.g2p ⟨0, false⟩ 3 0, false), (.pand ⟨0, false⟩ 3 1 2, false), (.por ⟨0, false⟩ 3 1 2, true), (.pxor ⟨0, false⟩ 3 1 1, false),
    (.pandn ⟨0, false⟩ 3 1 2, true), (.pnot ⟨0, false⟩ 3 2, true), (.pnot ⟨0, false⟩ 3 0, false)] : List (Instr × Bool)),
    pAfter q.1 file 3 = some q.2 := by decide +kernel

/-- fw32 1.0, 2.0, -1.0 and 0.5, and the integers 1 and 3. -/
def floats : Tab Word := [(2, 0x3FE00000), (3, 0x40000000), (4, 0xBFE00000), (5, 0x3FC00000), (6, 1), (7, 0x3F80), (8, 0x3C00), (9, 0x3F800000),
  (10, 0x7FDFFFFF), (11, 0x40), (12, 0x7FF00000)]

/-- R189 to R194: exact sums and products of powers of two, conversions of 1.0 to and from each format, and overflow to infinity. -/
theorem test_float_words :
    (∀ q ∈ ([(.fadd ⟨0, false⟩ 1 2 2, 0x40000000), (.fsub ⟨0, false⟩ 1 2 2, 0), (.fmul ⟨0, false⟩ 1 5 5, 0x3FA00000),
      (.ffma ⟨0, false⟩ 1 2 4, 0xBFE00000), (.fmin ⟨0, false⟩ 1 2 4, 0xBFE00000), (.fmax ⟨0, false⟩ 1 2 4, 0x3FE00000),
      (.fabs ⟨0, false⟩ 1 4, 0x3FE00000), (.fneg ⟨0, false⟩ 1 2, 0xBFE00000), (.fscale ⟨0, false⟩ 1 2 6, 0x40000000),
      (.fcvti ⟨0, false⟩ 1 4, 0xFFFFFFFFFFFFFFFF), (.fcvtf ⟨0, false⟩ 1 6, 0x3FE00000), (.fxexp ⟨0, false⟩ 1 3, 1),
      (.fwbf ⟨0, false⟩ 1 2, 0x3F80), (.bffw ⟨0, false⟩ 1 7, 0x3FE00000), (.fwh ⟨0, false⟩ 1 2, 0x3C00), (.hfw ⟨0, false⟩ 1 8, 0x3FE00000),
      (.fws ⟨0, false⟩ 1 2, 0x3F800000), (.sfw ⟨0, false⟩ 1 9, 0x3FE00000), (.fadd ⟨0, false⟩ 1 10 10, 0x7FE00000),
      (.fadd ⟨0, false⟩ 1 12 2, 0x7FF00000)] : List (Instr × Word)),
      gAfter [q.1] floats 1 = some q.2) ∧
    (∀ q ∈ ([(.fceq ⟨0, false⟩ 3 2 2, true), (.fclt ⟨0, false⟩ 3 4 2, true), (.fcle ⟨0, false⟩ 3 2 4, false), (.fclt ⟨0, false⟩ 3 12 2, false)] : List (Instr × Bool)),
      pAfter q.1 floats 3 = some q.2) ∧
    (runWords [.fadd ⟨0, false⟩ 1 10 10] (blockIn (world floats))).map (·.thr.fflags) = some 0x05 := by decide +kernel

/-! ### Memory words, exits, traps and CSRs -/

/-- g2 an address in the local window, g3 a value, g4 a misaligned address, g5 to g8 small numbers, g9 the value that a barrier word of two arrivals holds. -/
def mfile : Tab Word :=
  [(2, 0x01FFFFFFFFC01000), (3, 0x8899AABBCCDDEEFF), (4, 0x01FFFFFFFFC01001), (5, 1), (6, 0xFFFFFFFFFFFFFFFF), (7, 5), (8, 0x01FFFFFFFFC00100), (9, 2)]

/-- R3, R198: a stored double word is read back by its bytes, lowest first, with the extension of each form; scaled offsets. -/
theorem test_stores_and_loads :
    gAfter [.stD ⟨0, false⟩ 3 2 0, .ldB ⟨0, false⟩ 1 2 0] mfile 1 = some 0xFFFFFFFFFFFFFFFF ∧
    gAfter [.stD ⟨0, false⟩ 3 2 0, .ldBn ⟨0, false⟩ 1 2 1] mfile 1 = some 0xEE ∧
    gAfter [.stD ⟨0, false⟩ 3 2 0, .ldH ⟨0, false⟩ 1 2 1] mfile 1 = some 0xFFFFFFFFFFFFCCDD ∧
    gAfter [.stD ⟨0, false⟩ 3 2 0, .ldHn ⟨0, false⟩ 1 2 3] mfile 1 = some 0x8899 ∧
    gAfter [.stD ⟨0, false⟩ 3 2 1, .ldW ⟨0, false⟩ 1 2 3] mfile 1 = some 0xFFFFFFFF8899AABB ∧
    gAfter [.stW ⟨0, false⟩ 3 2 1, .ldD ⟨0, false⟩ 1 2 0] mfile 1 = some 0xCCDDEEFF00000000 ∧
    gAfter [.stH ⟨0, false⟩ 3 2 (-1), .ldWn ⟨0, false⟩ 1 2 (-1)] mfile 1 = some 0xEEFF0000 ∧
    gAfter [.stB ⟨0, false⟩ 3 2 7, .ldNa ⟨0, false⟩ 1 2] mfile 1 = some 0xFF00000000000000 ∧
    gAfter [.stxW ⟨0, false⟩ 3 2 5, .ldxW ⟨0, false⟩ 1 2 5] mfile 1 = some 0xFFFFFFFFCCDDEEFF ∧
    gAfter [.stxD ⟨0, false⟩ 3 2 5, .ldL ⟨0, false⟩ 1 2 8] mfile 1 = some 0x8899AABBCCDDEEFF ∧
    gAfter [.stD ⟨0, false⟩ 3 4 0, .ldxD ⟨0, false⟩ 1 4 0] mfile 1 = some 0x8899AABBCCDDEEFF ∧
    gAfter [.stL ⟨0, false⟩ 3 2 (-8), .ldD ⟨0, false⟩ 1 2 (-1)] mfile 1 = some 0x8899AABBCCDDEEFF ∧
    gAfter [.stRelSys ⟨0, false⟩ 3 2, .ldAcqCore ⟨0, false⟩ 1 2] mfile 1 = some 0x8899AABBCCDDEEFF := by decide +kernel

/-- R204: an atomic gives the old value and leaves the new one, which a later scalar load of the block sees; the 32-bit forms sign-extend. -/
theorem test_atomics : ∀ q ∈ ([
    (.amoadd ⟨0, false⟩ 1 2 5, 0x8899AABBCCDDEF00), (.amoand ⟨0, false⟩ 1 2 7, 5), (.amoor ⟨0, false⟩ 1 2 6, 0xFFFFFFFFFFFFFFFF),
    (.amoxor ⟨0, false⟩ 1 2 6, 0x7766554433221100), (.amomin ⟨0, false⟩ 1 2 5, 0x8899AABBCCDDEEFF), (.amomax ⟨0, false⟩ 1 2 5, 1),
    (.amominn ⟨0, false⟩ 1 2 5, 1), (.amomaxn ⟨0, false⟩ 1 2 5, 0x8899AABBCCDDEEFF), (.amoswap ⟨0, false⟩ 1 2 7, 5),
    (.amoaddW ⟨0, false⟩ 1 2 5, 0x8899AABBCCDDEF00), (.amoswapW ⟨0, false⟩ 1 2 7, 0x8899AABB00000005),
    (.amocas ⟨0, false⟩ 3 2 7, 5), (.amocas ⟨0, false⟩ 1 2 7, 0x8899AABBCCDDEEFF), (.amocasW ⟨0, false⟩ 3 2 7, 0x8899AABB00000005)] : List (Instr × Word)),
    ((runWords [.stD ⟨0, false⟩ 3 2 0, q.1] (blockIn (world mfile))).map fun s => leNat ((List.range 8).map fun i => byteAt s.w.mem (0x10000001000 + i))) =
      some q.2.toNat := by decide +kernel

/-- R204, R208, R209: gD of a 32-bit atomic; the two arrivals that a barrier word expects turn its phase, and a malformed word is left alone. -/
theorem test_old_values_and_arrivals :
    gAfter [.stD ⟨0, false⟩ 3 2 0, .amoswapW ⟨0, false⟩ 1 2 7] mfile 1 = some 0xFFFFFFFFCCDDEEFF ∧
    gAfter [.stD ⟨0, false⟩ 9 2 0, .barrive ⟨0, false⟩ 1 2] mfile 1 = some 0 ∧
    ((runWords [.stD ⟨0, false⟩ 9 2 0, .barrive ⟨0, false⟩ 1 2, .barrive ⟨0, false⟩ 1 2] (blockIn (world mfile))).map
      fun s => leNat ((List.range 8).map fun i => byteAt s.w.mem (0x10000001000 + i))) = some 0x100000002 ∧
    gAfter [.barrive ⟨0, false⟩ 1 2] mfile 1 = some 0xFFFFFFFFFFFFFFFF := by decide +kernel

/-- Thread 0 after the word `i` of a block. -/
def thrAfter (i : Instr) (w : World) : Option Thread :=
  match exec i (blockIn w) with
  | .next t => if t.txn.isNone then some (t.w.thread 0) else none
  | _ => none

/-- R216: the next block of each branch, the link and the count. -/
theorem test_branches :
    (thrAfter (.br ⟨0, false⟩ (-1)) (world mfile)).map (·.pc) = some 0x01FFFFFFFFBFFF80 ∧
    (thrAfter (.call ⟨0, false⟩ 2) (world mfile)).map (fun t => (t.pc, t.readG 1)) = some (0x01FFFFFFFFC00100, 0x01FFFFFFFFC00080) ∧
    (thrAfter (.jmp ⟨0, false⟩ 8) (world mfile)).map (·.pc) = some 0x01FFFFFFFFC00100 ∧
    (thrAfter (.callx ⟨0, false⟩ 8) (world mfile)).map (fun t => (t.pc, t.readG 1)) = some (0x01FFFFFFFFC00100, 0x01FFFFFFFFC00080) ∧
    (thrAfter (.tbr ⟨0, false⟩ 8 7) (world mfile)).map (·.pc) = some 0x01FFFFFFFFC00380 ∧
    (thrAfter (.bdec ⟨0, false⟩ 5 4) (world mfile)).map (fun t => (t.pc, t.readG 5)) = some (0x01FFFFFFFFC00080, 0) ∧
    (thrAfter (.bdec ⟨0, false⟩ 7 4) (world mfile)).map (fun t => (t.pc, t.readG 7)) = some (0x01FFFFFFFFC00200, 4) ∧
    (thrAfter (.ret ⟨0, false⟩) (world [(1, 0x01FFFFFFFFC00400)])).map (fun t => (t.pc, t.blkret)) = some (0x01FFFFFFFFC00400, 1) := by decide +kernel

/-- Thread 0 alone, with status `st`. -/
def mode (st : Word) (tepc : Word) : World := { world [] with threads := [(0, { thr [] with tstat := st, tepc := tepc })] }

/-- R131, R134, R216, R217: `trap` saves its code, its argument, the block, the word and the mode; a misaligned target traps; `halt` halts behind its
block; `ecall` commits first; `eret` in supervisor mode goes on at tepc in the mode that tstat kept. -/
theorem test_traps_and_exits :
    (thrAfter (.trap ⟨0, false⟩ 45) (world mfile)).map (fun t => [t.tcause, t.tval, t.tepc, t.tidx, t.tstat, t.pc]) =
      some [0x04, 45, 0x01FFFFFFFFC00000, 1, 7, 0x01FFFFFFFFC00080] ∧
    (thrAfter (.jmp ⟨0, false⟩ 4) (world mfile)).map (fun t => (t.tcause, t.tval)) = some (0x08, 0x01FFFFFFFFC01001) ∧
    (thrAfter (.halt ⟨0, false⟩) (world mfile)).map (fun t => (decide (t.phase = .halted), t.pc)) = some (true, 0x01FFFFFFFFC00080) ∧
    (thrAfter (.ecall ⟨0, false⟩ 9) (world mfile)).map (fun t => [t.tcause, t.tval, t.tepc, t.tidx]) = some [0x05, 9, 0x01FFFFFFFFC00080, 0] ∧
    (thrAfter (.eret ⟨0, false⟩) (mode 0xE 0x01FFFFFFFFC00400)).map (fun t => (t.pc, t.tstat &&& 6)) =
      some (0x01FFFFFFFFC00400, 4) ∧
    (thrAfter (.eret ⟨0, false⟩) (mode 0 0)).map (fun t => (t.tcause, t.tstat &&& 3)) = some (0x03, 2) ∧
    (thrAfter (.bkpt ⟨0, false⟩ 3) (world [])).map (fun t => (t.tcause, t.tval)) = some (0x06, 3) ∧
    (thrAfter (.amoadd ⟨0, false⟩ 1 4 5) (world mfile)).map (fun t => [t.tcause, t.tval, t.tidx]) = some [0x08, 0x01FFFFFFFFC01001, 1] := by decide +kernel

/-- R176, R214, R215: `csrw` writes RW fields alone, `csrs` and `csrc` set and clear, tepc keeps bits 6..0 at 0, and an unassigned number is illegal. -/
theorem test_csr_words :
    gAfter [.csrw ⟨0, false⟩ 0 6 0x002, .csrr ⟨0, false⟩ 1 0x002] mfile 1 = some 0xFFFFFFFFFFFFFF80 ∧
    gAfter [.csrw ⟨0, false⟩ 1 6 0x010] mfile 1 = some 0x400 ∧
    gAfter [.csrw ⟨0, false⟩ 0 6 0x010, .csrc ⟨0, false⟩ 0 5 0x010, .csrr ⟨0, false⟩ 1 0x010] mfile 1 = some 0x1F02 ∧
    gAfter [.csrs ⟨0, false⟩ 0 7 0x040, .csrr ⟨0, false⟩ 1 0x040] mfile 1 = some 5 ∧
    gAfter [.csrw ⟨0, false⟩ 0 6 0x020, .csrr ⟨0, false⟩ 1 0x020] mfile 1 = some 0 ∧
    (thrAfter (.csrr ⟨0, false⟩ 1 0x007) (world mfile)).map (·.tcause) = some 0x02 ∧
    (thrAfter (.csrw ⟨0, false⟩ 1 6 0x051) (mode 0 0)).map (·.tcause) = some 0x03 := by decide +kernel

/-! ### The fabric -/

/-- A plane whose handler 0 is enabled: operation, mode, the ports it requires, operand codes a, b, c, `AUX`, k0, `OUTL` and `PRIO` left 0;
fields 0 and 1 are `HEN` and `OUTL`, and slice i of the handler word is field 16 + i (R75, R76). -/
def plane (op mode qreq opa opb opc aux k0 outl : Nat) : Tab Nat :=
  let n := op * 2 ^ 160 + qreq * 2 ^ 151 + opa * 2 ^ 148 + opb * 2 ^ 145 + opc * 2 ^ 142 + mode * 2 ^ 138 + aux * 2 ^ 128 + k0
  ((List.range 12).map fun i => (16 + i, n / 2 ^ (14 * i) % 2 ^ 14)).foldl (fun pl q => setField pl q.1 q.2) [(0, 1), (1, outl)]

/-- A data token, and a control word of a code: 1 EOR, 2 EOT, 3 EOS. -/
def tok (v : W32) : Token := { kind := 0, chan := 0, pay := v }
def ctl (code : W32) : Token := { kind := 2, chan := 0, pay := code }

/-- Element `e` with plane `pl` and the tokens `ts` at the heads of ports 0, 1 and 2 of handler 0, its registers as after a flip. -/
def elemOf (pl : Tab Nat) (ts : List Token) : Elem :=
  { Elem.reset with act := pl, k := planeRegs pl, parts := (ts.zipIdx.map fun q => (4 * q.2, [q.1])) }

/-- Region 0 of core 0, sector 0, running under thread 0. -/
def region0 : Region := { Region.reset with owner := some 0, mask := 1, running := true }

/-- The device with element `e` of region 0. -/
def fab (e : Nat) (x : Elem) : World := { world [] with regions := [(0, region0)], sectors := [(0, 0)], elems := [(e, x)], cycle := 5 }

/-- What the output buffer of element `e` holds after its firing: lanes, kind, payload and ready time. -/
def outAfter (i : Instr) (e : Nat) (x : Elem) : Option (List (Nat × Nat × W32 × Nat)) :=
  match exec i (between (fab e x)) with
  | .next t => some ((t.w.elem e).out.map fun o => (o.lanes, o.tok.kind, o.tok.pay, o.ready))
  | _ => none

/-- The element that holds operation `op` with the operands in its ports. -/
def arith (op mode : Nat) (vs : List W32) : Elem :=
  let n := vs.length
  elemOf (plane op mode (2 ^ n - 1) 0 (if 2 ≤ n then 1 else 0) (if 3 ≤ n then 2 else 0) 0 0 4) (vs.map tok)

/-- R87, R90, R91: the results of the integer operations at their corners, and each one's latency. -/
theorem test_fabric_integers : ∀ q ∈ ([
    (.iadd 1 0, 0x00, 0, [0x7FFFFFFF, 1], 0x80000000, 1), (.isub 1 0, 0x01, 0, [0, 1], 0xFFFFFFFF, 1), (.imul 1 0, 0x02, 0, [0x10000, 0x10000], 0, 2),
    (.imulh 1 0, 0x03, 0, [0xFFFFFFFF, 0xFFFFFFFF], 0, 2), (.imulh 1 0, 0x03, 4, [0xFFFFFFFF, 0xFFFFFFFF], 0xFFFFFFFE, 2),
    (.iand 1 0, 0x04, 0, [12, 10], 8, 1), (.ior 1 0, 0x05, 0, [12, 10], 14, 1), (.ixor 1 0, 0x06, 0, [12, 10], 6, 1),
    (.ishl 1 0, 0x07, 0, [1, 32], 0, 1), (.ishr 1 0, 0x08, 0, [0x80000000, 31], 1, 1), (.isra 1 0, 0x09, 0, [0x80000000, 40], 0xFFFFFFFF, 1),
    (.imin 1 0, 0x0A, 0, [0xFFFFFFFF, 1], 0xFFFFFFFF, 1), (.imax 1 0, 0x0B, 0, [0xFFFFFFFF, 1], 1, 1), (.iminn 1 0, 0x0C, 0, [0xFFFFFFFF, 1], 1, 1),
    (.imaxn 1 0, 0x0D, 0, [0xFFFFFFFF, 1], 0xFFFFFFFF, 1), (.iabs 1 0, 0x0E, 0, [0xFFFFFFFB], 5, 1), (.iaddsat 1 0, 0x0F, 0, [0x7FFFFFFF, 1], 0x7FFFFFFF, 1),
    (.iclamp 1 0, 0x10, 0, [5, 7, 9], 7, 1), (.iceq 1 0, 0x11, 0, [5, 5], 1, 1), (.iclt 1 0, 0x12, 0, [0xFFFFFFFF, 1], 1, 1),
    (.icltn 1 0, 0x13, 0, [0xFFFFFFFF, 1], 0, 1)] : List (Instr × Nat × Nat × List W32 × W32 × Nat)),
    outAfter q.1 1 (arith q.2.1 q.2.2.1 q.2.2.2.1) = some [(4, 0, q.2.2.2.2.1, 5 + q.2.2.2.2.2)] := by decide +kernel

/-- R92 to R98: the fw32 operations at exact values, as the spec's formulas give them: 1/2, 4^(-1/2), 2^1 and log2 2. -/
theorem test_fabric_floats : ∀ q ∈ ([
    (.fabricFadd 1 0, 0x20, 0, [0x3FE00000, 0x3FE00000], 0x40000000, 3), (.fabricFsub 1 0, 0x21, 0, [0x3FE00000, 0x40000000], 0xBFE00000, 3),
    (.fabricFmul 1 0, 0x22, 0, [0x3FC00000, 0x3FC00000], 0x3FA00000, 3), (.fabricFfma 1 0, 0x23, 0, [0x3FE00000, 0x40000000, 0xBFE00000], 0x3FE00000, 3),
    (.fabricFmin 1 0, 0x24, 0, [0x3FE00000, 0xBFE00000], 0xBFE00000, 1), (.fabricFmax 1 0, 0x25, 0, [0x3FE00000, 0xBFE00000], 0x3FE00000, 1),
    (.fabricFabs 1 0, 0x26, 0, [0xBFE00000], 0x3FE00000, 1), (.fabricFneg 1 0, 0x27, 0, [0x3FE00000], 0xBFE00000, 1),
    (.fabricFceq 1 0, 0x28, 0, [0x3FE00000, 0x3FE00000], 1, 1), (.fabricFclt 1 0, 0x29, 0, [0xBFE00000, 0x3FE00000], 1, 1),
    (.frcp 1 0, 0x2A, 0, [0x40000000], 0x3FC00000, 6), (.frsq 1 0, 0x2B, 0, [0x40200000], 0x3FC00000, 6),
    (.fexp2 1 0, 0x2C, 0, [0x3FE00000], 0x40000000, 6), (.flog2 1 0, 0x2D, 0, [0x40000000], 0x3FE00000, 6),
    (.fabricFscale 1 0, 0x2E, 0, [0x3FE00000, 1], 0x40000000, 1), (.fabricFxexp 1 0, 0x2F, 0, [0x40000000], 1, 1),
    (.fabricFcvti 1 0, 0x30, 0, [0xBFE00000], 0xFFFFFFFF, 2), (.fabricFcvti 1 0, 0x30, 4, [0xBFE00000], 0, 2), (.fabricFcvtf 1 0, 0x31, 0, [1], 0x3FE00000, 2),
    (.fabricMov 1 0, 0x40, 0, [9], 9, 1), (.fabricSel 1 0, 0x41, 0, [5, 6, 0], 6, 1)] : List (Instr × Nat × Nat × List W32 × W32 × Nat)),
    outAfter q.1 1 (arith q.2.1 q.2.2.1 q.2.2.2.1) = some [(4, 0, q.2.2.2.2.1, 5 + q.2.2.2.2.2)] := by decide +kernel

/-- An element with a control bit at the head of its control queue, which handler 0 reads: `CIS` is field 10 (R67, R75). -/
def steered (op qreq opb aux : Nat) (b : Bool) (ts : List Token) : Elem :=
  { elemOf (tabSet 10 1 (plane op 0 qreq 0 opb 0 aux 0 4)) ts with cq := [{ b := b, epoch := 0 }] }

/-- R66, R99 to R108: which token goes where. -/
theorem test_fabric_flow : ∀ q ∈ ([
    (.steer 1 0, steered 0x42 1 0 0x10 true [tok 7], [(4, 0, 7, 6)]),
    (.steer 1 0, steered 0x42 1 0 0x10 false [tok 7], [(0x10, 0, 7, 6)]),
    (.gate 1 0, steered 0x46 1 4 0 false [tok 7], [(4, 0, 0, 6)]),
    (.filt 1 0, steered 0x47 1 0 0 false [tok 7], []),
    (.merge 1 0, steered 0x43 3 1 0 false [tok 7, tok 8], [(4, 0, 8, 6)]),
    (.carry 1 0, steered 0x44 3 1 0 false [tok 7, tok 8], [(4, 0, 8, 6)]),
    (.inv 1 0, arith 0x45 0 [0], [(4, 0, 1, 6)]),
    (.dup 1 0, elemOf (plane 0x48 0 1 0 0 0 0 2 4) [tok 7], [(4, 0, 7, 6)]),
    (.drop 1 0, arith 0x49 0 [7], []),
    (.cntr 1 0, elemOf (plane 0x4A 2 0 0 0 0 0 3 4) [], [(4, 0, 0, 6)]),
    (.sink 1 0, elemOf (plane 0x4B 0 1 0 0 0 0 0 0) [tok 7], []),
    (.accg 1 0, elemOf (plane 0x60 4 1 0 0 0 0 1 4) [ctl 2], [(4, 0, 0, 6)]),
    (.maxg 1 0, elemOf (plane 0x61 4 1 0 0 0 0 1 4) [tok 7], []),
    (.argmx 1 0, arith 0x62 0 [7], []),
    (.cntg 1 0, arith 0x63 0 [7], []),
    (.hdrw 1 0, elemOf (plane 0x64 1 1 0 0 0 0 0 4) [tok 0x16FF7F], [(4, 1, 0x16FF7F, 6)]),
    (.scal 1 0, arith 0x65 0 [0x3FE00000], [(4, 0, 0x3FE00000, 6)]),
    (.grpc 1 0, elemOf (plane 0x66 0 1 0 0 0 0 3 4) [tok 7], [(4, 0, 7, 6)]),
    (.iadd 1 0, elemOf (plane 0x00 0 3 0 1 0 0 0 4) [ctl 2, ctl 2], [(4, 2, 2, 6)])] :
    List (Instr × Elem × List (Nat × Nat × W32 × Nat))), outAfter q.1 1 q.2.1 = some q.2.2 := by decide +kernel

/-! ### Witnesses: states that meet a statement's hypotheses -/

/-- A read or a check passes, and `f` holds of the device and of what it gives. -/
def passes {ε α : Type} (r : World × Except ε α) (f : World → α → Bool) : Bool := match r with
  | (w, .ok a) => f w a
  | (_, .error _) => false

/-- A check that passes has an outcome, as the statements name it. -/
theorem outcome {ε α : Type} {r : World × Except ε α} {f : World → α → Bool} (h : passes r f = true) : ∃ w a, r = (w, .ok a) ∧ f w a = true := by
  obtain ⟨w, e | a⟩ := r
  · simp [passes] at h
  · exact ⟨w, a, rfl, h⟩

/-- A check that fails. -/
theorem failure {ε α : Type} {r : World × Except ε α} (h : passes r (fun _ _ => true) = false) : ∃ w e, r = (w, .error e) := by
  obtain ⟨w, e | a⟩ := r
  · exact ⟨w, e, rfl⟩
  · simp [passes] at h

/-- Memory whose double word at local offset 0x1000 is `v`. -/
def holding (v : Nat) : World := { world mfile with mem := setBytes [] 0x10000001000 (leBytes 8 v) }

theorem witness_StepRunsDecodedWord :
    (blockIn (world [])).txn = some (txn (world [])) ∧ decode (txn (world [])).word ((txn (world [])).words.getD 1 0) = .ok (.nop ⟨0, false⟩) :=
  ⟨rfl, rfl⟩

/-- A header 0xA5000003 at the block counter: one line, three words of zeros. -/
theorem witness_StepBeginsBlock :
    let s := between { world [] with mem := [(0x10000000000, 3), (0x10000000003, 0xA5)] }
    let q := { s with w := settlePaths s.w }
    s.txn = none ∧ s.agenda = [] ∧ threadReady q.w q.turn q.thr = true ∧ q.thr.yielded = false ∧ q.thr.events = [] ∧
      (∃ w b, fetchBlock q.w q.turn = (w, .ok b) ∧ (decide (b = { lines := 1, nwrd := 3, words := [0, 0, 0] }) && !q.w.overrun q.w w) = true) ∧
      decode 0 0 = .ok (.nop ⟨0, false⟩) :=
  ⟨rfl, rfl, by decide +kernel, rfl, rfl, outcome (by decide +kernel), rfl⟩

theorem witness_DecodeReadsEncode : (Instr.add ⟨2, true⟩ 63 0 1).wf = true ∧ (encode (.add ⟨2, true⟩ 63 0 1)).isSome = true := ⟨rfl, rfl⟩

/-- Both invariants hold of a state with a block open, from which a step answers a next state. -/
theorem witness_StepKeepsInvariants : Claims.OpenBlock (blockIn (holding 5)) ∧ Claims.CanonicalMemory (blockIn (holding 5)) ∧ Runs (blockIn (holding 5)) := by
  refine ⟨?_, ⟨by unfold MemoryWf; decide +kernel, ?_⟩, _, rfl⟩
  · rintro x ⟨⟩
    decide +kernel
  · rintro x ⟨⟩
    decide +kernel

theorem witness_ScalarWords : Reached (blockIn (world file)) (txn (world file)) ⟨0, false⟩ .scalar [63, 0] [] ∧ (⟨0, false⟩ : Pr).pr = 0 := ⟨reached _ _ _ _, rfl⟩

theorem witness_PredicateWords : Reached (blockIn (world file)) (txn (world file)) ⟨0, false⟩ .scalar [] [7, 0] ∧
    Reached (blockIn (world file)) (txn (world file)) ⟨0, false⟩ .scalar [2, 3] [] := ⟨reached _ _ _ _, reached _ _ _ _⟩

/-- `sel` needs no predicate that holds: p2 is false here. -/
theorem witness_SelectAndPredicateToG : (blockIn (world file)).txn = some (txn (world file)) ∧ (blockIn (world file)).thr.holds ⟨2, false⟩ = false ∧
    (∀ r ∈ ([2, 10] : List Reg), (txn (world file)).cres.getLsbD r.toNat = false) ∧
    Reached (blockIn (world file)) (txn (world file)) ⟨0, false⟩ .scalar [] [1] := ⟨rfl, rfl, by decide, reached _ _ _ _⟩

theorem witness_FloatWords : Reached (blockIn (world floats)) (txn (world floats)) ⟨0, false⟩ .scalar [2, 3, 1] [] ∧
    bits (blockIn (world floats)).thr.frm.toNat 1 0 = 0 := ⟨reached _ _ _ _, by decide +kernel⟩

/-- The first and the last double word of the local window pass their checks for every kind of access. -/
theorem witness_LoadStoreAndAtomicWords :
    let s := blockIn (world mfile)
    Accesses s (txn (world mfile)) ⟨0, false⟩ [3, 2, 5] [] ∧
      ∀ va ∈ [0x01FFFFFFFFC00000, 0x01FFFFFFFFFFFFF8], ∀ q ∈ [(Acc.load, Order.plain), (.load, .acqRel), (.store, .plain), (.store, .acqRel), (.atomic, .atomic), (.load, .atomic)],
        passes (checkAccess s.w s.core (wordSpace s) q.1 q.2 va 8) (fun _ gs => gs.all fun g => served s.w (.word s.core) g.pa) = true :=
  ⟨accesses _ _ _ rfl, by decide +kernel⟩

/-- An access at an address that is no multiple of its size fails its check, and so does a read below the local window without a page table. -/
theorem witness_AccessTraps :
    let s := blockIn (world mfile)
    Accesses s (txn (world mfile)) ⟨0, false⟩ [3, 4, 5] [] ∧ (s.readG 4).toNat % 8 = 1 ∧
      (∃ w e, checkAccess s.w s.core (wordSpace s) .load .plain 0x1000 8 = (w, .error e)) ∧
      ∃ w e, checkAccess s.w s.core (wordSpace s) .store .plain 0x1000 8 = (w, .error e) :=
  ⟨accesses _ _ _ rfl, by decide +kernel, failure (by decide +kernel), failure (by decide +kernel)⟩

/-- Barrier words: the next arrival of several, the last one, and one that is full. -/
theorem witness_BarrierArrival : (∀ v, Accesses (blockIn (holding v)) (txn (holding v)) ⟨0, false⟩ [2] []) ∧
    ∀ q ∈ [(0x00010003, 3, 1), (0x00020003, 3, 2), (0x00030003, 3, 3)],
      let s := blockIn (holding q.1)
      passes (checkAccess s.w s.core (wordSpace s) .atomic .atomic (s.readG 2).toNat 8)
        (fun w gs => Claims.oldValue w gs % 2 ^ 16 == q.2.1 && Claims.oldValue w gs / 2 ^ 16 % 2 ^ 16 == q.2.2) = true :=
  ⟨fun _ => accesses _ _ _ rfl, by decide +kernel⟩

/-- A barrier of phase 1 and a stamp of 5: with gD 5 both let the word go on or hold it as the phase and the number say, at the boundary 5. -/
theorem witness_BarrierAndStampWaits : (∀ v, Accesses (blockIn (holding v)) (txn (holding v)) ⟨0, false⟩ [7, 2] []) ∧
    ∀ q ∈ [(0x100000000, 1, 0), (0, 0, 0), (5, 0, 5), (4, 0, 4), (0x8000000000000004, 0, 0x8000000000000004)],
      let s := blockIn (holding q.1)
      passes (checkAccess s.w s.core (wordSpace s) .load .atomic (s.readG 2).toNat 8)
        (fun w gs => Claims.waited s (txn s.w) w gs / 2 ^ 32 % 2 == q.2.1 && Claims.waited s (txn s.w) w gs % 2 ^ 64 % 2 ^ 32 == q.2.2 % 2 ^ 32 && (s.readG 7).toNat == 5) = true :=
  ⟨fun _ => accesses _ _ _ rfl, by decide +kernel⟩

/-- A stream of the thread's region with an access that is not performed, a copy queued, and the event flag both ways. -/
def busy : World :=
  { fab 0 { elemOf (plane 0x81 0 1 0 0 0 0 0 0) [] with
      acc := [{ h := 0, ord := 0, nth := 0, op := .store, va := 0x01FFFFFFFFC01000, len := 4, fmt := 0x05, val := 7, link := 0, hint := 0, pa := 0, cmp := false, outs := [], slot := none
                phase := .issued, epoch := 0, logged := none, met := false }] } with
    streams := [(0, { Stream.reset with bound := true })]
    channels := [(0, { Channel.reset with queue := [{ thread := 0, sp := { asid := 0, ptb := 0, user := false }, seq := 1, blk := 0, follow := none, cancelled := false }] })] }

theorem witness_CountStreamAndEventWaits : (∀ w, Reached (blockIn w) (txn w) ⟨0, false⟩ .other [9] []) ∧
    streamHolds busy 0 0 = true ∧ streamHolds busy 0 1 = false ∧ countsWithin busy 0 63 0 31 = false ∧ countsWithin busy 0 63 1 31 = true ∧
    (blockIn (world [])).thr.flag = false ∧ (blockIn { world [] with threads := [(0, { thr [] with flag := true })] }).thr.flag = true ∧
    (blockIn { world [] with threads := [(0, { thr [] with wakes := 1 })] }).thr.wakes = 1 ∧ (txn (world [])).wakes = 0 :=
  ⟨fun w => reached w _ _ _, by decide +kernel⟩

theorem witness_QueueFenceAndFences : Reached (blockIn (world mfile)) (txn (world mfile)) ⟨0, false⟩ .other [2] [] ∧
    ((blockIn (world mfile)).readG 5).toNat % 2 ^ 7 = 1 ∧ ((blockIn (world mfile)).readG 0).toNat % 2 ^ 7 = 0 ∧
    passes (checkAccess (world mfile) 0 (wordSpace (blockIn (world mfile))) .load .plain 0x01FFFFFFFFC01000 1) (fun _ _ => true) = true :=
  ⟨reached _ _ _ _, by decide +kernel⟩

/-- A range unit that is loaded, one that is not, and a valid descriptor: ten items from 0, chunks of at least one, one worker, factor one (R149). -/
theorem witness_RangeUnits : Accesses (blockIn (world mfile)) (txn (world mfile)) ⟨0, false⟩ [0, 2] [] ∧
    (let w := { world mfile with ranges := [(0, { loaded := true, nxt := 0, remain := 10, minc := 1, work := 1, fact := 1 })] }
     (w.range 0).loaded = true ∧ (w.range 255).loaded = false) ∧
    (rangeOf (10 * 2 ^ 64 + 2 ^ 128 + 2 ^ 160 + 2 ^ 176)).isSome = true ∧ (rangeOf 0).isNone = true ∧
    passes (checkAccess (world mfile) 0 (wordSpace (blockIn (world mfile))) .load .plain 0x01FFFFFFFFC01000 32) (fun _ _ => true) = true :=
  ⟨accesses _ _ _ rfl, by decide +kernel⟩

/-- Nothing keeps the block from being left; the targets 0x...100 and 0x...1001 are aligned and not. -/
theorem witness_Branches : Claims.MayLeave (blockIn (world mfile)) (txn (world mfile)) ∧ Reached (blockIn (world mfile)) (txn (world mfile)) ⟨0, false⟩ .other [1, 8] [] ∧
    Reached (blockIn (world mfile)) (txn (world mfile)) ⟨0, false⟩ .exit [7] [] ∧ ((blockIn (world mfile)).readG 8).toNat % 128 = 0 ∧
    ((blockIn (world mfile)).readG 4).toNat % 128 = 1 ∧ (blockIn (world mfile)).thr.holds ⟨1, true⟩ = false :=
  ⟨⟨by decide +kernel, rfl, by decide +kernel⟩, reached _ _ _ _, reached _ _ _ _, by decide +kernel⟩

theorem witness_TrapEntry : (blockIn (world [])).txn = some (txn (world [])) ∧ ((world []).thread 0).thand ≠ 0 := ⟨rfl, by decide +kernel⟩

/-- The word 0x3FF behind the one in hand is no instruction (R177); a debugger's program level covers thread 0 when it is open for its asid. -/
theorem witness_TrapWords : (∀ w, Reached (blockIn w) (txn w) ⟨0, false⟩ .exit [] []) ∧ (blockIn (mode 0 0)).thr.tstat.getLsbD 1 = false ∧
    firstIllegal [0x3FF] 2 false = some (2, 0x3FF) ∧ covers (world []) 0 = false ∧
    covers { world [] with jibor := { Jibor.reset with level := 2 } } 0 = true ∧ (blockIn (world [])).thr.drun = false ∧ (blockIn (world [])).thr.dstep = false :=
  ⟨fun w => reached w _ _ _, by decide +kernel⟩

theorem witness_CommittingSystemExits : Claims.MayLeave (blockIn (world [])) (txn (world [])) ∧ Reached (blockIn (world [])) (txn (world [])) ⟨0, false⟩ .exit [] [] ∧
    (blockIn (world [])).thr.tstat.getLsbD 1 = true := ⟨⟨by decide +kernel, rfl, by decide +kernel⟩, reached _ _ _ _, by decide +kernel⟩

/-- User mode may not read asid nor write tcause; supervisor mode may; 0x007 is not assigned. -/
theorem witness_CsrWords : (∀ w, Reached (blockIn w) (txn w) ⟨0, false⟩ .other [6] []) ∧ (blockIn (mode 0 0)).thr.tstat.getLsbD 1 = false ∧
    (blockIn (world [])).thr.tstat.getLsbD 1 = true ∧ Claims.privileged 0x051 false ∧ Claims.privileged 0x001 true ∧ ¬ Claims.privileged 0x001 false ∧ (∀ c ∈ Claims.csrs, c.num ≠ 0x007) :=
  ⟨fun w => reached w _ _ _, by decide +kernel, by decide +kernel, by simp [Claims.privileged], by simp [Claims.privileged], by simp [Claims.privileged], by decide +kernel⟩

/-- A short and a long word under p2, which is false here. -/
theorem witness_PredicateFalse : ∀ i ∈ [Instr.add ⟨2, false⟩ 1 2 3, .li ⟨2, false⟩ 1 5],
    ∃ v o, encode i = some (v, o) ∧ (blockIn (world [])).thr.holds (fieldsOf v).p = false ∧
      (txn (world [])).depP.getLsbD (fieldsOf v).p.pr.toNat = false ∧ ∀ q d a b, i ≠ .sel q d a b := by
  intro i hi
  simp only [List.mem_cons, List.not_mem_nil, or_false] at hi
  rcases hi with rfl | rfl
  · exact ⟨_, _, rfl, by decide +kernel, by decide +kernel, by intros; simp⟩
  · exact ⟨_, _, rfl, by decide +kernel, by decide +kernel, by intros; simp⟩

theorem witness_OthersWaitForTheBlock : (blockIn (world [])).txn = some (txn (world [])) ∧ encode (.eventEntry 0) = none ∧
    (∀ t, Instr.eventEntry 0 ≠ .illegalInstruction t) ∧
    let s : State := { between (world []) with agenda := [.agent (.eventEntry 0)] }
    s.txn = none ∧ s.agenda = .agent (.eventEntry 0) :: [] ∧ (Instr.eventEntry 0).wf = true := ⟨rfl, rfl, by intros; simp, rfl, rfl, rfl⟩

/-- The word `li g5, 0x8000_1000` is read and run as the first instruction after reset (R188). -/
theorem test_fetch_word : decodeTableWord 64 0x800010000C050000 = some (.li ⟨0, false⟩ 5 0x80001000) ∧
    (match step (State.reset.withFetchWord 64 0x800010000C050000) with
     | .next t => (t.w.thread 0).readG 5 == 0xFFFFFFFF80001000
     | _ => false) = true := by decide +kernel

/-! ### Regions, streams, chains and engine words -/

/-- Registers 2 to 6: an address in the local window that is a multiple of 256, 16 of a region word, 1, 2, and an odd value. -/
def rfile : Tab Word := [(2, 0x01FFFFFFFFC01000), (3, 1), (4, 2), (5, 0x01FFFFFFFFC01001), (6, 0x300000007), (7, 5), (8, 16), (9, 4096), (10, 0x2000005)]

/-- Thread 0 owns region 0, which has an element, a stream bound as a thread port and a stream bound to memory. -/
def owned : World :=
  { fab 1 (arith 0x00 0 [1, 2]) with
    threads := [(0, thr rfile)]
    streams := [(0, { Stream.reset with bound := true, port := true, outq := [tok 9] }), (1, { Stream.reset with bound := true, cnt := 3, ovr := true })] }

/-- One step of the open block leaves a device of which `f` holds. -/
def leaves (i : Instr) (w : World) (f : State → Bool) : Bool := gives i (blockIn w) f

/-- The trap that a word takes: cause and tval. -/
def trapOf (i : Instr) (w : World) : Option (Word × Word) := (thrAfter i w).map fun t => (t.tcause, t.tval)

/-- R222, R225, R228, R265: a command goes into the region's queue; `rgstart` arms, `rgstop` stops, `marker` opens a cut; a handle that the thread does not own traps. -/
theorem test_region_words :
    leaves (.cfgld ⟨0, false⟩ 0 2) owned (fun s => (s.w.region 0).cq.map (·.1) == [.load 0x01FFFFFFFFC01000 false]) = true ∧
    leaves (.cfgwr ⟨0, false⟩ 0 7) owned (fun s => (s.w.region 0).cq.map (·.1) == [.write 5]) = true ∧
    leaves (.cfgst ⟨0, false⟩ 0 2) owned (fun s => (s.w.region 0).cq.map (·.1) == [.status 0x01FFFFFFFFC01000]) = true ∧
    leaves (.rgsave ⟨0, false⟩ 0 2) owned (fun s => (s.w.region 0).cq.map (·.1) == [.save 0x01FFFFFFFFC01000]) = true ∧
    leaves (.cfgsw ⟨0, false⟩ 0) owned (fun s => (s.w.region 0).cq.map (·.1) == [.switch]) = true ∧
    leaves (.cfgwrI ⟨0, false⟩ 0 5) owned (fun s => (s.w.region 0).cq.map (·.1) == [.write 5]) = true ∧
    leaves (.marker ⟨0, false⟩ 0) owned (fun s => (s.w.region 0).cutting && (s.w.region 0).epoch == 1) = true ∧
    leaves (.rgstop ⟨0, false⟩ 0) owned (fun s => !(s.w.region 0).running) = true ∧
    leaves (.cfgdrop ⟨0, false⟩ 0) (owned.setRegion 0 { region0 with cq := [(.load 0 false, wordSpace (blockIn owned))] }) (fun s => (s.w.region 0).cq.isEmpty) = true ∧
    leaves (.rgfree ⟨0, false⟩ 0) owned (fun s => s.w.region 0 == Region.reset) = true ∧
    leaves (.rgstart ⟨0, false⟩ 0 2 7) (owned.setRegion 0 { region0 with running := false }) (fun s => (s.w.region 0).armed == some (0x01FFFFFFFFC01000, 5)) = true ∧
    leaves (.rgload ⟨0, false⟩ 0 2) (owned.setRegion 0 { region0 with running := false })
      (fun s => (s.w.region 0).cq.map (·.1) == [.restore 0x01FFFFFFFFC01000]) = true ∧
    leaves (.rgalloc ⟨0, false⟩ 1 4) owned (fun s => s.readG 1 == 1 && (s.w.region 1).mask == 2) = true ∧
    leaves (.rgalloc ⟨0, false⟩ 1 3) owned (fun s => s.readG 1 == 0x8000000000000003) = true ∧
    trapOf (.cfgsw ⟨0, false⟩ 3) owned = some (0x07, 1) := by decide +kernel

/-- R221, R231 to R234: the stream words, and what `sstat` reads: bound to memory, overrun, three elements. -/
theorem test_stream_and_chain_words :
    leaves (.spop ⟨0, false⟩ 1 0) owned (fun s => s.readG 1 == 9 && (s.w.stream 0).outq.isEmpty) = true ∧
    leaves (.spush ⟨0, false⟩ 0 6) owned (fun s => (s.w.stream 0).inq == [{ kind := 0, chan := 3, pay := 7 }]) = true ∧
    leaves (.seos ⟨0, false⟩ 0) owned (fun s => (s.w.stream 0).inq == [ctl 3]) = true ∧
    leaves (.sbind ⟨0, false⟩ 4 2) owned (fun s => (s.w.stream 2).bound && !(s.w.stream 2).port) = true ∧
    leaves (.sunbind ⟨0, false⟩ 3) owned (fun s => !(s.w.stream 1).bound) = true ∧
    leaves (.sstat ⟨0, false⟩ 1 3) owned (fun s => s.readG 1 == 0x900000003) = true ∧
    leaves (.sctl ⟨0, false⟩ 3 4) owned (fun s => !(s.w.region 0).running) = true ∧
    trapOf (.sctl ⟨0, false⟩ 3 7) owned = some (0x07, 5) ∧
    trapOf (.spush ⟨0, false⟩ 3 7) owned = some (0x07, 1) ∧
    leaves (.chainset ⟨0, false⟩ 7 10) owned (fun s => (s.w.chain 5).last == 5 && (s.w.chain 5).nxt == some 7) = true ∧
    leaves (.chainst ⟨0, false⟩ 1 7) (owned.setChain 5 { Chain.reset with last := 5, nxt := some 7 }) (fun s => s.readG 1 == 0x20005) = true ∧
    trapOf (.chainst ⟨0, false⟩ 1 9) owned = some (0x07, 4096) := by decide +kernel

/-- Two slots that the thread holds: bf16, length 32 (R236). -/
def slots : World :=
  { owned with slotsOp := [(1, { Slot.reset with phase := .claimed 0, desc := 0x100C8 }), (2, { Slot.reset with phase := .claimed 0, desc := 0x100C8 })] }

/-- R235 to R246, R314, R320: what the engine words queue, claim and read. -/
theorem test_engine_words :
    leaves (.mzero ⟨0, false⟩ 3 4) slots (fun s => (s.w.matrix 0).queue.map (·.op) == [.zero 1 2]) = true ∧
    leaves (.mtile ⟨0, false⟩ 0 3 4) slots (fun s => (s.w.matrix 0).queue.map (·.op) == [.tile 0 1 2 0x100C8 0x100C8]) = true ∧
    trapOf (.mtile ⟨0, false⟩ 0 3 7) slots = some (0x07, 5) ∧
    leaves (.oclaim ⟨0, false⟩ 1 8) slots (fun s => s.readG 1 == 0 && (s.w.slotOp 0).phase == .claimed 0) = true ∧
    leaves (.oclaim ⟨0, false⟩ 1 3) slots (fun s => s.readG 1 == 0xFFFFFFFFFFFFFFFF) = true ∧
    leaves (.orel ⟨0, false⟩ 3) slots (fun s => (s.w.slotOp 1).release == some 1) = true ∧
    trapOf (.odesc ⟨0, false⟩ 3 2) slots = some (0x07, 0x01FFFFFFFFC01000) ∧
    leaves (.cpwp ⟨0, false⟩ 1 3) slots (fun s => s.readG 1 == 0xFFFFFFFFFFFFFFFF) = true ∧
    trapOf (.cpwp ⟨0, false⟩ 1 7) slots = some (0x07, 5) ∧
    leaves (.cpcancel ⟨0, false⟩ 0) busy (fun s => (s.w.channel 0).queue.map (·.cancelled) == [true]) = true ∧
    trapOf (.selput ⟨0, false⟩ 3 4) slots = some (0x07, 1) ∧
    leaves (.selput ⟨0, false⟩ 3 4) (slots.setSluice 0 { Sluice.reset with owner := some 0 }) (fun s => (s.w.sluice 0).queue.map (·.op) == [.put 1 2]) = true ∧
    leaves (.seldrain ⟨0, false⟩ 3) (slots.setSluice 0 { Sluice.reset with owner := some 0 }) (fun s => (s.w.sluice 0).queue.map (·.op) == [.drain false true]) = true ∧
    leaves (.hwstat ⟨0, false⟩ 1 0) slots (fun s => s.readG 1 == 0xFFFFFFFFFFFFFFFF) = true ∧
    leaves (.hwclose ⟨0, false⟩ 1 0) slots (fun s => s.readG 1 == 2) = true ∧
    leaves (.tenq ⟨0, false⟩ 1 2) slots (fun s => s.readG 1 == 0 && (s.w.die 0).inbox.length == 1) = true := by decide +kernel

/-- The thread owns handle 0 and no other; a queue with room and a full one. -/
theorem witness_ConfigurationCommands : (∀ gs, Accesses (blockIn owned) (txn owned) ⟨0, false⟩ gs []) ∧
    Claims.Owns (blockIn owned) ((blockIn owned).readG 0).toNat ∧ ¬ Claims.Owns (blockIn owned) 1 ∧ ¬ Claims.Owns (blockIn owned) 4 ∧ (owned.region 0).cq.length < 16 ∧
    16 ≤ (({ region0 with cq := List.replicate 16 (.switch, { asid := 0, ptb := 0, user := false }) } : Region)).cq.length ∧
    ((blockIn owned).readG 2).toNat % 256 = 0 ∧ (owned.region 0).running = true := by
  refine ⟨fun _ => accesses _ _ _ rfl, ?_, ?_, ?_, by decide +kernel⟩ <;>
    (unfold Claims.Owns; decide +kernel)

/-- Masks that fail the check, that are taken and that are free; a quiet region, with a task and without. -/
theorem witness_RegionControl : (∀ gs, Accesses (blockIn owned) (txn owned) ⟨0, false⟩ gs []) ∧ maskIsRect 5 = false ∧ maskIsRect 2 = true ∧
    (∀ h < 4, (owned.region h).reusable = false) ∧ (owned.region 0).mask &&& 1 ≠ 0 ∧ (owned.region 1).mask = 0 ∧ (owned.region 0).shadow ≠ .wave ∧
    (∀ e ∈ regionElems owned 0, (owned.elem e).acc = []) ∧ (owned.region 0).task = none ∧ ((blockIn owned).readG 2).toNat % 8 = 0 :=
  ⟨fun _ => accesses _ _ _ rfl, by decide +kernel⟩

theorem witness_TaskEnqueue : Accesses (blockIn owned) (txn owned) ⟨0, false⟩ [2] [] ∧ ((blockIn owned).readG 2).toNat % 64 = 0 ∧
    passes (checkAccess owned 0 (wordSpace (blockIn owned)) .load .acqRel 0x01FFFFFFFFC01000 64) (fun w gs =>
      let v := touchSegs w 0 Touch.load gs
      accepts v 0 { launch := BitVec.ofNat 512 (Claims.loadedValue (blockIn owned) w gs), sp := wordSpace (blockIn owned), queue := none, after := none }) = true :=
  ⟨accesses _ _ _ rfl, by decide +kernel⟩

/-- Stream 0 is a thread port with a token, stream 1 is bound to memory, stream 16 is another region's. -/
theorem witness_StreamWords : (∀ gs, Accesses (blockIn owned) (txn owned) ⟨0, false⟩ gs []) ∧ Claims.OwnsStream (blockIn owned) 0 ∧
    Claims.OwnsStream (blockIn owned) 15 ∧ ¬ Claims.OwnsStream (blockIn owned) 16 ∧ (owned.stream 0).port = true ∧ (owned.stream 1).port = false ∧
    (owned.stream 0).outq ≠ [] ∧ (owned.stream 0).inq.length < 16 ∧
    Claims.StreamsFree (blockIn owned) ∧ bindingWaits (owned.setStream 2 { Stream.reset with next := some (true, true, 0) }) 0 = true ∧
    passes (checkAccess owned 0 (wordSpace (blockIn owned)) .load .acqRel 0x01FFFFFFFFC01000 64) (fun _ _ => true) = true := by
  refine ⟨fun _ => accesses _ _ _ rfl, ?_, ?_, ?_, by decide +kernel, by decide +kernel, by decide +kernel, by decide +kernel, ?_, by decide +kernel⟩ <;> (first | unfold Claims.OwnsStream | unfold Claims.StreamsFree) <;> decide +kernel

theorem witness_StatusAndChainWords : (∀ gs, Accesses (blockIn owned) (txn owned) ⟨0, false⟩ gs []) ∧ ((blockIn owned).readG 3).toNat / 2 ^ 9 = 0 ∧
    Claims.OwnsStream (blockIn owned) (((blockIn owned).readG 3).toNat % 64) ∧ 2 ^ 12 ≤ ((blockIn owned).readG 9).toNat ∧ ((blockIn owned).readG 10).toNat < 2 ^ 32 ∧
    Claims.StreamsFree (blockIn owned) := by
  refine ⟨fun _ => accesses _ _ _ rfl, by decide +kernel, ?_, by decide +kernel, by decide +kernel, ?_⟩ <;>
    (first | unfold Claims.OwnsStream | unfold Claims.StreamsFree) <;> decide +kernel

theorem witness_ScaleBytes : (255 : Nat) < 256 ∧ (0 : Nat) < 256 ∧ Nat.testBit (2 ^ 21) 21 = true ∧
    tabGet 0 (8 * 3 + 40 / 32) ({ Slot.reset with side := [(25, 127)] } : Slot).side = BitVec.ofNat 8 127 := by decide +kernel

/-- Every matrix word passes its checks somewhere, with room in the queue: tiles 0 to 3, slots 1 and 2 that suit. -/
theorem witness_MatrixWords : (∀ gs, Accesses (blockIn slots) (txn slots) ⟨0, false⟩ gs []) ∧ (slots.matrix 0).queue.length < 16 ∧
    Claims.TilesSuit (blockIn slots) 1 2 false ∧ ¬ Claims.TilesSuit (blockIn slots) 1 2 true ∧ ¬ Claims.HoldsSlot (blockIn slots) 0 ∧
    ((blockIn slots).readG 4).toNat < 2 ^ 10 ∧ fmtValid 8 = true := by
  refine ⟨fun _ => accesses _ _ _ rfl, by decide +kernel, ?_, ?_, ?_, by decide +kernel⟩ <;>
    (first | unfold Claims.TilesSuit Claims.HoldsSlot Claims.desc | unfold Claims.HoldsSlot) <;> decide +kernel

theorem witness_SlotWords : (∀ gs, Accesses (blockIn slots) (txn slots) ⟨0, false⟩ gs []) ∧ (slots.slotOp 0).phase = .free ∧
    Claims.HoldsSlot (blockIn slots) 1 ∧ ¬ Claims.HoldsSlot (blockIn slots) 16 ∧ Claims.DescValid 0x100C8 ∧ ¬ Claims.DescValid (2 ^ 22) := by
  refine ⟨fun _ => accesses _ _ _ rfl, by decide +kernel, ?_, ?_, ?_, ?_⟩ <;>
    (first | unfold Claims.HoldsSlot | unfold Claims.DescValid Claims.SlotFormat) <;> decide +kernel

/-- `w` with the 64 bytes of block `b` at local offset 0x1000. -/
def blockAt (w : World) (b : Nat) : World := { w with mem := setBytes [] 0x10000001000 (leBytes 64 b) }

/-- Copy blocks of one row of 64 bytes from memory, from address 0 to memory at 0 and to slot 1 (R242), and a Sluice block (R246). -/
def copyBlock : Nat := 64 * 2 ^ (8 * 0x10) + 2 ^ (8 * 0x14)
def slotBlock : Nat := copyBlock + (2 ^ 28 + 2 ^ 24) * 2 ^ (8 * 0x38)
def selBlock : Nat := 0x5E000000 + 8 * 2 ^ (8 * 4)

/-- R242, R246: the words that read a block queue it. -/
theorem test_block_words :
    leaves (.cpy ⟨0, false⟩ 0 2) (blockAt slots copyBlock) (fun s => (s.w.channel 0).queue.map (·.blk.toNat) == [copyBlock]) = true ∧
    trapOf (.cpy ⟨0, false⟩ 0 2) (blockAt slots 0) = some (0x07, 0x01FFFFFFFFC01000) ∧
    leaves (.selcfg ⟨0, false⟩ 2) (blockAt slots selBlock) (fun s => (s.w.sluice 0).owner == some 0 && (s.w.sluice 0).queue.length == 1) = true ∧
    trapOf (.selcfg ⟨0, false⟩ 2) (blockAt slots 1) = some (0x07, 0x01FFFFFFFFC01000) ∧
    trapOf (.hwopen ⟨0, false⟩ 1 5) (blockAt slots 0) = some (0x07, 0x01FFFFFFFFC01001) := by decide +kernel

/-- A block that is read and passes, one that is read and fails; a channel with room, and one with a command of the thread. -/
theorem witness_CopyWords : (∀ gs, Accesses (blockIn slots) (txn slots) ⟨0, false⟩ gs []) ∧ (slots.channel 0).queue.length < 8 ∧
    (∀ b ∈ [copyBlock, slotBlock], passes (checkAccess (blockAt slots b) 0 (wordSpace (blockIn slots)) .load .acqRel 0x01FFFFFFFFC01000 64)
      (fun w gs => copyValid slots 0 (BitVec.ofNat 512 (leNat (loadSegs w (blockAt slots b).mem gs)))) = true) ∧
    copyValid slots 0 0 = false ∧ cKind (BitVec.ofNat 512 slotBlock) ≠ 0 ∧ (busy.channel 0).queue.length = 1 :=
  ⟨fun _ => accesses _ _ _ rfl, by decide +kernel⟩

/-- A Sluice that no thread holds, one that the thread holds and one that another holds; a valid block and one that is not. -/
theorem witness_SluiceWords : (∀ gs, Accesses (blockIn slots) (txn slots) ⟨0, false⟩ gs []) ∧ (slots.sluice 0).owner = none ∧ (slots.sluice 0).queue.length < 16 ∧
    ((slots.setSluice 0 { Sluice.reset with owner := some 0 }).sluice 0).owner = some (blockIn slots).turn ∧
    ((slots.setSluice 0 { Sluice.reset with owner := some 3 }).sluice 0).owner ≠ some (blockIn slots).turn ∧
    selValid (BitVec.ofNat 512 selBlock) = true ∧ selValid 1 = false ∧
    passes (checkAccess slots 0 (wordSpace (blockIn slots)) .load .acqRel 0x01FFFFFFFFC01000 64) (fun _ _ => true) = true :=
  ⟨fun _ => accesses _ _ _ rfl, by decide +kernel⟩

/-- Session 0 of die 0, Open, opened under the thread's asid. -/
def session0 : Session :=
  { state := 1, err := 0, sp := { asid := 0, ptb := 0, user := false }, thread := 0, va := 0, blk := 0, chunks := [], descs := [], stream := [], bcon := 0, pdone := 0
    sideOff := 0, skipping := false, badRefs := [], after := (0, 0), aborting := false, draining := false, freeing := false, ending := false, owed := false
    stalled := false, met := false }

theorem witness_HeadwaterWords : (∀ ss gs, Accesses (blockIn { slots with sessions := ss }) (txn { slots with sessions := ss }) ⟨0, false⟩ gs []) ∧
    Claims.Names (blockIn { slots with sessions := [(0, session0)] }) 0 session0 ∧ (∀ y, ¬ Claims.Names (blockIn slots) 0 y) ∧
    (1 ≤ session0.state ∧ session0.state ≤ 3 ∧ session0.draining = false) ∧ (session0.ending = false ∧ session0.freeing = false) ∧ session0.chunks.length < 16 ∧ session0.state ≠ 5 ∧
    pickEngine slots 0 = some 0 ∧ tabHas 0 slots.sessions = false ∧ sessionBad 0 = true ∧
    passes (checkAccess slots 0 (wordSpace (blockIn slots)) .load .acqRel 0x01FFFFFFFFC01000 64) (fun _ _ => true) = true := by
  refine ⟨fun _ _ => accesses _ _ _ rfl, ⟨by decide +kernel, by decide +kernel, rfl⟩, fun y h => ?_, by decide +kernel⟩
  exact absurd h.2.1 (by simp [World.session?, blockIn, slots, owned, fab, world, State.reset])

/-! ### Witnesses: firings -/

/-- Does element `e` of `w` fire the operation `op` now? -/
def fires (w : World) (e op : Nat) : Bool :=
  selected w e == some 0 && (handler (w.elem e).act 0).op == op && !fieldBad (w.elem e).act 0 && !((w.elem e).heads 0).any Token.badCtl

theorem firesNow {w : World} {e op : Nat} (h : fires w e op = true) : Claims.FiresNow (between w) e 0 op := by
  simp only [fires, Bool.and_eq_true, Bool.not_eq_true', beq_iff_eq] at h
  exact ⟨rfl, h.1.1.1, h.1.1.2, h.1.2, h.2⟩

/-- Data at every head, the same control word at every head, and a mix. -/
theorem witness_FabricArithmetic :
    (∀ op ∈ [0x00, 0x0F, 0x20, 0x41], ∀ ts ∈ [[tok 1, tok 2, tok 3], [ctl 2, ctl 2, ctl 2], [tok 1, ctl 2, tok 3]],
      Claims.FiresNow (between (fab 1 (elemOf (plane op 0 7 0 1 2 0 0 4) ts))) 1 0 op) ∧
    Claims.FiresNow (between (fab 1 (arith 0x11 0 [1, 2]))) 1 0 0x11 ∧ Claims.AllCtl [ctl 2, ctl 2] (ctl 2) := by
  refine ⟨fun op h ts h' => firesNow ?_, firesNow (by decide +kernel), by decide +kernel, by decide +kernel⟩
  revert op ts; decide +kernel

theorem witness_FabricSteering :
    (∀ q ∈ [(0x42, 1, 0, 0x10), (0x43, 3, 1, 0), (0x44, 3, 1, 0), (0x46, 1, 4, 0), (0x47, 1, 0, 0)], ∀ b ∈ [true, false],
      Claims.FiresNow (between (fab 1 (steered q.1 q.2.1 q.2.2.1 q.2.2.2 b [tok 7, tok 8]))) 1 0 q.1) ∧
    (∀ q ∈ [(0x43, 3, 1, 0), (0x44, 3, 1, 0)], Claims.FiresNow (between (fab 1 (steered q.1 q.2.1 q.2.2.1 q.2.2.2 true [ctl 2, ctl 2]))) 1 0 q.1) ∧
    Claims.FiresNow (between (fab 1 (arith 0x42 1 [7, 2]))) 1 0 0x42 ∧ Claims.FiresNow (between (fab 1 (steered 0x42 1 0 0x10 true [ctl 1]))) 1 0 0x42 := by
  refine ⟨fun q h b h' => firesNow ?_, fun q h => firesNow ?_, firesNow (by decide +kernel), firesNow (by decide +kernel)⟩
  · revert q b; decide +kernel
  · revert q; decide +kernel

/-- `dup` of 0, 1 and 2, `drop`, `cntr` running and at its closing word, and `sink`. -/
theorem witness_FabricCounting :
    (∀ k ∈ [0, 1, 2], Claims.FiresNow (between (fab 1 (elemOf (plane 0x48 0 1 0 0 0 0 k 4) [tok 7]))) 1 0 0x48) ∧
    Claims.FiresNow (between (fab 1 (arith 0x49 0 [7]))) 1 0 0x49 ∧
    (∀ k3 ∈ [0, 3], Claims.FiresNow (between (fab 1 ((elemOf (plane 0x4A 2 0 0 0 0 0 3 4) []).setK 0 3 (BitVec.ofNat 32 k3)))) 1 0 0x4A) ∧
    Claims.FiresNow (between (fab 1 (elemOf (plane 0x4B 0 1 0 0 0 0 1 0) [ctl 3]))) 1 0 0x4B := by
  refine ⟨fun k h => firesNow ?_, firesNow (by decide +kernel), fun k h => firesNow ?_, firesNow (by decide +kernel)⟩
  · revert k; decide +kernel
  · revert k; decide +kernel

/-- Groups of 1, 4 and, out of range, 0 and 5 lanes; a closing word; and the others of class 3. -/
theorem witness_FabricGroups :
    (∀ op ∈ [0x60, 0x61], ∀ k ∈ [0, 1, 4, 5], ∀ t ∈ [tok 7, ctl 2], Claims.FiresNow (between (fab 1 (elemOf (plane op 4 1 0 0 0 0 k 4) [t]))) 1 0 op) ∧
    (∀ op ∈ [0x62, 0x63, 0x64, 0x65, 0x66], Claims.FiresNow (between (fab 1 (arith op 0 [7]))) 1 0 op) := by
  refine ⟨fun op h k h' t h'' => firesNow ?_, fun op h => firesNow ?_⟩
  · revert op k t; decide +kernel
  · revert op; decide +kernel

/-- The stride pattern of `n` elements of format `fmt` at an address of the local window, 4 bytes apart (R110); `PMODE` and `SUB` come with the format's word. -/
def pattern (fmt n : Nat) : Block := BitVec.ofNat 512 (0x01FFFFFFFFC01000 + fmt * 2 ^ (8 * 8 + 22) + 4 * 2 ^ (8 * 12) + n * 2 ^ (8 * 16) + 4 * 2 ^ (8 * 20))

/-- Edge element 0 with plane `pl`, on stream 0 bound to memory by block `b`. -/
def edge (pl : Tab Nat) (ts : List Token) (b : Block) (port : Bool) : World :=
  { fab 0 (elemOf pl ts) with streams := [(0, { Stream.reset with bound := true, port := port, blk := b, inq := if port then [tok 9] else [] })] }

/-- Does edge element 0 fire `op` on a stream that suits it? -/
def edgeFires (w : World) (op : Nat) : Bool :=
  fires w 0 op && !(boundStream w 0 0).port && !patternBad op (handler (w.elem 0).act 0).mode (patternOf (boundStream w 0 0).blk)

theorem edgeNow {w : World} {op : Nat} (h : edgeFires w op = true) : Claims.EdgeNow (between w) 0 0 op := by
  simp only [edgeFires, Bool.and_eq_true, Bool.not_eq_true'] at h
  exact ⟨firesNow h.1.1, h.1.2, h.2⟩

/-- R110 to R120: what each edge operation issues at which address: a stream begins at its base, and index 2 names the third element. -/
theorem test_edge_operations : ∀ q ∈ ([
    (.ldst 0 0, plane 0x80 0 0 0 0 0 0 0 4, ([] : List Token), 0x01FFFFFFFFC01000), (.stst 0 0, plane 0x81 0 1 0 0 0 0 0 0, [tok 7], 0x01FFFFFFFFC01000),
    (.ldg 0 0, plane 0x82 0 1 0 0 0 0 0 4, [tok 2], 0x01FFFFFFFFC01008), (.stg 0 0, plane 0x83 0 3 0 1 0 0 0 0, [tok 2, tok 7], 0x01FFFFFFFFC01008),
    (.amo 0 0, plane 0x84 0 3 0 1 0 0 0 4, [tok 2, tok 7], 0x01FFFFFFFFC01008), (.chld 0 0, plane 0x85 0 5 0 0 2 0 0 4, [tok 2, tok 0, tok 7], 0x01FFFFFFFFC01008),
    (.chst 0 0, plane 0x86 0 7 0 1 2 0 0 0, [tok 2, tok 3, tok 7], 0x01FFFFFFFFC01008), (.chadd 0 0, plane 0x87 0 7 0 1 2 0 0 0, [tok 2, tok 3, tok 7], 0x01FFFFFFFFC01008)] :
      List (Instr × Tab Nat × List Token × Nat)),
    gives q.1 (between (edge q.2.1 q.2.2.1 (pattern 0x05 4) false)) (fun s => (s.w.elem 0).acc.map (·.va) == [q.2.2.2]) = true := by decide +kernel

/-- The witness of the edge operations: each has its stream, with data at its heads, and with a control word at each; a source at its first, its last
and past its last element; a feedback token. -/
theorem witness_EdgeIssues :
    (∀ n ∈ [0, 1, 2], Claims.EdgeNow (between (edge (plane 0x80 0 0 0 0 0 0 0 4) [] (pattern 0x05 n) false)) 0 0 0x80) ∧
    (∀ v ∈ [0, 1], Claims.EdgeNow (between (edge (plane 0x80 0 1 0 0 0 0 0 4) [tok (BitVec.ofNat 32 v)] (pattern 0x05 4) false)) 0 0 0x80) ∧
    (∀ q ∈ [(0x81, 1, 0, 0), (0x82, 1, 0, 0), (0x83, 3, 1, 0), (0x84, 3, 1, 0), (0x85, 5, 0, 2), (0x86, 7, 1, 2), (0x87, 7, 1, 2)],
      ∀ t ∈ [tok 2, ctl 1, ctl 3], Claims.EdgeNow (between (edge (plane q.1 0 q.2.1 0 q.2.2.1 q.2.2.2 0 0 4) [t, t, t] (pattern 0x05 4) false)) 0 0 q.1) ∧
    (patternOf (pattern 0x05 4)).total = 4 ∧ (patternOf (pattern 0x05 0)).total = 0 := by
  refine ⟨fun n h => edgeNow ?_, fun v h => edgeNow ?_, fun q h t h' => edgeNow ?_, by decide +kernel⟩
  · revert n; decide +kernel
  · revert v; decide +kernel
  · revert q t; decide +kernel

/-- A thread port with a token, and an edge element that offers a pair to the Sluice. -/
theorem witness_PortsAndSluiceOffers :
    Claims.FiresNow (between (edge (plane 0x80 0 0 0 0 0 0 0 4) [] 0 true)) 0 0 0x80 ∧
    Claims.FiresNow (between (edge (plane 0x81 0 1 0 0 0 0 0 4) [tok 7] 0 true)) 0 0 0x81 ∧
    (∀ q ∈ [(0x82, 1, 0, 0), (0x83, 3, 1, 0), (0x84, 3, 1, 0), (0x85, 5, 0, 2), (0x86, 7, 1, 2), (0x87, 7, 1, 2), (0x88, 0, 0, 0), (0x89, 0, 0, 0), (0xA0, 1, 0, 0),
        (0xA1, 1, 0, 0), (0xA2, 0, 0, 0), (0xA3, 1, 0, 0)],
      Claims.FiresNow (between (edge (plane q.1 0 q.2.1 0 q.2.2.1 q.2.2.2 0 0 4) [tok 2, tok 3, tok 7] 0 true)) 0 0 q.1) ∧
    (∀ t ∈ [tok 7, tok 0x7FF00000, ctl 1, ctl 2], Claims.FiresNow (between ((fab 0 (elemOf (plane 0x8A 0 3 0 1 0 0 0 4) [t, t])).setSluice 0 { Sluice.reset with owner := some 0, on := true })) 0 0 0x8A) ∧
    (boundStream (edge (plane 0x80 0 0 0 0 0 0 0 4) [] 0 true) 0 0).port = true := by
  refine ⟨firesNow (by decide +kernel), firesNow (by decide +kernel), fun q h => firesNow ?_, fun t h => firesNow ?_, by decide +kernel⟩
  · revert q; decide +kernel
  · revert t; decide +kernel

/-- A pattern at the same address of mode `pmode` and subtype `sub`, with `AUXA` behind it. -/
def walkPattern (pmode sub fmt : Nat) : Block :=
  BitVec.ofNat 512 (0x01FFFFFFFFC01000 + (pmode * 2 ^ 28 + fmt * 2 ^ 22 + sub * 2 ^ 12) * 2 ^ (8 * 8) + 0x01FFFFFFFFC01040 * 2 ^ (8 * 0x30))

/-- `w` with the bytes of 64-byte blocks from local offset 0x1000 on. -/
def blocksAt (w : World) (bs : List Nat) : World := { w with mem := setBytes [] 0x10000001000 (bs.flatMap (leBytes 64)) }

/-- A tensor (R22, R23): one CTU of 16 samples with `n` records, its index at +0x40 and its records at +0x80; record 0 is a unit of 4 by 4 samples at (4, 0). -/
def tensor (n : Nat) : List Nat :=
  [0x00040800 + (16 + 16 * 2 ^ 16) * 2 ^ 32 + 1 * 2 ^ 64 + n * 2 ^ (8 * 0xC) + 0x40 * 2 ^ (8 * 0x14) + 0x80 * 2 ^ (8 * 0x1C) +
      (0x80 + 0x40 * n) * 2 ^ (8 * 0x24) + 0x40 * 2 ^ (8 * 0x28), n * 2 ^ 32,
   1 + (2 * 2 ^ 24 + 2 * 2 ^ 21) * 2 ^ 32 + (2 ^ 20) * 2 ^ 128 + 2 ^ 16 * 2 ^ 160, 3]

/-- A walker that reads that tensor. -/
def walker (op k0 : Nat) (n sub : Nat) : World := blocksAt (edge (plane op 0 0 0 0 0 0 k0 4) [] (walkPattern 1 sub 0x01) false) (tensor n)

/-- What a search finds. -/
def finds (r : Except Stop (Found × World)) (f : Found → Bool) : Bool := match r with
  | .ok (x, _) => f x
  | .error _ => false

/-- R23, R24, R121, R122, R125: the first token of each walker: the record's first word, the value 3 of its pool with position 0, and the record's opener. -/
theorem test_walkers :
    finds (btwalkFind 0 1 (patternOf (walkPattern 1 0 0x01)) 0 (walker 0x88 1 1 0)) (· == .inl (tok 1)) = true ∧
    finds (cfrdFind 0 false (patternOf (walkPattern 1 1 0x01)) 0 (walker 0x89 0 1 1)) (· == .inl (tok 0x30000)) = true ∧
    finds (mvcellFind 0 (patternOf (walkPattern 1 2 0x01)) 0 (walker 0xA2 0 1 2)) (· == .inl (tok 0xA0000000)) = true := by decide +kernel

/-- A device that has counted nothing has room in every budget. -/
theorem room {w : World} (h : w.nodes = []) (m : w.moduleNode = State.reset.w.moduleNode) : Claims.Room w := by
  intro i hi
  refine ⟨?_, fun k => ?_⟩
  · rw [m]; revert i; decide +kernel
  · have : w.node k = Node.free := by simp [World.node, h, tabGet]
    rw [this]; revert i; decide +kernel

/-- Each walker finds a token, and the end of a tensor without records. -/
theorem witness_TensorWalks : (∀ q ∈ [(0x88, 1, 0), (0x89, 0, 1), (0xA2, 0, 2)], Claims.Room (walker q.1 q.2.1 1 q.2.2)) ∧
    (∀ q ∈ [(0x88, 1, 0), (0x89, 0, 1), (0xA2, 0, 2)], Claims.EdgeNow (between (walker q.1 q.2.1 1 q.2.2)) 0 0 q.1) ∧
    finds (btwalkFind 0 1 (patternOf (walkPattern 1 0 0x01)) 0 (walker 0x88 1 1 0)) (· == .inl (tok 1)) = true ∧
    finds (cfrdFind 0 false (patternOf (walkPattern 1 1 0x01)) 0 (walker 0x89 0 0 1)) (fun x => match x with | .inl _ => false | .inr _ => true) = true ∧
    finds (mvcellFind 0 (patternOf (walkPattern 1 2 0x01)) 0 (walker 0xA2 0 0 2)) (fun x => match x with | .inl _ => false | .inr _ => true) = true := by
  refine ⟨fun q h => room rfl rfl, fun q h => edgeNow ?_, by decide +kernel⟩
  revert q; decide +kernel

/-- Grid descriptors (R37): two by two cells of one bf16 channel, of level 1 with its refresh queue and of level 0. -/
def grid (level : Nat) : Nat :=
  level * 2 ^ 29 + 8 * 2 ^ 23 + 0x00020002 * 2 ^ 32 + 0x01FFFFFFFFC02000 * 2 ^ (8 * 8) + 4 * 2 ^ (8 * 0x10) + 0x01FFFFFFFFC03000 * 2 ^ (8 * 0x18) +
    0x01FFFFFFFFC03100 * 2 ^ (8 * 0x20) + 0x01FFFFFFFFC04000 * 2 ^ (8 * 0x28)

/-- An edge element with a grid operation on those grids, part-way in the sequence of R125. -/
def gridded (op mode phase sub : Nat) (t : Token) : World :=
  let w := blocksAt (edge (plane op mode 1 0 0 0 0 0 4) [t] (walkPattern 2 sub 0x08) false) [grid 1, grid 0]
  w.setElem 0 ((w.elem 0).setWork 0 wPhase phase)

/-- `warp` and `drift` at a record's opener, at a cell and, broken, at a cell where none is due; `drift` in its refresh form, and `rfq`. -/
theorem witness_GridOperations :
    (∀ q ∈ [(0xA0, 0, 0, 0, tok 0), (0xA1, 1, 0, 1, tok 0), (0xA3, 0, 0, 0, tok 0)], Claims.Room (gridded q.1 q.2.1 q.2.2.1 q.2.2.2.1 q.2.2.2.2)) ∧
    (∀ q ∈ [(0xA0, 0, 0, 0, tok 0xA0000000), (0xA0, 0, 7, 0, tok 0), (0xA0, 0, 0, 0, tok 0), (0xA1, 0, 7, 1, tok 0), (0xA1, 1, 0, 1, tok 0), (0xA3, 0, 0, 0, tok 0)],
      Claims.EdgeNow (between (gridded q.1 q.2.1 q.2.2.1 q.2.2.2.1 q.2.2.2.2)) 0 0 q.1) ∧
    (match rdGrid 0 0 0x01FFFFFFFFC01000 none (gridded 0xA0 0 7 0 (tok 0)) with
      | .ok (g, v) => g.fmt == 8 && g.wc == 2 && g.hc == 2 && (match warpValue 0 0 (v.elem 0) 0 g 0 0 0 v with | .ok _ => true | _ => false)
      | _ => false) = true ∧
    (match rdQueueing 0 0 0x01FFFFFFFFC01000 (gridded 0xA3 0 0 0 (tok 0)) with | .ok (g, _) => g.rq != 0 | _ => false) = true ∧
    (sequenceStep 0 false (tok 0xA0000000)).isSome = true ∧ (sequenceStep 0 false (tok 0)).isNone = true ∧ recBad 0xC0000000 = true ∧ inCells 7 = true ∧ inCells 0 = false ∧
    (∀ q ∈ [(0, 7), (1, 0)], (match rdDriftGrid 0 (patternOf (walkPattern 2 1 0x08)) 0 0 (gridded 0xA1 q.1 q.2 1 (tok 0)) with | .ok (g, _) => g.wc == 2 | _ => false) = true) ∧
    (match rdDrift 0 0 ((gridded 0xA1 0 7 1 (tok 0)).elem 0) 0 (gridOf (BitVec.ofNat 512 (grid 1))) 0 0 (gridded 0xA1 0 7 1 (tok 0)) with
      | .ok (d, _) => d.queued | _ => false) = true ∧
    (match rdRefresh 0 0 0x01FFFFFFFFC01040 (gridOf (BitVec.ofNat 512 (grid 1))) 0 0 0 (gridded 0xA1 1 0 1 (tok 0)) with | .ok _ => true | _ => false) = true := by
  refine ⟨fun q h => room rfl rfl, fun q h => edgeNow ?_, by decide +kernel⟩
  revert q; decide +kernel

/-- R40, R48, R126 to R128: what a firing at a cell stores or appends, and where. -/
theorem test_grid_operations :
    gives (.warp 0 0) (between (gridded 0xA0 0 7 0 (tok 0))) (fun s => (s.w.elem 0).acc.map (fun a => (a.va, a.len)) == [(0x01FFFFFFFFC02000, 2)]) = true ∧
    gives (.drift 0 0) (between (gridded 0xA1 0 7 1 (tok 0)))
      (fun s => (s.w.elem 0).acc.map (fun a => (a.va, a.val)) == [(0x01FFFFFFFFC03000, 0x400), (0x01FFFFFFFFC04008, 0x8000000100000000)]) = true ∧
    gives (.rfq 0 0) (between (gridded 0xA3 0 0 0 (tok 0))) (fun s => (s.w.elem 0).acc.map (fun a => (a.va, a.val)) == [(0x01FFFFFFFFC04008, 0x8000000100000000)]) = true := by
  decide +kernel

/-! ### Witnesses and tests: events -/

/-- Thread 0 alone, as `th`. -/
def alone (th : Thread) : World := { world [] with threads := [(0, th)] }

/-- An event between two blocks leaves a device of which `f` holds. -/
def happens (i : Instr) (w : World) (f : World → Bool) : Bool := gives i (between w) (fun s => f s.w)

/-- An event pending, a wait that is over, a block counter in memory of zeros and one outside the local window, and a word that is no instruction. -/
theorem witness_ThreadEvents :
    ((alone { thr [] with events := [{ code := 0x41, val := 9 }] }).thread 0).events = [{ code := 0x41, val := 9 }] ∧ (thr []).tstat.getLsbD 2 = false ∧
    (thr []).phase = .running ∧ (thr []).dheld = false ∧
    waitOver (alone { thr [] with phase := .waiting, wait := some .flag, flag := true }) 0 .flag = true ∧
    passes (fetchLine (alone (thr [])) 0 0x01FFFFFFFFC00000) (fun _ line => line.headD 0 == 0) = true ∧
    passes (fetchLine (alone (thr [])) 0 0x1000) (fun _ _ => true) = false ∧
    ({ txn (world []) with words := [0x3FF, 0, 0] } : Txn).instr.toOption = none := by decide +kernel

/-- R131, R133, R167, R259: an event is taken with code, value and tidx 0; a wait that is over lets the thread run; a header of zeros is an illegal block. -/
theorem test_thread_events :
    happens (.eventEntry 0) (alone { thr [] with events := [{ code := 0x41, val := 9 }] })
      (fun w => (w.thread 0).tcause == 0x41 && (w.thread 0).tval == 9 && (w.thread 0).events.isEmpty && (w.thread 0).pc == 0x01FFFFFFFFC00080) = true ∧
    happens (.waitSatisfied 0) (alone { thr [] with phase := .waiting, wait := some .flag, flag := true }) (fun w => (w.thread 0).phase == .running) = true ∧
    happens (.illegalBlock 0) (alone (thr [])) (fun w => (w.thread 0).tcause == 0x01 && (w.thread 0).tidx == 0) = true ∧
    gives (.illegalInstruction 0) { blockIn (world []) with txn := some { txn (world []) with words := [0x3FF, 0, 0] } }
      (fun s => (s.w.thread 0).tcause == 0x02 && (s.w.thread 0).tval == 0x3FF) = true := by decide +kernel

/-- An access of an edge element at the double word of `holding`. -/
def access (op : AccessOp) (va : Nat) (v : Nat) : Access :=
  { h := 0, ord := 0, nth := 0, op := op, va := va, len := 4, fmt := 0x05, val := v, link := 0, hint := 0, pa := 0, cmp := false, outs := [], slot := none, phase := .issued
    epoch := 0, logged := none, met := false }

/-- Edge element 0 with that access, under the memory of `holding 7`. -/
def accessing (a : Access) : World := { fab 0 { elemOf (plane 0x81 0 1 0 0 0 0 0 0) [] with acc := [a] } with mem := setBytes [] 0x10000001000 (leBytes 8 7) }

/-- A refresh queue of `cap` entries at the address of `holding`, with its entries behind it and an append to it as the element's access (R48). -/
def appending (cap : Nat) : World :=
  { fab 0 { elemOf (plane 0x81 0 1 0 0 0 0 0 0) [] with acc := [access .append 0x01FFFFFFFFC01008 5] } with
    mem := setBytes (setBytes [] 0x10000001000 (leBytes 8 0x01FFFFFFFFC01020)) 0x10000001010 (leBytes 4 cap) }

/-- R114, R118, R119: a load, a store and an atomic of mode 0 (add) on the value 7 are performed, and a logged access performs nothing;
R49: an append takes its slot first, and its entry is due then. -/
theorem test_accesses :
    happens (.edgeAccessComplete 0 0) (accessing { access .load 0x01FFFFFFFFC01000 0 with outs := [{ tok := tok 0, lanes := 4, ready := 0 }], slot := some 0 })
      (fun w => (w.elem 0).out.map (·.tok) == [tok 7]) = true ∧
    happens (.edgeAccessComplete 0 0) (accessing (access .store 0x01FFFFFFFFC01000 0x1234)) (fun w => byteAt w.mem 0x10000001000 == 0x34 && byteAt w.mem 0x10000001001 == 0x12) = true ∧
    happens (.edgeAccessComplete 0 0) (accessing (access (.amo 0 0) 0x01FFFFFFFFC01000 5)) (fun w => byteAt w.mem 0x10000001000 == 12 && (w.elem 0).log == [(0, 0, 7, 0)]) = true ∧
    happens (.edgeAccessComplete 0 0) (accessing { access .store 0x01FFFFFFFFC01000 0x1234 with logged := some 0 }) (fun w => byteAt w.mem 0x10000001000 == 7) = true ∧
    happens (.edgeAccessComplete 0 0) (appending 1) (fun w => byteAt w.mem 0x1000000100C == 1 && byteAt w.mem 0x10000001020 == 0 && (w.elem 0).acc.map (·.op) == [.entry 0 (some 0x01FFFFFFFFC01020)]) = true := by
  decide +kernel

/-- Element 1 sends to its eastern neighbour 2, whose port 0 sources from the west and whose crossbar passes on to the east; a crossbar hold; a control bit that the neighbour reads; headers. -/
def sending (x : Elem) : World :=
  { fab 1 x with elems := [(1, x), (2, { elemOf (tabSet 5 2 (tabSet 6 4 (tabSet 10 4 (plane 0x40 0 1 0 0 0 0 0 0)))) [] with busyAt := 0 })] }

/-- What stands in element 1: a result on the eastern lane a, a token on its way through from the south, a control bit for the east, and a header at port 0. -/
def full (hdr : Nat) : Elem :=
  { elemOf (tabSet 4 2 (plane 0x40 0 1 0 0 0 0 0 4)) [{ kind := 1, chan := 0, pay := BitVec.ofNat 32 hdr }] with
    out := [{ tok := tok 9, lanes := 4, ready := 3 }], xb := [(2, tok 8)], cout := [({ b := true, epoch := 0 }, 2)] }

theorem witness_AccessesAndTokens :
    (∀ a ∈ [access .load 0x01FFFFFFFFC01000 0, access .store 0x01FFFFFFFFC01000 5, access (.amo 0 0) 0x01FFFFFFFFC01000 5],
      Claims.MayPerform (between (accessing a)) 0 0 a) ∧
    passes (nodeLoad (accessing (access .load 0x01FFFFFFFFC01000 0)) (edgeReach 0) none (edgeSpace (accessing (access .load 0 0)) 0)
      (access .load 0x01FFFFFFFFC01000 0).touch 0x01FFFFFFFFC01000 4) (fun _ bs => leNat bs == 7) = true ∧
    (∀ a ∈ [access .load 0x01FFFFFFFFC01000 0, access .store 0x01FFFFFFFFC01000 5, access (.amo 0 0) 0x01FFFFFFFFC01000 5], Claims.Room (accessing a)) ∧
    passes (nodeAccess (accessing (access .store 0x01FFFFFFFFC01000 0)) (edgeReach 0) (edgeSpace (accessing (access .load 0 0)) 0) .store 0x01FFFFFFFFC01000 4)
      (fun _ gs => !gs.isEmpty) = true ∧
    (match appendEntry (appending 1) 0 (access .append 0x01FFFFFFFFC01008 5) with | .goesOn _ slot _ => slot == 0 | _ => false) = true ∧
    passes (locateWord (accessing (access (.amo 0 0) 0x01FFFFFFFFC01000 5)) 0 (access (.amo 0 0) 0x01FFFFFFFFC01000 5)) (fun _ g => g.pa == 0x10000001000) = true ∧
    Claims.MaySend (between (sending (full 0x0016FF7F))) 1 ∧
    (∀ h ∈ [0x0016FF7F, 0x80000000], ((sending (full h)).elem 1).head 0 0 = some { kind := 1, chan := 0, pay := BitVec.ofNat 32 h }) ∧
    ({ kind := 1, chan := 0, pay := 0x80000000 } : Token).badHeader = true ∧ ({ kind := 1, chan := 0, pay := 0x0016FF7F } : Token).badHeader = false ∧
    (match toLanes (sending (full 0)) 1 (tok 9) (lanesOf 4) with | .taken _ => true | _ => false) = true ∧
    (match toCtl (sending (full 0)) 1 { b := true, epoch := 0 } [1] with | .taken _ => true | _ => false) = true ∧
    laneDead (sending (full 0)) 1 1 0 = false ∧
    (let x := (sending (full 0)).elem 1
     x.wake = 0 ∧ x.sendAt = 0 ∧ x.ctlAt = 0 ∧ (tok 8).due = 0 ∧ ∀ o ∈ x.out, o.ready ≤ (sending (full 0)).cycle) := by
  refine ⟨fun a h => ⟨?_, ?_, ?_, ?_⟩, by decide +kernel, fun a h => room rfl rfl, by decide +kernel, by decide +kernel, by decide +kernel,
    ⟨by decide +kernel, by decide +kernel⟩, by decide +kernel⟩ <;> (revert a; decide +kernel)

/-- R59, R61, R67: the result, the token on its way through and the control bit go onto the lanes to the neighbour; the header goes into the latch. -/
theorem test_tokens :
    happens (.tokenSend 1 0) (sending (full 0x0016FF7F)) (fun w => (w.elem 2).onLane 0 0 == [tok 9] && (w.elem 1).out.isEmpty) = true ∧
    happens (.tokenSend 1 3) (sending (full 0x0016FF7F)) (fun w => !tabHas 2 (w.elem 1).xb && { tabGet (tok 0) 3 (w.elem 2).xb with due := 0 } == tok 8) = true ∧
    happens (.tokenSend 1 5) (sending (full 0x0016FF7F)) (fun w => (w.elem 2).ctlIn.map (·.b) == [true] && (w.elem 1).cout.isEmpty) = true ∧
    happens (.headerLatch 2 0 0) { sending (full 0) with elems := [(2, { elemOf (plane 0x00 0 1 0 4 0 0 0 4) [{ kind := 1, chan := 0, pay := 0x00160080 }] with busyAt := 0 })] }
      (fun w => (w.elem 2).latchOf 0 0 == 0x00160080 && (w.elem 2).part 0 0 == []) = true := by decide +kernel

/-- Every element of region 0, row by row, as `x`; element 1 as `y`. -/
def whole (x y : Elem) : Tab Elem := ((List.range 16).flatMap fun i => (List.range 16).map fun j => (64 * i + j, if i = 0 ∧ j = 1 then y else x))

/-- A device in which a cut of epoch 1 is under way in region 0. -/
def cutting (x : Elem) : World := { fab 1 x with regions := [(0, { region0 with cutting := true, epoch := 1 })] }

/-- A device whose region 0 has an element fault of cause 5 at element 1, after a complete cut. -/
def faulted (again : Bool) : World :=
  let x := { Elem.reset with cut := some (recordOf (world []) 1 0) }
  { fab 1 x with elems := whole x x, regions := [(0, { region0 with fault := some (1, 5), faulted := again })] }

/-- A committed store of thread 0 whose error response may still come. -/
def aPathStore : PathStore :=
  { va := 0x1000, pa := 2 ^ 48, len := 8, val := 5, size := 8, off := 0, sp := { asid := 0, ptb := 0, user := true }, touch := Touch.store, seq := 0, rel := false
    fenced := false, phase := .sent, met := false }

/-- A source, an element that takes tokens and has a marker at its head, and one with nothing to wait for; a cut that every element has recorded; a
first and a repeated fault; a watchdog that has counted enough; an access, a copy and a store that memory does not serve. -/
theorem witness_CutsAndFaults :
    (∀ x ∈ [elemOf (plane 0x4A 0 0 0 0 0 0 3 4) [], elemOf (plane 0x40 0 1 0 0 0 0 0 4) [mrkWord 1]], Claims.InCut (between (cutting x)) 1 0) ∧
    sourceElement (elemOf (plane 0x4A 0 0 0 0 0 0 3 4) []) = true ∧ markersHead (elemOf (plane 0x40 0 1 0 0 0 0 0 4) [mrkWord 1]) 1 = true ∧
    (∀ f ∈ regionElems (cutting Elem.reset) 0, planeConfigured ((cutting Elem.reset).elem f).act = false) ∧ ((cutting Elem.reset).region 0).fault = none ∧
    (∀ b ∈ [true, false], ((faulted b).region 0).fault = some (1, 5) ∧ ((faulted b).region 0).owner = some 0 ∧ canReceive (faulted b) 0 = true ∧ readFrozen (faulted b) 0 = false ∧ ((faulted b).region 0).faulted = b) ∧
    ((faulted false).region 0).cutDue = false ∧ ((faulted false).region 0).shadow ≠ .wave ∧
    (∀ f ∈ regionElems (faulted false) 0, ((faulted false).elem f).acc = [] ∧ (((faulted false).elem f).cut.map (·.side)) = some ((faulted false).elem f).side) ∧
    2 ^ (World.die (world []) 0).wdl ≤ ({ region0 with still := 2 ^ 20 } : Region).still ∧
    ((nodeFault (accessing (access .load 0x1000 0)) 0 0).map fun n => (n.rcv, n.fault.poison)) = some (some 0, false) ∧
    canReceive { accessing (access .load 0x1000 0) with threads := [(0, { thr [] with events := List.replicate 16 { code := 0x30, val := 0 } })] } 0 = false ∧
    ((nodeFault ((accessing (access .load 0x1000 0)).setRegion 0 { region0 with owner := none, task := some 7 }) 0 0).map fun n => (n.rcv, n.task)) = some (none, some 7) ∧
    ((({ thr [] with path := [aPathStore] } : Thread).path)[0]?.map (·.phase)) = some .sent ∧ canReceive (world []) 0 = true := by
  refine ⟨fun x h => ⟨?_, ?_, ⟨?_, ?_⟩, ?_, ?_⟩, ?_⟩
  all_goals first | decide +kernel | (revert x; decide +kernel)

/-- R260 to R267: an element records and sends the marker on; a store with an error response stalls; a cut completes; a repeated fault raises its event and freezes; a load at an address without a translation stalls, with an event of code 0x24 for the absent entry. -/
theorem test_cuts_and_faults :
    happens (.snapshotRecord 1) (cutting (elemOf (plane 0x40 0 1 0 0 0 0 0 4) [mrkWord 1]))
      (fun w => (w.elem 1).snap.isSome && (w.elem 1).out.map (·.tok) == [mrkWord 1] && (w.elem 1).part 0 0 == []) = true ∧
    happens (.cutComplete 0) (cutting Elem.reset) (fun w => !(w.region 0).cutting && (w.elem 1).cut.isSome) = true ∧
    happens (.rollback 0) (faulted true) (fun w => (w.region 0).frozen && (w.thread 0).events.map (·.code) == [0x35]) = true ∧
    happens (.storeErrorResponse 0 0) (alone { thr [] with path := [aPathStore] }) (fun w => (w.thread 0).path.map (·.phase) == [.stalled] && (w.thread 0).events.map (·.code) == [0x27]) = true ∧
    happens (.memoryNodeFault 0 0) (accessing (access .load 0x1000 0))
      (fun w => (w.elem 0).acc.map (·.phase) == [.stalled] && (w.thread 0).events.map (·.code) == [0x24]) = true := by decide +kernel

/-- A stream of one command, `HEN` of element 1, as an assembler lays it out (R73): region 1 by 1, SCID 1, and `CHK` as SHAKE256 gives it. -/
def stream : List Byte := leBytes 32 (0xC5010011 + 1 * 2 ^ 32 + 1 * 2 ^ 64 + 0x494558c7f3d12b8573fadc8f9f34c727 * 2 ^ 128) ++ leBytes 4 0x00100001

/-- The loads of region 0: `cfgld` at the head of its queue, the header read, the last command read, the shadow released. -/
def loading (g : Region) : World := { fab 1 Elem.reset with mem := setBytes [] 0x10000001000 stream, regions := [(0, g)], cycle := 70 }
def aLoad (cmds : List W32) (lastAt : Option Nat) : Load :=
  { va := 0x01FFFFFFFFC01000, sp := { asid := 0, ptb := 0, user := false }, thread := some 0, hdr := BitVec.ofNat 256 (leNat (stream.take 32)), cmds := cmds, stalled := false
    met := false, lastAt := lastAt }

/-- The digest of the empty message: 46 b9 dd 2b 0b a8 8d 13. -/
theorem test_shake256 : leNat (shake256 [] 8) = 0x138da80b2bddb946 := by decide +kernel

theorem witness_LoadsFlipsAndPower : (∀ g, Claims.Room (loading g)) ∧
    passes (nodeLoad (loading region0) (cfgReach 0) none { asid := 0, ptb := 0, user := false } Touch.load 0x01FFFFFFFFC01000 32)
      (fun _ bs => bs.length == 32 && headerCause region0 0x01FFFFFFFFC01000 (leNat bs) == 0 && headerCause { region0 with mask := 2 } 0x01FFFFFFFFC01008 (leNat bs) == 1) = true ∧
    regionAwake (loading region0) 0 = true ∧ ((loading region0).core 0).off = false ∧ (∀ f ∈ regionElems (loading region0) 0, ((loading region0).elem f).heldSwt = false) ∧
    passes (nodeLoad (loading { region0 with load := some (aLoad [] none) }) (cfgReach 0) none { asid := 0, ptb := 0, user := false } Touch.load 0x01FFFFFFFFC01020 4)
      (fun _ bs => commandCause 1 1 (commandOf (BitVec.ofNat 32 (leNat bs))) == 0) = true ∧
    leNat (shake256 (stream.take 16 ++ leBytes 4 0x00100001) 16) = (aLoad [] none).hdr.toNat / 2 ^ 128 ∧
    (shadowCause (loading { region0 with load := some (aLoad [0x00100001] (some 6)), shadow := .loading }) 0 = 0) ∧
    flipReady (loading { region0 with shadow := .wave }) 0 1 = true ∧
    Elem.reset.idle = true ∧ ({ world [] with sectors := [(3, 64)] } : World).sectors.find? (·.1 == 3) = some (3, 64) := by
  refine ⟨fun g => room rfl rfl, ?_⟩
  decide +kernel

/-- R78 to R83: the header is read, the command applied to the shadow of element 1, the shadow sealed, and the element flips. -/
theorem test_loads_and_flips :
    happens (.loadBegin 0) (loading { region0 with cq := [(.load 0x01FFFFFFFFC01000 false, { asid := 0, ptb := 0, user := false })] })
      (fun w => (w.region 0).shadow == .loading && (w.region 0).scid == 1) = true ∧
    happens (.loadCommand 0) (loading { region0 with load := some (aLoad [] none), shadow := .loading }) (fun w => field (w.elem 1).shd 0 == 1 && ((w.region 0).load.bind (·.lastAt)) == some 70) = true ∧
    happens (.seal 0) (loading { region0 with load := some (aLoad [0x00100001] (some 6)), shadow := .loading }) (fun w => (w.region 0).shadow == .sealed) = true ∧
    happens (.flip 1) { loading { region0 with shadow := .wave } with elems := [(1, { Elem.reset with shd := [(0, 1)], shdCid := 1 })] }
      (fun w => (w.elem 1).act == [(0, 1)] && (w.elem 1).actCid == 1) = true ∧
    happens (.elementClockGate 1) { fab 1 Elem.reset with cycle := 1024 } (fun w => (w.elem 1).gated) = true ∧
    happens (.elementClockGate 1) { fab 1 Elem.reset with cycle := 1023 } (fun w => !(w.elem 1).gated) = true ∧
    happens (.elementWake 1) (fab 1 { Elem.reset with gated := true }) (fun w => !(w.elem 1).gated) = true ∧
    happens (.sectorWake 0 3) { world [] with sectors := [(3, 64)], cycle := 5 } (fun w => w.sectors == [(3, 5)]) = true ∧
    happens (.sectorPowerOff 0 3) { world [] with sectors := [(3, 0)] } (fun w => w.sectors == []) = true := by decide +kernel

/-! ### Witnesses and tests: tasks, engines, chains, the host and Jibor -/

/-- A die TLB that maps the first 2 GiB to themselves for every access of asid 0 (R255). -/
def mapped (w : World) : World :=
  { w with cache := { w.cache with dieTlb := [(0, [{ asid := 0, size := .gib2, va := 0, pa := 0, cmp := false, u := true, w := true, r := true }])] } }

/-- Bytes of a list of (address, bytes, value), from an empty memory. -/
def memOf (l : List (Nat × Nat × Nat)) : List Host.Cell := l.foldl (fun m q => setBytes m q.1 (leBytes q.2.1 q.2.2)) []

/-- R251 to R254: a walk of two levels to a leaf of 2 GiB, whose U, W and R bits allow a user's store, and whose absence is a fault. -/
theorem test_translation :
    let w := { world [] with mem := memOf [(0x20000, 8, 0x40001), (0x40000, 8, 0x8000001F)] }
    passes (translate w (.word 0) { asid := 0, ptb := 0x20000, user := true } .store 5) (fun _ q => q == (0x80000005, false)) = true ∧
    passes (translate w (.word 0) { asid := 0, ptb := 0x20000, user := true } .store 0x80000000) (fun _ _ => true) = false := by decide +kernel

/-- A launch record (R135, R138): RCB at 0x2000, task record at 0x1000, tag 7, code address 0x4000; the task record of a region of one sector, its stream at
0x3000 and its entry at 0x5000; the RCB, a root with no limit of its own. -/
def launch (tag : Nat) : Inbound :=
  { launch := BitVec.ofNat 512 (0x7A000000 + tag * 2 ^ 32 + 0x2000 * 2 ^ 64 + 0x1000 * 2 ^ 128 + 0x4000 * 2 ^ 192), sp := { asid := 0, ptb := 0, user := false }, queue := none, after := none }
def launching (tag : Nat) : World :=
  mapped { world [] with mem := memOf [(0x1000, 24, 0x3000 + 0x5000 * 2 ^ 64 + 0x11 * 2 ^ 128), (0x2000, 4, 0xB7000000)], dies := [(0, { Die.reset with inbox := [launch tag] })] }

/-- A task of die 0 with tag 7 in a phase, that depends on nothing. -/
def task (phase : TaskPhase) : Task :=
  { phase := phase, num := 0, deps := [], src := { asid := 0, ptb := 0, user := false }, space := { asid := 0, ptb := 0, user := true }, caddr := 0x4000, cval := 5
    trec := 0x1000, cfg := 0, hdr := 0, entry := 0x5000, shw := 1, shh := 1, args := List.replicate 8 3, binds := [], prio := 0, readyAt := 0, unplaced := none, fdom := 0
    drain := 0, csave := 0x10000, thand := 0, fring := 0, frecs := 0, path := [], region := none, thread := none, sliceEnd := 0, overrun := 0, victim := none, stopped := false
    forced := false, sameCore := none, fenceBy := none, dying := none }

/-- The device with that task. -/
def tasked (x : Task) : World := mapped { fab 1 Elem.reset with tasks := [(7, x)], regions := [(0, { region0 with owner := none, task := some 7 })] }

/-- A record that is inserted, one with tag 0; tasks that wait for nothing, for a tag and for a word; a ready task that finds a place; a region that is done. -/
theorem witness_TaskLife :
    passes (readLaunch (launching 7) 0 (launch 7)) (fun w q => q.1.entry == 0x5000 &&
      decide (dieNodes (launching 7) 0 + (q.2.filter fun n => !tabHas n.1 w.nodes).length ≤ 512)) = true ∧
    passes (readLaunch (launching 0) 0 (launch 0)) (fun _ _ => true) = false ∧ launchBad (launch 0).launch = false ∧
    (launch 0).launch.toNat / 2 ^ (8 * 24) % 8 = 0 ∧ ((launching 7).die 0).off = false ∧
    dieTasks (tasked (task .waiting)) 0 = [(7, task .waiting)] ∧
    passes (nodeLoad (tasked { task .waiting with deps := [.word 0x6000] }) (.dieAgent 0) (some 7) { asid := 0, ptb := 0, user := false } Touch.load 0x6000 8) (fun _ b => leNat b == 0) = true ∧
    ((firstPlaced (tasked (task .ready)) 0 (readyTasks (tasked (task .ready)) 0) false).map fun q => (q.1, q.2.2.drops)) = some (7, none) ∧
    regionDone (tasked { task .running with region := some 0 }) 0 = true ∧
    (storeCompletion (tasked { task .running with region := some 0 }) 7 { task .running with region := some 0 } 5).2 = true ∧
    passes (nodeStore (tasked (task .running)) (cfgReach 0) (some 7) { asid := 0, ptb := 0, user := true } Touch.store 0x01FFFFFFFFC01000 (leBytes 8 5)) (fun _ _ => true) = true := by
  decide +kernel

/-- R136, R142 to R147: insertion, the poll of a task without open slots, the binding with its thread's start, a period and the completion with its store. -/
theorem test_task_life :
    happens (.taskInsertion 0) (launching 7) (fun w => (w.task? 7).map (fun x => (x.entry, x.shh, x.shw)) == some (0x5000, 1, 1) && (w.die 0).inbox.isEmpty && (w.die 0).nextNum == 1) = true ∧
    happens (.dependencePoll 0) (tasked (task .waiting)) (fun w => (w.task? 7).map (·.phase) == some .ready) = true ∧
    happens (.taskBinding 0) (tasked (task .ready)) (fun w => (w.task? 7).map (·.phase) == some .running && w.threads.any (fun q => q.2.pc == 0x5000 && q.2.readG 4 == 3)) = true ∧
    happens .periodStart { world [] with cycle := 33000 } (fun w => w.periods == 1) = true ∧
    happens (.regionCompletion 0) (tasked { task .running with region := some 0 }) (fun w => byteAt w.mem 0x4000 == 5 && (w.task? 7).isNone && (w.region 0).reusable) = true := by
  decide +kernel

/-- A task that runs in region 0 and is to make room from cycle 3, with its force point at cycle 4. -/
def victim (phase : TaskPhase) : World := (tasked { task phase with region := some 0, victim := some (9, 3, 4, 4) }).setRegion 0 { region0 with owner := none, task := some 7, draining := true }

theorem witness_Preemption :
    (((victim .running).task? 7).map fun x => x.phase == .running && x.victim == some (9, 3, 4, 4) && x.region == some 0) = some true ∧ 3 ≤ (victim .running).cycle ∧ 4 ≤ (victim .stopping).cycle ∧
    ((victim .stopping).region 0).draining = true ∧ ((victim .stopping).region 0).shadow ≠ .wave ∧ quiescent { victim .stopping with cycle := 64 } 0 = true ∧
    accessesSettled (victim .stopping) 0 = true ∧ ((victim .stopping).region 0).saveAt = none ∧
    ((tasked { task .running with fenceBy := some 5 }).task? 7).map (·.fenceBy) = some (some 5) := by decide +kernel

/-- The task frozen at its stop, in a region without a sector; its device with the context saved; and the second half of its restore. -/
def saving : World := (victim .stopping).setRegion 0 { region0 with owner := none, task := some 7, frozen := true, mask := 0 }
def loaded : World := { saving with tasks := [(7, { task .loading with region := some 0 })], mem := setBytes (setBytes [] 0x10000 [0x10, 0, 0x01, 0xCA]) 0x10040 [1] }

set_option maxRecDepth 100000 in
theorem witness_SaveAndRestore : Claims.Room saving ∧ Claims.Room loaded ∧
    passes (writeArea saving 0 (.ctrl 0) (some 7) { asid := 0, ptb := 0, user := false } 0x10000
      { tag := 7, thr := none, halted := false, forced := false, armed := some (0x4000, 5), overrun := saving.cycle - 4, tiles := false } [] none) (fun _ _ => true) = true ∧
    accessesSettled saving 0 = true ∧ readFrozen saving 0 = false ∧ (saving.region 0).saveAt = none ∧
    (let w := (tasked (task .saved)).setRegion 0 Region.reset
     ((firstPlaced { w with sectors := [] } 0 (readyTasks w 0) false).map fun q => (q.1, q.2.1.phase, regionAwake (placeSaved { w with sectors := [] } 7 q.2.1 q.2.2) q.2.2.region)) =
      some (7, .saved, false)) ∧
    (loaded.task? 7).map (fun x => (x.phase, x.region)) = some (.loading, some 0) ∧ regionAwake loaded 0 = true ∧
    firstPlaced loaded 0 (readyTasks loaded 0) false = none ∧
    passes (readArea loaded (.ctrl 0) (some 7) { asid := 0, ptb := 0, user := false } 0x10000 (loaded.region 0)) (fun _ a => areaGood (loaded.region 0) a) = true := by
  refine ⟨room rfl rfl, room rfl rfl, ?_⟩
  decide +kernel

set_option maxRecDepth 100000 in
/-- R274, R277, R279: the save leaves its mark at the area and the place free; at the second half of the restore the task runs again. -/
theorem test_save_and_restore :
    happens (.contextSave 0) saving (fun w => (w.task? 7).map (·.phase) == some .saved && byteAt w.mem 0x10003 == 0xCA) = true ∧
    happens (.taskRestore 0 7) loaded (fun w => (w.task? 7).map (·.phase) == some .running && byteAt w.mem 0x10040 == 2) = true := by decide +kernel

/-- R270: the stop request, the force point, and the freeze 64 cycles after the last move. -/
theorem test_preemption :
    happens (.stopRequest 0 7) (victim .running) (fun w => (w.task? 7).map (·.phase) == some .stopping && (w.region 0).draining) = true ∧
    happens (.forcePoint 0 7) (victim .stopping) (fun w => (w.task? 7).map (·.forced) == some true && (w.region 0).frozen) = true ∧
    happens (.regionFreeze 0) { victim .stopping with cycle := 64 } (fun w => (w.region 0).frozen && !(w.region 0).draining) = true ∧
    happens (.regionFreeze 0) { victim .stopping with cycle := 63 } (fun w => !(w.region 0).frozen) = true := by
  decide +kernel

/-- A copy command of thread 0, and devices with an engine part-way. -/
def copying (blk : Nat) : CopyCmd := { thread := 0, sp := { asid := 0, ptb := 0, user := false }, seq := 1, blk := BitVec.ofNat 512 blk, follow := none, cancelled := false }
def channelOf (ch : Channel) : World := mapped { world [] with mem := memOf [(0, 8, 0x1122334455667788)], channels := [(0, ch)] }

/-- A copy of one row of 8 bytes from address 0 to 0x100, with a stamp of 3 at 0x200 (R242). -/
def copy8 : Nat := 0x100 * 2 ^ 64 + 8 * 2 ^ (8 * 0x10) + 2 ^ (8 * 0x14) + 0x200 * 2 ^ (8 * 0x28) + 3 * 2 ^ (8 * 0x30)

/-- A matrix array and a Sluice with a command at the head of the queue, or in progress. -/
def matrixOf (m : Matrix) : World := mapped { world [] with matrices := [(0, m)] }
def matCmd (op : MatOp) : MatCmd := { thread := 0, sp := { asid := 0, ptb := 0, user := false }, seq := 1, op := op }
def sluiceOf (z : Sluice) : World := mapped { world [] with sluices := [(0, z)] }
def selCmd (op : SelOp) : SelCmd := { thread := 0, sp := { asid := 0, ptb := 0, user := false }, seq := 1, op := op }

/-- A draining session with two chunks to read: what it parses to is a free value (log 78), so nothing more of it is fixed. -/
def drainingSession : Session := { session0 with state := 4, chunks := List.replicate 2 { va := 0, len := 8, thread := 0, seq := 1 } }

theorem witness_EngineEvents : (∀ ch, Claims.Room (channelOf ch)) ∧ (∀ m, Claims.Room (matrixOf m)) ∧ (∀ z, Claims.Room (sluiceOf z)) ∧
    dueWork { world [] with sessions := [(0, drainingSession)] } 0 drainingSession = some (.inr { va := 0, len := 8, thread := 0, seq := 1 }) ∧
    pieceRows (copying copy8).blk 32 0 8 = [(0, 8)] ∧
    (∀ i ∈ [0, 4], mayStart (channelOf { Channel.reset with queue := [copying copy8] }) 0 1 i = true) ∧
    pieceLen (copying copy8).blk 0 = 8 ∧ cTotal (copying copy8).blk = 8 ∧ cKind (copying copy8).blk = 0 ∧ cStamp (copying copy8).blk = 0x200 ∧
    passes (nodeLoad (channelOf { Channel.reset with cur := some (copying copy8) }) (.copy 0) none { asid := 0, ptb := 0, user := false } Touch.load 0 8) (fun _ bs => bs.length == 8) = true ∧
    passes (nodeStore (channelOf { Channel.reset with cur := some (copying copy8) }) (.copy 0) none { asid := 0, ptb := 0, user := false } Touch.store 0x100 (leBytes 8 1)) (fun _ l => l.isEmpty) = true ∧
    World.admitted (world []) none 0 = true ∧ World.admitted (world []) none 2 = true ∧
    slotBusy { world [] with slotsOp := [(1, { Slot.reset with phase := .claimed 0, release := some 1 })] } 0 0 1 1 = false ∧
    (Sluice.reset.stalled = false ∧ Sluice.reset.drain = none ∧ Sluice.reset.run = none ∧ Sluice.reset.queue = []) := by
  refine ⟨fun _ => room rfl rfl, fun _ => room rfl rfl, fun _ => room rfl rfl, ?_, ?_⟩ <;> decide +kernel

/-- R239 to R248, R314, R319: a copy begins, moves its bytes and stamps; a matrix command starts and ends; a slot is released and cleared; a pair enters. -/
theorem test_engine_events :
    happens (.copyBegin 0 0) (channelOf { Channel.reset with queue := [copying copy8] }) (fun w => (w.channel 0).cur.isSome) = true ∧
    happens (.copyBegin 0 8) (channelOf { Channel.reset with cur := some (copying copy8) }) (fun w => numAt w.mem 0x100 8 == 0x1122334455667788 && (w.channel 0).pos == 8) = true ∧
    happens (.copyCompletionPoint 0) (channelOf { Channel.reset with cur := some (copying copy8), pos := 8 }) (fun w => numAt w.mem 0x200 8 == 3 && (w.thread 0).flag && (w.channel 0).cur.isNone) = true ∧
    happens (.matrixCommandStart 0) (matrixOf { Matrix.reset with queue := [matCmd (.zero 2 5)] }) (fun w => (w.tile 2).anchor == 5 && (w.matrix 0).cur.isSome) = true ∧
    happens (.matrixCommandComplete 0) (matrixOf { Matrix.reset with cur := some (matCmd (.zero 2 5)) }) (fun w => (w.matrix 0).cur.isNone) = true ∧
    happens (.slotRelease 1) { world [] with slotsOp := [(1, { Slot.reset with phase := .claimed 0, release := some 1 })] } (fun w => (w.slotOp 1).phase == .clearing) = true ∧
    happens (.slotCleared 1) { world [] with slotsOp := [(1, { Slot.reset with phase := .clearing })], cycle := 64 } (fun w => (w.slotOp 1).phase == .free) = true ∧
    happens (.sluiceAccept 0) (sluiceOf { Sluice.reset with owner := some 0, queue := [selCmd (.cfg (BitVec.ofNat 512 selBlock))] }) (fun w => (w.sluice 0).on) = true := by decide +kernel

/-- An entry of chain 5 with number 6 from the access of element 0, which adds 5 to the double word of `accessing`. -/
def entry (q : Nat) (pred : Option Nat) : ChainEntry := { chain := 5, q := q, pred := pred, succ := some (q + 1), region := 0, elem := 0, h := 0, nth := 0, epoch := 0, ghost := false }
def chained (c : Chain) (es : List ChainEntry) (phase : AccessPhase) : World :=
  { accessing { access .chainAdd 0x01FFFFFFFFC01000 5 with link := 5 * 2 ^ 32 + 6 + 2 ^ 16 + 2 ^ 24, phase := phase, pa := 0x10000001000 } with
    chains := [(5, c)], units := [(chainUnit 5, es)] }

theorem witness_ChainEvents : (∀ c es ph, Claims.Room (chained c es ph)) ∧ behindChainset (chained Chain.reset [] .issued) 0 (access .chainAdd 0x01FFFFFFFFC01000 5) = false ∧
    passes (locateWord (chained Chain.reset [] .issued) 0 { access .chainAdd 0x01FFFFFFFFC01000 5 with link := 5 * 2 ^ 32 + 6 }) (fun _ g => g.pa == 0x10000001000) = true ∧
    chainWaits ((chained Chain.reset [] .issued).elem 0) 0 (access .chainAdd 0x01FFFFFFFFC01000 5) = false ∧ (Chain.reset.owner = none) ∧
    (nextEntry { Chain.reset with last := 5, nxt := some 6 } [entry 6 (some 5)] == some (entry 6 (some 5))) = true ∧ entryIndex (chained Chain.reset [] .atUnit) (entry 6 (some 5)) = some 0 ∧
    performable { Chain.reset with last := 5, nxt := some 7 } (entry 6 (some 5)) = false ∧ 2 ^ (World.die (world []) 0).gapl ≤ ({ Chain.reset with gap := 2 ^ 20 } : Chain).gap ∧
    256 ≤ (List.replicate 256 (entry 6 (some 5))).length := by
  refine ⟨fun _ _ _ => room rfl rfl, ?_⟩
  decide +kernel

/-- R348 to R355: acceptance takes the chain and sends the access; the due entry is performed on the value 7 and becomes `LAST`. -/
theorem test_chain_events :
    happens (.chainAccept 0 0) (chained Chain.reset [] .issued) (fun w => (w.chain 5).owner == some 0 && (w.unit (chainUnit 5)).map (fun en => (en.q, en.pred, en.succ)) == [(6, some 5, some 7)]) = true ∧
    happens (.chainPerform 5) (chained { Chain.reset with last := 5, nxt := some 6, owner := some 0 } [entry 6 (some 5)] .atUnit)
      (fun w => (w.chain 5).last == 6 && (w.chain 5).nxt == some 7 && byteAt w.mem 0x10000001000 == 12) = true ∧
    happens (.chainGap 5) (chained { Chain.reset with last := 5, nxt := some 7, owner := some 0, gap := 2 ^ 20 } [entry 6 (some 5)] .atUnit) (fun w => (w.region 0).fault == some (0, 0x0B)) = true := by
  decide +kernel

theorem witness_ChainState : nextEntry ((chained { Chain.reset with last := 5, nxt := some 6 } [entry 6 (some 5)] .atUnit).chain 5)
    (chainEntries (chained { Chain.reset with last := 5, nxt := some 6 } [entry 6 (some 5)] .atUnit) 5) = some (entry 6 (some 5)) ∧
    (∀ gs, Accesses (blockIn owned) (txn owned) ⟨0, false⟩ gs []) ∧ ((blockIn owned).readG 7).toNat < 2 ^ 12 ∧ Claims.StreamsFree (blockIn owned) ∧
    Claims.Room (chained { Chain.reset with last := 5, nxt := some 6 } [entry 6 (some 5)] .atUnit) := by
  refine ⟨by decide +kernel, fun _ => accesses _ _ _ rfl, by decide +kernel, ?_, room rfl rfl⟩
  unfold Claims.StreamsFree; decide +kernel

/-- A launch queue that is on, of four records, with one to offer. -/
def queued : World := mapped { world [] with queues := [(3, { Queue.reset with en := true, log := 2, tail := 1, irq := true })] }

/-- The host has committed its HDM decoders. -/
def committed : World := { world [] with jibor := { Jibor.reset with hdm := true } }

theorem witness_HostEvents :
    served (world []) (.dieAgent 0) 0 = true ∧ windowOf (128 * 2 ^ 41) = .host ∧ buffered (world []) 3 0 0 = false ∧
    ({ Die.reset with tinvc := [(3, 0, 0)] } : Die).tinvc = [(3, 0, 0)] ∧ (queued.queue 3).en = true ∧ (queued.die 0).fenced = false ∧ (queued.queue 3).prog ≠ (queued.queue 3).tail ∧
    accepts queued 0 { launch := 0, sp := { asid := 0, ptb := 0, user := false }, queue := some 3, after := none } = true ∧ (queued.queue 3).stuck = false ∧
    Jibor.reset.released = true ∧ Jibor.reset.hdm = false ∧ committed.jibor.hdm = true ∧ passes (nodeLoad queued (.dieAgent 0) none { asid := 0, ptb := 0, user := false } Touch.load 0 64) (fun _ b => b.length == 64) = true ∧
    windowOf apertureBase = .aperture := by decide +kernel

/-- R257, R281 to R286, R371: what the host does between blocks. -/
theorem test_host_events :
    happens (.hostMemAccess true 0x40 8 0x1234) committed (fun w => numAt w.mem 0x40 8 == 0x1234) = true ∧
    happens (.hostMemAccess true 0x40 8 0x1234) (world []) (fun w => w.jibor.hdm && numAt w.mem 0x40 8 == 0) = true ∧
    happens (.tinvc 0 0x30007) (world []) (fun w => (w.die 0).tinvc == [(3, 7, 0)]) = true ∧
    happens (.invalidationComplete 0) { mapped (world []) with dies := [(0, { Die.reset with tinvc := [(3, 0, 0)] })] } (fun w => (w.die 0).tinvc.isEmpty && tabGet [] 0 w.cache.dieTlb == []) = true ∧
    happens (.tail 3 5) queued (fun w => (w.queue 3).tail == 5) = true ∧
    happens (.qen 3 false) queued (fun w => !(w.queue 3).en) = true ∧
    happens (.launchRecordOffer 3) queued (fun w => (w.die 0).inbox.map (·.queue) == [some 3] && (w.queue 3).prog == 0) = true ∧
    happens (.pbrIdAssign 5 5 5 5) (world []) (fun w => w.pbr == { valid := true, id := 5 }) = true ∧
    happens (.pbrIdAssign 5 5 5 6) (world []) (fun w => !w.pbr.valid) = true ∧
    happens (.interruptRegister 0 4) (world []) (fun w => (w.thread 0).events == [{ code := 0x41, val := 4 }]) = true ∧
    happens (.interruptRegister 0 4) (alone { thr [] with events := [{ code := 0x41, val := 3 }] }) (fun w => (w.thread 0).events == [{ code := 0x41, val := 7 }]) = true := by decide +kernel

/-- One interrupt pending behind another event, none pending, and 15 events. -/
theorem witness_ExternalInterrupts :
    (∀ e ∈ ((alone (thr [])).thread 0).events, e.code ≠ 0x41) ∧ (List.replicate 15 ({ code := 0x30, val := 0 } : Event)).length < 16 ∧
    ((alone { thr [] with events := [{ code := 0x30, val := 0 }, { code := 0x41, val := 3 }] }).thread 0).events = [{ code := 0x30, val := 0 }] ++ { code := 0x41, val := 3 } :: [] ∧
    canReceive { alone { thr [] with events := List.replicate 16 { code := 0x30, val := 0 } } with owed := [{ rcv := 0, record := none, code := 0x41, val := 1, flag := false }] } 0 = false ∧
    (0 : Nat) < 1280 ∧ (1279 : Nat) < 1280 := by decide +kernel

/-- Jibor at module level, and a thread held. -/
def debugged (t : Thread) : World := { world [] with threads := [(0, t)], jibor := { Jibor.reset with level := 2 } }

theorem witness_JiborMailbox :
    Claims.DebugOpen (between (debugged (thr []))) 0 ∧ imageFormed (hostBytes (world []) 0 256) = false ∧ Jibor.reset.released = true ∧ Jibor.reset.returned = false ∧
    (List.replicate 32 (0 : Byte)).length = 32 ∧ tokenResult Jibor.reset [] = 4 ∧ ({ Jibor.reset with life := 0 } : Jibor).life ≠ 1 ∧ programAllowed { Jibor.reset with life := 0 } = true ∧
    programAllowed Jibor.reset = false ∧ Jibor.reset.busy = false ∧ coversRegion (world []) 0 = false ∧
    (let w := { fab 0 Elem.reset with jibor := { Jibor.reset with level := 2 } }
     coversRegion w 0 = true ∧ (w.region 0).shadow ≠ .wave ∧ accessesSettled (freezeRegion w 0) 0 = true) ∧
    (let w := { accessing (access .load 0x01FFFFFFFFC01000 0) with jibor := { Jibor.reset with level := 2 } }
     coversRegion w 0 = true ∧ accessesSettled (freezeRegion w 0) 0 = false) ∧ covers (world []) 0 = false := by
  refine ⟨⟨rfl, ?_, ?_, ?_, ?_, ?_⟩, ?_⟩ <;> decide +kernel

/-- R291, R293, R294: malformed requests, and what the debug commands make of a thread. -/
theorem test_jibor_mailbox :
    happens (.image 0) (world []) (fun w => w.jibor.result == 4) = true ∧
    happens (.record 0) (world []) (fun w => w.jibor.result == 4) = true ∧
    happens (.attest []) { world [] with jibor := { Jibor.reset with released := false } } (fun w => w.jibor.result == 3) = true ∧
    happens (.dhold 0) { world [] with jibor := { Jibor.reset with busy := true } } (fun w => w.jibor.busy && w.jibor.result == 0) = true ∧
    happens (.dbgopen 2 0 []) (world []) (fun w => w.jibor.result == 4) = true ∧
    happens .dbgclose (debugged { thr [] with dheld := true }) (fun w => w.jibor.level == 0 && !(w.thread 0).dheld) = true ∧
    happens (.dhold 0) (debugged (thr [])) (fun w => (w.thread 0).dheld && w.jibor.result == 0) = true ∧
    happens (.dhold 0) (world []) (fun w => w.jibor.result == 3) = true ∧
    happens (.dstep 0) (debugged { thr [] with dheld := true }) (fun w => (w.thread 0).dstep) = true ∧
    happens (.drun 0) (debugged { thr [] with dheld := true }) (fun w => !(w.thread 0).dheld && (w.thread 0).drun) = true := by decide +kernel

theorem witness_JiborPowerAndFences :
    ((unitOf 0).bind (·.core)) = some 0 ∧ ((unitOf 0x30000).map (·.full)) = some true ∧ (unitOf 0x80).isNone = true ∧ coreMayOff State.reset.w 0 = true ∧
    coreIdle State.reset.w 0 = true ∧ ({ Core.reset with dbgWake := some 0 } : Core).dbgWake = some 0 ∧
    dieMayRetain { State.reset.w with cores := ((List.range 40).map fun c => (c, { Core.reset with off := true })) } 0 = true ∧
    (∀ i < 4, (State.reset.w.region i).cq = [] ∧ (State.reset.w.region i).running = false) ∧ ((world []).thread 0).phase = .running ∧ (runningImage Jibor.reset 1).isNone = true := by
  decide +kernel

/-- R295 to R297: the fence of core 0 and its end, a core off and awake, a die in retention and awake, and a power-on with empty flash. -/
theorem test_jibor_power_and_fences :
    happens (.fence 0) State.reset.w (fun w => (w.core 0).fenced && w.jibor.result == 0) = true ∧
    happens (.fence 0x80) State.reset.w (fun w => w.jibor.result == 4) = true ∧
    happens (.unfence 0) { State.reset.w with cores := [(0, { Core.reset with fenced := true })] } (fun w => !(w.core 0).fenced) = true ∧
    happens (.coreOff 0) State.reset.w (fun w => (w.core 0).off) = true ∧
    happens (.coreWake 0) { world [] with cores := [(0, { Core.reset with off := true })] } (fun w => !(w.core 0).off) = true ∧
    happens (.debugWakeExpiry 0) { State.reset.w with cores := [(0, { Core.reset with dbgWake := some 0 })], cycle := 1024 } (fun w => (w.core 0).dbgWake.isNone) = true ∧
    happens (.dieWake 0) { State.reset.w with dies := [(0, { Die.reset with retention := true })] } (fun w => !(w.die 0).retention) = true ∧
    happens (.junctionTemperature true) State.reset.w (fun w => w.jibor.hot) = true ∧
    happens .powerOn State.reset.w (fun w => !w.jibor.released) = true := by decide +kernel

/-! ### Witnesses: stores that are not performed, full queues, and words that are turned away -/

/-- Thread 0 with stores at its store path; local offset 0x1000 holds 5. -/
def stored (l : List PathStore) : World := { holding 5 with threads := [(0, { thr mfile with path := l })] }

/-- A store of an earlier block that stands stalled at local offset 0x1000, with a fence behind it or without. -/
def held (fenced : Bool) : PathStore := { aPathStore with va := 0x01FFFFFFFFC01000, pa := 0x10000001000, phase := .stalled, fenced := fenced }

/-- The parts of a checked access of 8 bytes, of which `f` holds. -/
def parts (w : World) (acc : Acc) (o : Order) (va : Nat) (f : World → List Seg → Bool) : Bool :=
  passes (checkAccess w 0 (wordSpace (blockIn w)) acc o va 8) f

/-- A store that overlaps the held one is held up, one beside it is not but as a release, and behind a fence each is; an access to host memory has its answer later. -/
theorem witness_HeldStores : Unpoisoned (stored [held false]) ∧
    parts (stored [held false]) .store .plain 0x01FFFFFFFFC01000 (fun w gs => !gs.isEmpty && gs.all (heldUp w 0 false)) = true ∧
    parts (stored [held false]) .store .plain 0x01FFFFFFFFC01008 (fun w gs => gs.all fun g => !heldUp w 0 false g && heldUp w 0 true g && !answers w g.pa) = true ∧
    parts (stored [held true]) .store .plain 0x01FFFFFFFFC01008 (fun w gs => gs.all (heldUp w 0 false)) = true ∧
    answers (stored []) (2 ^ 48) = true ∧ answers (stored []) (2 ^ 51) = true ∧ answers (stored []) (2 ^ 48 - 1) = false :=
  ⟨⟨rfl, rfl⟩, by decide +kernel⟩

/-- An atomic on bytes of a stalled store waits, one beside it does not, and an arrival waits for each; it waits for none at an empty path. -/
theorem witness_IndivisibleWordsFollow :
    (∀ q ∈ [(0x01FFFFFFFFC01000, false, true), (0x01FFFFFFFFC01008, false, false), (0x01FFFFFFFFC01008, true, true)],
      parts (stored [held false]) .atomic .atomic q.1 (fun w gs => rmwWaits (rmwReady w 0 (wordSpace (blockIn w)) q.2.1 gs) 0 (wordSpace (blockIn w)) q.2.1 gs == q.2.2) = true) ∧
    parts (stored []) .atomic .atomic 0x01FFFFFFFFC01000 (fun w gs => !rmwWaits w 0 (wordSpace (blockIn w)) true gs) = true ∧
    blockFenced (blockIn (stored [held false])) = false := by decide +kernel

/-- With virtual 0 at the registers' aperture, a load there waits for the thread's own store there. -/
theorem witness_RegisterLoadsWait :
    let w (l : List PathStore) := { mapped (stored l) with cache := { (mapped (stored l)).cache with
      dieTlb := [(0, [{ asid := 0, size := .gib2, va := 0, pa := apertureBase, cmp := false, u := true, w := true, r := true }])] } }
    mmioWaits (blockIn (w [{ held false with pa := apertureBase }])) .plain 8 8 = true ∧ mmioWaits (blockIn (w [held false])) .plain 8 8 = false := by decide +kernel

/-- A fence of the block in hand, or of an earlier one, behind a held store. -/
theorem witness_FencesHold : (∀ w, Reached (blockIn w) (txn w) ⟨0, false⟩ .other [1, 2, 5] []) ∧
    (∃ y ∈ ((txn (stored [held true])).saved.thread 0).path, y.fenced = true) ∧ fenceHolds 0 (txn (stored [held true])) = true ∧
    fenceHolds 0 { txn (stored [held false]) with fenced := true } = true ∧ fenceHolds 0 (txn (stored [held false])) = false :=
  ⟨fun w => reached w _ _ _, ⟨_, .head _, rfl⟩, by decide +kernel⟩

/-- A held store with a fence behind it, over the header of the next block and beside it. -/
theorem witness_FetchWaits :
    let w (pa : Nat) : World := { world [] with
      mem := [(0x10000000000, 3), (0x10000000003, 0xA5)], threads := [(0, { thr [] with path := [{ held true with pa := pa }] })] }
    fetchWaits (w 0x10000000000) 0 = true ∧ fetchWaits (w 0x10000001000) 0 = false ∧ fetchWaits (world []) 0 = false ∧
    ({ between (world []) with agenda := [.thread, .pass] } : State).agenda = .thread :: [.pass] := by decide +kernel

/-- Bit 3 of mstat set by a command of thread 1 in this cycle, and in an earlier one. -/
theorem witness_SaturationSetNow :
    setNow { world [] with cores := [(0, { Core.reset with satSets := [(3, 0, 1, false)] })] } 0 = [(3, 1, false)] ∧
    setNow { world [] with cycle := 1, cores := [(0, { Core.reset with satSets := [(3, 0, 1, false)] })] } 0 = [] ∧ canReceive (world []) 1 = true := by decide +kernel

/-- A sealed shadow that no switch has released and no command before the load, and one with a command before it. -/
theorem witness_LoadDiscards :
    let g : Region := { region0 with shadow := .sealed }
    g.shadow = .sealed ∧ g.cq = [] ∧ ({ g with cq := [(.switch, { asid := 0, ptb := 0, user := false })] } : Region).cq ≠ [] ∧ g.cutDue = false := by decide +kernel

/-- A reusable region under the new mask, and a task whose failure a budget holds and does not hold. -/
theorem witness_RegionsReused :
    let w : World := { owned with regions := [(0, region0), (1, { Region.reset with mask := 2, reusable := true })] }
    (w.region 1).reusable = true ∧ (w.region 1).mask &&& 2 ≠ 0 ∧ (w.region 1).shadow ≠ .wave ∧ maskIsRect 2 = true ∧
    (∀ b ∈ [true, false],
      failHeld { tasked { task .running with path := [9] } with nodes := [(9, { Node.free with lim := [0xFFFFFFFF, 0xFFFFFFFF, if b then 0 else 1, 0xFFFFFFFF] })] } 7 7 = b) := by decide +kernel

/-- A stream queue of 16, a thread port of 16 tokens, and a stream that is no thread port. -/
theorem witness_FullStreams :
    let w := (owned.setStreamQueue 0 (List.replicate 16 (.reissue 0))).setStream 0 { Stream.reset with bound := true, port := true, inq := List.replicate 16 (tok 0) }
    16 ≤ (w.streamQueue 0).length ∧ 16 ≤ (w.stream 0).inq.length ∧ (w.stream 1).port = false ∧ (owned.streamQueue 0).length < 16 := by decide +kernel

/-- The first check of `mzero` that fails, and the second; a block of no meaning for `mread`'s last. -/
theorem witness_ArgumentsAtFault :
    (∃ q ∈ Claims.matrixWords (blockIn slots) ⟨0, false⟩ 7 2 0, Claims.FailsAt q.2.2.1 7) ∧
    (∃ q ∈ Claims.matrixWords (blockIn slots) ⟨0, false⟩ 3 2 0, Claims.FailsAt q.2.2.1 2) ∧
    (∃ q ∈ Claims.sluiceWords (blockIn slots) ⟨0, false⟩ 2 3, Claims.FailsAt q.2.2.1 2) :=
  ⟨⟨_, .head _, .inl ⟨by decide +kernel, rfl⟩⟩, ⟨_, .head _, .inr ⟨by decide +kernel, .inl ⟨by decide +kernel, rfl⟩⟩⟩, ⟨_, .head _, .inl ⟨by decide +kernel, rfl⟩⟩⟩

/-- A channel that stands stalled in its payload and one stalled at its stamp, a full queue, and channel number 5. -/
theorem witness_ChannelsStalled :
    let w (pos : Nat) : World := { slots with channels := [(0, { Channel.reset with cur := some (copying copy8), pos := pos, stalled := true, queue := List.replicate 8 (copying copy8) })] }
    ((w 7).channel 0).pos < cTotal (copying copy8).blk ∧ ¬((w 8).channel 0).pos < cTotal (copying copy8).blk ∧ 8 ≤ ((w 7).channel 0).queue.length ∧
    4 ≤ ((blockIn slots).readG 7).toNat := by decide +kernel

/-- `hwclose` behind a `qfence` of queues 0 and 6 with a copy before it, and with none; a session with a chunk queued. -/
theorem witness_DrainBegins :
    (let w : World := { slots with cmdSeq := 3, threads := [(0, { thr rfile with qfences := [(2, 0x41)] })], channels := [(0, { Channel.reset with queue := [copying copy8] })] }
     mayStart w 0 3 6 = false) ∧ mayStart { slots with cmdSeq := 2 } 0 2 6 = true ∧ ({ drainingSession with state := 2 } : Session).chunks ≠ [] := by decide +kernel

/-- A pattern of a mode and a subtype that suit no edge operation (R113). -/
theorem witness_PatternBreaks :
    (∀ q ∈ [(0x80, 0), (0x82, 1), (0x88, 0), (0xA0, 1)],
      let w := edge (plane q.1 0 q.2 0 0 0 0 0 4) [tok 2] (walkPattern 3 9 0x05) false
      Claims.FiresNow (between w) 0 0 q.1 ∧ (boundStream w 0 0).port = false ∧ patternBad q.1 0 (patternOf (boundStream w 0 0).blk) = true) := by
  refine fun q h => ⟨firesNow ?_, ?_, ?_⟩ <;> (revert q; decide +kernel)

/-- A block of the words `l` behind its header, at the block counter. -/
def coded (l : List Nat) : World := { alone (thr []) with mem := setBytes [] 0x10000000000 (l.flatMap (leBytes 4)) }

/-- The first word of an instruction's encoding, as a number. -/
def wordOf (i : Instr) : Nat := ((encode i).map fun q => q.1.toNat).getD 0

/-- The words of the block at the block counter. -/
def blockWords (w : World) (f : (Nat → W32) → Bool) : Bool := passes (fetchLine w 0 0x01FFFFFFFFC00000) fun _ l => f fun i => l.getD i 0

/-- R167: a word behind the last that is not zero, a ninth exit, and a long form at the last word; a second line that is not in the local window. -/
theorem witness_IllegalBlocks :
    blockWords (coded [0xA5000003, 0, 0, 0, 7]) (fun word => word 4 == 7 && (word 0).toNat % 2 ^ 7 == 3) = true ∧ Claims.GoodHeader 0xA5000003 ∧
    blockWords (coded (0xA5000009 :: List.replicate 9 (wordOf (.halt ⟨0, false⟩))))
      (fun word => ((Claims.wordsFrom word 9 1 9).filter fun i => Claims.exitWord (word i))[8]? == some 9) = true ∧
    blockWords (coded [0xA5000001, wordOf (.li ⟨0, false⟩ 5 1)]) (fun word => (Claims.wordsFrom word 1 1 1) == [1] && isLong (word 1)) = true ∧
    (let w : World := { alone { thr [] with pc := 0x01FFFFFFFFFFFF80 } with mem := setBytes [] 0x100003FFF80 (leBytes 4 0xA5004003) }
     passes (fetchLine w 0 0x01FFFFFFFFFFFF80) (fun w0 l => l.headD 0 == 0xA5004003 && !passes (fetchLines w0 0 (0x01FFFFFFFFFFFF80 + 128) 1) (fun _ _ => true)) = true) := by
  refine ⟨by decide +kernel, ?_, by decide +kernel⟩
  unfold Claims.GoodHeader; decide +kernel

/-- R167: each of them traps at its word. -/
theorem test_illegal_blocks :
    ∀ q ∈ [([0xA5000003, 0, 0, 0, 7], 7, 4), (0xA5000009 :: List.replicate 9 (wordOf (.halt ⟨0, false⟩)), wordOf (.halt ⟨0, false⟩), 9),
        ([0xA5000001, wordOf (.li ⟨0, false⟩ 5 1)], wordOf (.li ⟨0, false⟩ 5 1), 1)],
      happens (.illegalBlock 0) (coded q.1) (fun w => (w.thread 0).tcause == 0x01 && (w.thread 0).tval.toNat == q.2.1 && (w.thread 0).tidx.toNat == q.2.2) = true := by
  decide +kernel

/-- An edge element whose `ldst` has a feedback port with a marker at its head (log 68); a cut that is open at a switch; an error that the access has met, and one it has not. -/
theorem witness_CutsAtASwitch :
    (let x := elemOf (plane 0x80 0 1 0 0 0 0 0 4) [mrkWord 1]
     sourceElement x = false ∧ activeQueues x.act ≠ [] ∧ markersHead x 1 = true ∧ x.out.length + x.pureWaiting < 2) ∧
    (elemOf (plane 0x40 0 1 0 0 0 0 0 4) [mrkWord 1]).wake ≤ (cutting Elem.reset).cycle ∧
    (∀ b ∈ [true, false], let g : Region := { region0 with cutting := true, cutDue := true, cutOld := b }
      g.cutOld = b ∧ g.cutDue = true ∧ g.running = true ∧ g.starting = false) ∧
    (∀ b ∈ [true, false], (nodeFault { accessing { access .load 0x01FFFFFFFFC01000 0 with met := b } with poison := [(0x10000001000 / 32, ())] } 0 0).map
      (fun n => (n.rcv, n.fault.poison, n.met)) = some (some 0, true, b)) := by decide +kernel

/-- The owner's stores done, and one that is not. -/
theorem witness_OwnerStores : ownerStoresDone (loading region0) 0 = true ∧ ownerStoresDone { loading region0 with threads := [(0, { thr [] with path := [aPathStore] })] } 0 = false ∧
    (task .waiting).dying = none ∧ (thr []).path = [] := by decide +kernel

/-- An engine with power, one without; a slot that a thread leaves; a command that a `qfence` holds, and one that none holds. -/
theorem witness_EnginesPowered :
    ((channelOf Channel.reset).die 0).off = false ∧ coreGated (matrixOf Matrix.reset) 0 = false ∧ coreGated { world [] with cores := [(0, { Core.reset with off := true })] } 0 = true ∧
    (Slot.reset.phase ≠ .leaving 0 ∧ ({ Slot.reset with phase := .leaving 0, release := some 1 } : Slot).release = some 1) ∧
    (let w : World := { sluiceOf { Sluice.reset with queue := [{ selCmd (.drain true false) with seq := 3 }] } with
      threads := [(0, { thr [] with qfences := [(2, 0x21)] })], channels := [(0, { Channel.reset with queue := [copying copy8] })] }
     mayStart w 0 3 5 = false) ∧ mayStart (sluiceOf Sluice.reset) 0 3 5 = true := by decide +kernel

/-- A record on offer, one that is due, and one past the ring. -/
theorem witness_RecordsOnOffer :
    let y : Queue := { Queue.reset with en := true, log := 2, tail := 1 }
    y.offered = none ∧ ({ y with offered := some 0 } : Queue).offered = some 0 ∧ y.prog ≠ y.tail ∧ 2 ^ min y.log 20 < (5 + 2 ^ 32 - y.prog) % 2 ^ 32 := by decide +kernel

/-- The host's write of `MARG` between two blocks (R291), and what it reads back. -/
theorem witness_MailboxWrites : ({ between (world []) with agenda := [.mailbox 0x08 8 7] } : State).agenda = .mailbox 0x08 8 7 :: [] ∧
    (mailboxWrite (world []) 0x08 8 7).jibor.arg0 = 7 ∧ mailboxRead (mailboxWrite (world []) 0x08 8 7).jibor 0x08 8 = 7 := by decide +kernel

/-! ### Witnesses and tests: rounding, counts, the walkers' streams, and what a cycle's end brings in -/

/-- R95, R302: what the spec's text works out: 1, 0.5, -1 and 410 as fw32; `frcp` of 0x7FDFFFFF, `fexp2` of 512 and of -511; and ties to even. -/
theorem test_rounding :
    ([(0x3FE00000, false, 1, 0), (0x3FC00000, false, 1, -1), (0xBFE00000, true, 1, 0), (0x40F34000, false, 410, 0)] : List (W32 × Bool × Nat × Int)).all
      (fun q => roundFw (.fin q.2.1 q.2.2.1 q.2.2.2 false) 0 == (q.1, 0)) = true ∧
    fwRcp 0 0x7FDFFFFF = (0, 0b00011) ∧ fwExp2 0 0x41000000 = (0x7FE00000, 0b00101) ∧ fwExp2 0 0xC0FFE000 = (0, 0b00011) ∧
    Claims.nearest 0 false 5 2 = (2, false) ∧ Claims.nearest 0 true 7 2 = (4, false) ∧ Claims.nearest 2 true 5 2 = (3, false) ∧ Claims.nearest 3 true 5 2 = (2, false) := by
  decide +kernel

/-- Values of each kind: a finite one, a zero, an infinity and a NaN; the format of `frm` 0x1C. -/
theorem witness_Rounding : Claims.valueOf .fw32 0x3FE00000 = .fin false (2 ^ 21) (-21) false ∧ Claims.valueOf .fw32 0x80000005 = .zero true ∧
    Claims.valueOf .fw32 0xFFE00000 = .inf true ∧ Claims.valueOf .fw32 0x7FE00001 = .nan ∧ Claims.valueOf .fw32 0xFFE00000 ≠ .inf false ∧
    Claims.place 1 0x80000000 < Claims.place 1 0 ∧ Fmt.ofB8F 0x1C ∈ Claims.floatFormats ∧ Fmt.bf16 ∈ Claims.floatFormats ∧ (Fmt.ofB8F 0x1C).signed = false := by
  decide +kernel

/-- A stream with a store that is not performed, one without, counts within limits and past them, and a store in two parts. -/
theorem witness_Counts : Claims.StreamWait busy 0 0 ∧ ¬ Claims.StreamWait busy 0 1 ∧ Claims.CountedWithin busy 0 0 1 0 ∧ ¬ Claims.CountedWithin busy 0 0 0 0 ∧
    storesLeft (stored [{ held false with va := 0x1FFC, len := 4, size := 8 }, { held false with va := 0x2000, len := 4, size := 8, off := 4 }]) 0 = 1 ∧
    storesLeft (stored [held false, held false]) 0 = 2 := by
  refine ⟨⟨by decide, rfl, rfl, 0, busy.elem 0, _, .head _, rfl, .head _, by decide, by decide, by decide, by decide +kernel, fun l h => ?_⟩,
    fun h => ?_, ?_, ?_, by decide +kernel, by decide +kernel⟩
  · rw [show (busy.thread 0).since = none from rfl] at h; cases h
  · exact absurd h.2.2.1 (by decide +kernel)
  · unfold Claims.CountedWithin; decide +kernel
  · unfold Claims.CountedWithin; decide +kernel

/-- Thread 0 holds region 0; regions 1 to 3 are reusable, in part under the new mask. -/
def reusing : World :=
  { owned with regions := (0, region0) :: [1, 2, 3].map fun i => (i, { Region.reset with mask := 2 ^ i, reusable := true }) }

/-- R249: for a session that the thread may not name `hwpic` gives 2. -/
theorem test_hwpic_unnamed : leaves (.hwpic ⟨0, false⟩ 0 2 3) slots (fun s => s.w.sessions.isEmpty) = true ∧
    leaves (.hwpic ⟨0, false⟩ 1 2 3) slots (fun s => s.readG 1 == 2) = true := by decide +kernel

theorem witness_RegionHandles : ¬ (∃ j < 4, (reusing.region j).mask = 0 ∨ ((reusing.region j).reusable = true ∧ (reusing.region j).mask &&& 16 ≠ 0)) ∧
    (∃ j < 4, (reusing.region j).mask = 0 ∨ ((reusing.region j).reusable = true ∧ (reusing.region j).mask &&& 4 ≠ 0)) ∧ (reusing.region 0).reusable = false ∧
    (∀ h < 4, (reusing.region h).reusable = true → (reusing.region h).shadow ≠ .wave ∧ regionElems reusing 0 ≠ []) ∧ maskIsRect 4 = true ∧ maskIsRect 16 = true := by
  decide +kernel

/-- R86: `merge`, `carry` and `dup` take a third port's token that they require; an element that requires only what it names takes no other. -/
theorem test_triggers : ∀ q ∈ ([(.merge 1 0, steered 0x43 7 1 0 false [tok 7, tok 8, tok 9]), (.carry 1 0, steered 0x44 7 1 0 false [tok 7, tok 8, tok 9]),
    (.dup 1 0, elemOf (plane 0x48 0 7 0 0 0 0 2 4) [tok 7, tok 8, tok 9])] : List (Instr × Elem)),
    happens q.1 (fab 1 q.2) (fun w => (w.elem 1).part 2 0 == [] && (w.elem 1).part 0 0 == [tok 7]) = true := by decide +kernel

/-- R320, R322: a pair enters behind those it does not rank above, and a NaN enters nothing. -/
theorem test_selin :
    let w (t : Token) := (fab 0 (elemOf (plane 0x8A 0 3 0 1 0 0 0 4) [t, tok 5])).setSluice 0
      { Sluice.reset with owner := some 0, on := true, blk := BitVec.ofNat 512 (selBlock + 0x300), pairs := [(0x40000000, 1), (0x3FC00000, 2)] }
    happens (.selin 0 0) (w (tok 0x3FE00000)) (fun w => (w.sluice 0).pairs.map (·.2) == [1, 5, 2]) = true ∧
    happens (.selin 0 0) (w (tok 0x40000000)) (fun w => (w.sluice 0).pairs.map (·.2) == [1, 5, 2]) = true ∧
    happens (.selin 0 0) (w (tok 0x7FF00000)) (fun w => (w.sluice 0).pairs.map (·.2) == [1, 2]) = true ∧
    isNaN (BitVec.ofNat 32 0x7FF00000) = true ∧ isNaN (BitVec.ofNat 32 0x3FE00000) = false := by decide +kernel

/-- What a read gives. -/
def readsTo {α : Type} [BEq α] (r : Except Stop (α × World)) (v : α) : Bool := match r with
  | .ok (x, _) => x == v
  | .error _ => false

/-- R121, R122, R125: the streams of the tensor of one record: k0 names word 0; the value 3 at place 0 of class 1; the record, its
one unit, which is coded, and the cell (1, 0) in it. -/
theorem witness_WalkStreams :
    readsTo (Claims.btwalkOf 0 1 (patternOf (walkPattern 1 0 0x01)) (walker 0x88 1 1 0)) [tok 1, ctl 1, ctl 2] = true ∧
    readsTo (Claims.cfrdOf 0 true (patternOf (walkPattern 1 1 0x01)) (walker 0x89 0 1 1)) [tok 0x30000, ctl 2, ctl 1] = true ∧
    readsTo (Claims.mvcellOf 0 (patternOf (walkPattern 1 2 0x01)) (walker 0xA2 0 1 2))
      [tok 0xA0000000, tok 0x02400000, tok 0, tok 0, tok 0x100000, tok 0x10000, tok 0x80000001, tok 1, ctl 2] = true ∧
    (∀ q ∈ [(0x88, Claims.btwalkOf 0 1 (patternOf (walkPattern 1 0 0x01)), (0 : Nat)), (0x89, Claims.cfrdOf 0 false (patternOf (walkPattern 1 1 0x01)), 1),
        (0xA2, Claims.mvcellOf 0 (patternOf (walkPattern 1 2 0x01)), 2)],
      readsTo (q.2.1 (blocksAt (edge (plane q.1 0 0 0 0 0 0 1 4) [] (walkPattern 1 q.2.2 0x01) false) [0])) [] = false) ∧
    headerBad 0 = true ∧ readsTo (rdNum 0 0 0x01FFFFFFFFC01000 64 (blocksAt (walker 0x88 1 1 0) [0])) 0 = true := by decide +kernel

/-- R121, R122, R125: each walker emits its first token and then, at its place, the next. -/
theorem test_walks_emit : ∀ q ∈ ([(.btwalk 0 0, walker 0x88 1 1 0, [(0, tok 1), (1, ctl 1), (2, ctl 2), (3, ctl 3)]), (.cfrd 0 0, walker 0x89 0 1 1, [(0, tok 0x30000), (1, ctl 2), (2, ctl 3)]),
      (.mvcell 0 0, walker 0xA2 0 1 2, [(0, tok 0xA0000000), (7, tok 1), (8, ctl 2), (9, ctl 3)])] : List (Instr × World × List (Nat × Token))),
    ∀ t ∈ q.2.2, happens q.1 (q.2.1.setElem 0 (((q.2.1.setStream 0 { q.2.1.stream 0 with begun := true }).elem 0).setAt 0 t.1) |>.setStream 0 { q.2.1.stream 0 with begun := true })
      (fun w => (w.elem 0).out.map (·.tok) == [t.2]) = true := by decide +kernel

/-- R43, R46, R50: the values of a cell of `gridded` whose record is all zeros: an intra cell is refreshed, and queued at level 1. -/
theorem witness_GridValues :
    let g := gridOf (BitVec.ofNat 512 (grid 1))
    readsTo (Claims.warpOf 0 0 ((gridded 0xA0 0 7 0 (tok 0)).elem 0) 0 g 0 0 0 (gridded 0xA0 0 7 0 (tok 0))) ((0 : Nat), (0 : Flags)) = true ∧
    readsTo (Claims.driftOf 0 0 ((gridded 0xA1 0 7 1 (tok 0)).elem 0) 0 g 0 0 (gridded 0xA1 0 7 1 (tok 0))) (0x400, false, true) = true ∧
    readsTo (Claims.refreshOf 0 0 0x01FFFFFFFFC01040 g 0 0 0 (gridded 0xA1 1 0 1 (tok 0))) (0x100, false, false) = true ∧
    Claims.kindOf ((gridded 0xA0 0 7 0 (tok 0)).elem 0) 0 = 0 ∧ g.level = 1 ∧ g.rq ≠ 0 := by decide +kernel

/-- R61, R63: what a cycle frees of a partition is there from the next cycle on, and so is what lane a brings; what a crossbar drops stands there at once. -/
theorem witness_PartitionsFill :
    let w := sending (full 0)
    let y (w : World) := w.elem 2
    (neighbour 1 1 = some 2 ∧ lanesOf 4 = [2 * 1] ∧ sectorAccepts w 2 = some true ∧ ((y w).part 0 0).length < partSize (y w).act ∧
      [0, 1, 2, 3].filter (fun p => field (y w).act (6 + p) == opposite 1 + 1) = [0] ∧ enabled (y w).act 0 = true) ∧
    (let z : World := w.setElem 2 { y w with parts := [(0, List.replicate (partSize (y w).act - 1) (tok 4))], freed := 1 }
     happens (.tokenSend 1 0) z (fun v => v.elem 2 == z.elem 2 && (v.elem 1).out.length == 1) = true ∧
     happens (.tokenSend 1 0) (z.setElem 2 { z.elem 2 with freed := 0 }) (fun v => (v.elem 2).onLane 0 0 == [tok 9]) = true) ∧
    (let x := { elemOf (tabSet 6 5 (tabSet 2 8 (plane 0x40 0 1 0 0 0 0 0 4))) [] with xb := [(0, tok 8)] }
     xbField x 0 = 8 ∧ happens (.tokenSend 1 1) (fab 1 x) (fun v => (v.elem 1).part 0 0 == [tok 8] && (v.elem 1).xb.isEmpty) = true) := by decide +kernel

/-- An `ldst` with a feedback port sends its marker and keeps its record, and records when the marker has come back (R115, R265). -/
theorem witness_FeedbackRecords :
    let x := elemOf (plane 0x80 0 1 0 0 0 0 0 4) []
    let n := recordOf (world []) 0 1
    let y := { elemOf (plane 0x80 0 1 0 0 0 0 0 4) [mrkWord 1] with early := some n }
    Claims.FeedbackOnly x ∧ ¬ Claims.FeedbackOnly (elemOf (plane 0x40 0 1 0 0 0 0 0 4) []) ∧ activeQueues x.act ≠ [] ∧ x.acc = [] ∧ x.out.length < 2 ∧ markersHead y 1 = true ∧
    happens (.snapshotRecord 0) { cutting Elem.reset with elems := [(0, x)] } (fun w => (w.elem 0).early.isSome && (w.elem 0).snap.isNone && (w.elem 0).out.length == 1) = true ∧
    happens (.snapshotRecord 0) { cutting Elem.reset with elems := [(0, y)] } (fun w => (w.elem 0).early.isNone && (w.elem 0).snap.isSome && (w.elem 0).out.isEmpty) = true := by
  refine ⟨?_, ?_, ?_⟩
  · unfold Claims.FeedbackOnly; decide +kernel
  · unfold Claims.FeedbackOnly; decide +kernel
  · decide +kernel

/-- A header that its check refuses (R79), and a load that waits for the owner's stores. -/
theorem witness_LoadsRefused : headerCause region0 0x01FFFFFFFFC01100 0 ≠ 0 ∧ (List.replicate 32 (0 : Byte)).length = 32 ∧
    happens (.loadBegin 0) (loading { region0 with cq := [(.load 0x01FFFFFFFFC01100 false, { asid := 0, ptb := 0, user := false })] })
      (fun w => (w.region 0).shadow == .none && (w.region 0).refused && (w.region 0).cause != 0) = true := by decide +kernel

/-- Task 7 waits for tag 8, whose entry the table holds behind it; and a record whose issuing thread has a store before its `tenq`. -/
theorem witness_TagsStand :
    let x := { task .waiting with deps := [.tag 8] }
    let w := { tasked x with tasks := [(7, x), (8, task .running)] }
    dieTasks w 0 = [] ++ (7, x) :: [(8, task .running)] ∧ (w.task? (taskKey 0 8)).isSome = true ∧ (task .running).phase ≠ .waiting ∧
    happens (.dependencePoll 0) w (fun v => (v.task? 7).map (·.phase) == some .waiting) = true ∧
    happens (.taskInsertion 0) (({ launching 7 with dies := [(0, { Die.reset with inbox := [{ launch 7 with after := some (0, 5) }] })] }).setThread 0 { thr [] with path := [aPathStore] })
      (fun v => (v.die 0).inbox.length == 1) = true := by decide +kernel

/-- The region that a `DREAD` has frozen while it waits; and a save whose region has a completion of its thread's `rgstart`. -/
theorem witness_StopsKept :
    let w := (victim .running).setRegion 0 { region0 with owner := none, task := some 7, frozen := true }
    let z : World := { w with jibor := { w.jibor with reading := some { region := 0, addr := 0, before := some (false, false) } } }
    readFrozen z 0 = true ∧ readFrozen w 0 = false ∧
    happens (.stopRequest 0 7) z (fun v => (v.task? 7).map (·.phase) == some .stopping && !(v.region 0).draining && v.jibor.reading.all fun y => y.before.all (·.2)) = true ∧
    threadSettled z 0 = true := by decide +kernel

/-- A store that waits at its store path and one on its way, of the asid that an invalidation names (R257). -/
theorem witness_InvalidationWaits :
    storesUnderWay (alone { thr [] with path := [aPathStore] }) 1 0 0 = true ∧ storesUnderWay (alone { thr [] with path := [{ aPathStore with phase := .waiting }] }) 1 0 0 = false ∧
    happens (.invalidationComplete 0) { alone { thr [] with path := [{ aPathStore with phase := .waiting }] } with dies := [(0, { Die.reset with tinvc := [(1, 0, 0)] })] }
      (fun w => (w.die 0).tinvc.isEmpty && (w.thread 0).path.map (·.phase) == [.again]) = true ∧
    powered (world []) 0 = true ∧ powered { world [] with cores := [(0, { Core.reset with off := true })] } 0 = false := by decide +kernel

set_option maxRecDepth 100000 in
/-- R141, R145, R148: a completion store whose budget is reached waits, with its task; so does a failure's. -/
theorem test_completion_waits :
    let n := [(9, { Node.free with refs := 1, lim := [0xFFFFFFFF, 0xFFFFFFFF, 0, 0xFFFFFFFF] })]
    let w := { tasked { task .running with region := some 0, path := [9] } with nodes := n }
    happens (.regionCompletion 0) w (fun v => (v.task? 7).isSome && byteAt v.mem 0x4000 == 0) = true ∧ failHeld w 7 7 = true := by decide +kernel

end Sys2Proof.Tests
end

section
/-! The exits that choose the next block (R168, R171, R216): what a `sev` and a commit leave, when an exit's effect stands, and the
statement about branches assembled from them. -/

namespace Sys2Proof.Machine

open Sys2Proof.Safety Sys2Proof.Claims

/-! ### The event flags of a core (R217) -/

theorem setFlag_thread (w : World) (t u : Nat) :
    (setFlag w t).thread u = if u = t then { w.thread u with flag := true } else w.thread u := by
  unfold setFlag
  split
  · next h => subst h; simp
  · next h => exact w.setThread_thread_other h _

/-- `sev` sets the event flag of the threads of its core and leaves every other thread. -/
theorem sevCore_thread (w : World) (c u : Nat) :
    (sevCore w c).thread u = if coreOf u = c then { w.thread u with flag := true } else w.thread u := by
  simp only [sevCore, List.foldl, setFlag_thread, coreOf]
  by_cases h : u / 4 = c
  · have hu : u = 4 * c + 0 ∨ u = 4 * c + 1 ∨ u = 4 * c + 2 ∨ u = 4 * c + 3 := by omega
    rcases hu with rfl | rfl | rfl | rfl <;> simp [h]
  · simp only [h, if_false]
    rw [if_neg (by omega), if_neg (by omega), if_neg (by omega), if_neg (by omega)]

/-! ### The commit of a block (R130, R215) -/

/-- A commit leaves what R130 says of a committed block, with the registers as they stand. -/
theorem commit_committed {s : State} {x : Txn} (h : s.txn = some x) (nxt : Word) :
    Committed s (commit s nxt) x s.readG nxt := by
  have hcore : coreOf s.turn = s.core := rfl
  unfold commit
  rw [h]
  cases hs : x.sev with
  | false =>
    constructor
    case regs => intro r; simp only [hs, Bool.false_eq_true, if_false, World.setThread_thread_same]; rfl
    case others => intro u hu; simp [hs, World.setThread_thread_other _ hu]
    case rest => simp only [hs]; rfl
    all_goals simp [hs, onwards]
  | true =>
    constructor
    case regs => intro r; simp only [hs, if_true, sevCore_thread, hcore, World.setThread_thread_same]; rfl
    case thread => simp [hs, onwards, sevCore_thread, hcore]
    case others => intro u hu; simp [hs, sevCore_thread, World.setThread_thread_other _ hu]
    case rest => simp only [hs]; rfl
    all_goals rfl

/-- What a block commits is the same seen from before a register write of its last word. -/
theorem committed_of_writeG {s t : State} {x : Txn} {d : Reg} {v : Word} {f : Reg → Word} {nxt : Word}
    (h : Committed (s.writeG d v) t x f nxt) : Committed s t x f nxt := by
  obtain ⟨closed, agenda, turn, hregs, thread, others, rest⟩ := h
  refine ⟨closed, agenda, turn, hregs, ?_, fun u hu => ?_, rest⟩
  · simpa using thread
  · have hother : (s.writeG d v).w.thread u = s.w.thread u := s.w.setThread_thread_other hu _
    have hcore : (s.writeG d v).core = s.core := rfl
    simpa [hother, hcore] using others u hu

/-- A register write and a commit leave the register file with that write. -/
theorem commit_writeG_committed {s : State} {x : Txn} (h : s.txn = some x) (d : Reg) (v nxt : Word) :
    Committed s (commit (s.writeG d v) nxt) x (regs s d v) nxt := by
  have hregs : (s.writeG d v).readG = regs s d v := funext fun r => s.readG_writeG r d v
  exact committed_of_writeG (hregs ▸ commit_committed (s := s.writeG d v) h nxt)

/-! ### Exits (R168, R177) -/

/-- Where nothing stands between an exit and its commit, the block leaves as the exit says. -/
theorem leaveBlock_of_mayLeave {s : State} {x : Txn} (h : s.txn = some x) (hl : MayLeave s x) (t : State) : leaveBlock s t = t := by
  obtain ⟨hlegal, hheld, hbudget⟩ := hl
  have hfree : blockHeld s = none := by simp [blockHeld, h, hheld, hbudget]
  simp [leaveBlock, h, hlegal, hfree]

section
variable {s : State} {x : Txn} {p : Pr} {u : Use} {f : Txn → State → Res}

/-- A reached exit that makes no access and may leave has the effect of its body. -/
theorem exitWord_leaves (hr : Reached s x p u.cls u.gs u.ps) (ha : u.acc = false) (hl : MayLeave s x) {t : State}
    (hf : f x s = .left t) : exitWord p u f s = .next t := by
  unfold exitWord
  obtain ⟨dep, he⟩ := word_runs (n := 1) _ hr (by simp [ha])
  rw [he]
  simp [hr.txn, hf, leaveBlock_of_mayLeave hr.txn hl]

/-- A reached exit that makes no access traps where its body does. -/
theorem exitWord_traps (hr : Reached s x p u.cls u.gs u.ps) (ha : u.acc = false) {code : Nat} {v : Word}
    (hf : f x s = .trap code v) : exitWord p u f s = .next (trapWord s code v) := by
  unfold exitWord
  obtain ⟨dep, he⟩ := word_runs (n := 1) _ hr (by simp [ha])
  rw [he]
  simp [hr.txn, hf]

end

/-- A word whose predicate does not hold, and depends on no indivisible word, only goes on (R173). -/
theorem word_skips {n : Nat} {p : Pr} {u : Use} {s : State} {x : Txn} (body : State → Res) (h : s.txn = some x)
    (hp : s.thr.holds p = false) (hd : x.depP.getLsbD p.pr.toNat = false) :
    ∃ t, word n p u body s = .next t ∧ t.w = s.w ∧ Onward s t x n := by
  have hdep : maskP x.depP [p.pr] = false := maskP_eq_false.2 (by simpa using hd)
  refine ⟨advance s n u false false, ?_, advance_w .., advance_onward n u false false rfl rfl h rfl⟩
  simp [word, h, hp, hdep]

/-! ### Targets from a register (R216) -/

/-- Bits 6..0 are clear exactly in a multiple of a line's 128 bytes. -/
theorem and_0x7F_eq_zero_iff (v : Word) : v &&& 0x7F = 0 ↔ v.toNat % 128 = 0 := by
  have hmask : (v &&& 0x7F).toNat = v.toNat % 128 := by
    rw [BitVec.toNat_and]; exact Nat.and_two_pow_sub_one_eq_mod _ 7
  rw [← BitVec.toNat_inj, hmask]; rfl

theorem leaveTo_of_aligned {v : Word} (h : v.toNat % 128 = 0) (s : State) (before : State → State) :
    leaveTo s v before = .left (commit (before s) v) := if_pos ((and_0x7F_eq_zero_iff v).2 h)

theorem leaveTo_of_not_aligned {v : Word} (h : ¬ v.toNat % 128 = 0) (s : State) (before : State → State) :
    leaveTo s v before = .trap 0x08 v := if_neg fun hv => h ((and_0x7F_eq_zero_iff v).1 hv)

/-- The entry of a table of lines is aligned exactly where the table is. -/
theorem tableTarget_mod (v a : Word) : (v + 128 * a).toNat % 128 = v.toNat % 128 := by
  have h128 : (128 : Word).toNat = 128 := rfl
  rw [BitVec.toNat_add, BitVec.toNat_mul, h128]
  omega

/-! ### The branches -/

theorem exec_br (p : Pr) (off : BitVec 22) (s : State) : exec (.br p off) s = execBr p off s := rfl
theorem exec_call (p : Pr) (off : BitVec 22) (s : State) : exec (.call p off) s = execCall p off s := rfl
theorem exec_jmp (p : Pr) (d : Reg) (s : State) : exec (.jmp p d) s = execJmp p d s := rfl
theorem exec_callx (p : Pr) (d : Reg) (s : State) : exec (.callx p d) s = execCallx p d s := rfl
theorem exec_ret (p : Pr) (s : State) : exec (.ret p) s = execRet p s := rfl
theorem exec_tbr (p : Pr) (d a : Reg) (s : State) : exec (.tbr p d a) s = execTbr p d a s := rfl
theorem exec_bdec (p : Pr) (d : Reg) (off : BitVec 16) (s : State) : exec (.bdec p d off) s = execBdec p d off s := rfl

section
variable {s : State} {x : Txn} {p : Pr}

/-- `br` and `call` go to the line at their offset; `call` leaves the link in g1. -/
theorem offset_branches_commit (hl : MayLeave s x) (hr : Reached s x p .exit [] []) (off : BitVec 22) :
    (∃ t, exec (.br p off) s = .next t ∧ Committed s t x s.readG (x.base + 128 * off.signExtend 64)) ∧
    ∃ t, exec (.call p off) s = .next t ∧ Committed s t x (regs s 1 (nb x)) (x.base + 128 * off.signExtend 64) :=
  ⟨⟨_, (exec_br ..).trans (exitWord_leaves (u := use .exit [] []) hr rfl hl rfl), commit_committed hr.txn _⟩,
   ⟨_, (exec_call ..).trans (exitWord_leaves (u := use .exit [] [1]) hr rfl hl rfl), commit_writeG_committed hr.txn _ _ _⟩⟩

/-- `bdec` counts gD down, and goes to the line at its offset while the count is not 0. -/
theorem bdec_commits (hl : MayLeave s x) {d : Reg} (hr : Reached s x p .exit [d] []) (off : BitVec 16) :
    ∃ t, exec (.bdec p d off) s = .next t ∧ Committed s t x (regs s d (s.readG d - 1))
      (if s.readG d - 1 ≠ 0 then x.base + 128 * off.signExtend 64 else nb x) :=
  ⟨_, (exec_bdec ..).trans (exitWord_leaves (u := use .exit [d] [d]) hr rfl hl rfl), commit_writeG_committed hr.txn _ _ _⟩

/-- `jmp`, `callx` and `ret` go to an aligned target in their register; `callx` leaves the link in g1. -/
theorem jmp_commits (hl : MayLeave s x) {d : Reg} (hr : Reached s x p .other [d] []) (h : (s.readG d).toNat % 128 = 0) :
    ∃ t, exec (.jmp p d) s = .next t ∧ Committed s t x s.readG (s.readG d) :=
  ⟨_, (exec_jmp ..).trans (exitWord_leaves (u := quiet (use .other [d] [])) hr rfl hl (leaveTo_of_aligned h s id)),
    commit_committed hr.txn _⟩

theorem callx_commits (hl : MayLeave s x) {d : Reg} (hr : Reached s x p .other [d] []) (h : (s.readG d).toNat % 128 = 0) :
    ∃ t, exec (.callx p d) s = .next t ∧ Committed s t x (regs s 1 (nb x)) (s.readG d) :=
  ⟨_, (exec_callx ..).trans (exitWord_leaves (u := quiet (use .other [d] [1])) hr rfl hl (leaveTo_of_aligned h s _)),
    commit_writeG_committed hr.txn _ _ _⟩

theorem ret_commits (hl : MayLeave s x) (hr : Reached s x p .other [1] []) (h : (s.readG 1).toNat % 128 = 0) :
    ∃ t, exec (.ret p) s = .next t ∧ Committed s t x s.readG (s.readG 1) :=
  ⟨_, (exec_ret ..).trans (exitWord_leaves (u := quiet (use .other [1] [])) hr rfl hl (leaveTo_of_aligned h s id)),
    commit_committed hr.txn _⟩

/-- `tbr` goes to the line that gA picks in an aligned table. -/
theorem tbr_commits (hl : MayLeave s x) {d a : Reg} (hr : Reached s x p .other [d, a] []) (h : (s.readG d).toNat % 128 = 0) :
    ∃ t, exec (.tbr p d a) s = .next t ∧ Committed s t x s.readG (s.readG d + 128 * s.readG a) :=
  ⟨_, (exec_tbr ..).trans (exitWord_leaves (u := quiet (use .other [d, a] [])) hr rfl hl
    (leaveTo_of_aligned ((tableTarget_mod _ _).trans h) s id)), commit_committed hr.txn _⟩

/-- A target that is not aligned traps at the jump, with the target in tval. -/
theorem jmp_callx_trap {d : Reg} (hr : Reached s x p .other [d] []) (h : ¬ (s.readG d).toNat % 128 = 0) :
    ∀ i ∈ [Instr.jmp p d, .callx p d], exec i s = .next (trapWord s 0x08 (s.readG d)) := by
  refine List.forall_mem_cons.2 ⟨?_, List.forall_mem_singleton.2 ?_⟩
  · exact (exec_jmp ..).trans (exitWord_traps (u := quiet (use .other [d] [])) hr rfl (leaveTo_of_not_aligned h s id))
  · exact (exec_callx ..).trans (exitWord_traps (u := quiet (use .other [d] [1])) hr rfl (leaveTo_of_not_aligned h s _))

theorem ret_traps (hr : Reached s x p .other [1] []) (h : ¬ (s.readG 1).toNat % 128 = 0) :
    exec (.ret p) s = .next (trapWord s 0x08 (s.readG 1)) :=
  (exec_ret ..).trans (exitWord_traps (u := quiet (use .other [1] [])) hr rfl (leaveTo_of_not_aligned h s id))

theorem tbr_traps {d a : Reg} (hr : Reached s x p .other [d, a] []) (h : ¬ (s.readG d).toNat % 128 = 0) :
    exec (.tbr p d a) s = .next (trapWord s 0x08 (s.readG d + 128 * s.readG a)) :=
  (exec_tbr ..).trans (exitWord_traps (u := quiet (use .other [d, a] [])) hr rfl
    (leaveTo_of_not_aligned (fun ht => h ((tableTarget_mod _ _).symm.trans ht)) s id))

/-- Every branch runs in the frame of a one-word exit. -/
theorem exec_branch_eq_exitWord (p : Pr) (off : BitVec 22) (off' : BitVec 16) (d a : Reg) (s : State) :
    ∀ i ∈ [Instr.br p off, .call p off, .jmp p d, .callx p d, .ret p, .tbr p d a, .bdec p d off'],
      ∃ u f, exec i s = exitWord p u f s := by
  simp only [List.forall_mem_cons]
  exact ⟨⟨_, _, exec_br ..⟩, ⟨_, _, exec_call ..⟩, ⟨_, _, exec_jmp ..⟩, ⟨_, _, exec_callx ..⟩, ⟨_, _, exec_ret ..⟩,
    ⟨_, _, exec_tbr ..⟩, ⟨_, _, exec_bdec ..⟩, List.forall_mem_nil _⟩

end

/-- Settles O22: each branch has the frame of an exit, whose commit stands where nothing holds it; a target from a register
is aligned or traps. -/
theorem branches : Obligations.Branches := by
  unfold Obligations.Branches
  intro s x p hl
  refine ⟨fun hr off => offset_branches_commit hl hr off, fun d hr off => bdec_commits hl hr off, fun d hr => ⟨fun h => ?_, ?_⟩,
    fun hr => ⟨ret_commits hl hr, ret_traps hr⟩, fun d a hr => ⟨tbr_commits hl hr, tbr_traps hr⟩, ?_⟩
  · exact ⟨jmp_commits hl hr h, callx_commits hl hr h⟩
  · exact jmp_callx_trap hr
  · intro htxn hp hd off off' d a i hi
    obtain ⟨u, f, he⟩ := exec_branch_eq_exitWord p off off' d a s i hi
    rw [he]
    exact word_skips _ htxn hp hd

end Sys2Proof.Machine
end

section
/-! Bytes of format e8m0 (R305): the value of a byte, and a slot's block scale read as one (R236). -/

namespace Sys2Proof.Machine

/-- Format code 0x0C is neither an integer nor another floating-point format: its elements read as e8m0 (R299). -/
theorem fmtVal_e8m0 (x : Nat) : fmtVal 0x0C x = e8m0 x := by
  have hint : intFmt 0x0C = none := rfl
  have hfloat : floatFmt 0x0C = none := rfl
  simp only [fmtVal, hint, hfloat]

theorem e8m0_of_lt {v : Nat} (hv : v < 256) : e8m0 v = if v = 255 then .nan else .fin false 1 ((v : Int) - 127) false := by
  have hint : (v : Int) % 256 = v := Int.emod_eq_of_lt v.cast_nonneg (by exact_mod_cast hv)
  rw [e8m0, Nat.mod_eq_of_lt hv, hint]

/-- With `SCL` set in the descriptor, a block scale is the e8m0 byte that stands in the sideband (R236). -/
theorem slotScale_of_scl {d : Nat} (hd : d.testBit 21 = true) (x : Slot) (r k : Nat) :
    slotScale x d r k = e8m0 (tabGet 0 (8 * r + k / 32) x.side).toNat :=
  if_pos hd

/-- Settles O34: code 0x0C reads a byte as e8m0, and a block scale reads the sideband's byte the same way. -/
theorem scaleBytes : Obligations.ScaleBytes := by
  unfold Obligations.ScaleBytes
  intro v hv
  refine ⟨(fmtVal_e8m0 v).trans (e8m0_of_lt hv), fun x d r k hd hbyte => ?_⟩
  have htoNat : (BitVec.ofNat 8 v).toNat = v := (BitVec.toNat_ofNat v 8).trans (Nat.mod_eq_of_lt hv)
  rw [slotScale_of_scl hd, hbyte, htoNat, fmtVal_e8m0]

end Sys2Proof.Machine
end
